-- ==== Sys2Proof/Word.lean ====
section
/-! DEFINITION. The word types of the part (spec/11: bytes, 2-byte and 4-byte little-endian fields; 24-bit bus addresses). -/

namespace Sys2Proof

/-- One byte of memory or of a frame. -/
abbrev Byte := BitVec 8

/-- A 2-byte field: a tag, an address on air, a dispatch zone number. -/
abbrev Half := BitVec 16

/-- A memory word, and every 4-byte field (spec/00, Conventions). -/
abbrev Word := BitVec 32

/-- A byte address on either bus port (spec/00, Table 2). -/
abbrev Addr := BitVec 24

/-- A counter described as saturating stays at its maximum once it has reached it (spec/00, Counters). -/
def satAdd (max n k : Nat) : Nat := min (n + k) max

end Sys2Proof
end

