-- ==== Sys2Proof/Syntax.lean ====
section
/-! DEFINITION. The commands of the part: one constructor for each row of spec/opcode_table.json, with operands (log entry 13). -/

namespace Sys2Proof

/-- A checked downlink frame as the frame dispatcher hands it over (R60): flags, address, sequence, body, and the terminal clock at which it completed (R59). -/
structure DownFrame where
  flags  : Byte
  addr   : Half
  seq    : Byte
  body   : List Byte
  doneAt : Word
  deriving DecidableEq, Repr

/-- One single-word access at the processor port (R158): byte address, byte-lane enables, and the data of a write (none for a read). -/
structure Access where
  addr  : Addr
  lanes : BitVec 4
  write : Option Word
  deriving DecidableEq, Repr

/-- The data bits of one received character in the order they came, and whether its start bit fell while RXD was taken (R45; log entry 27). -/
structure DataBits where
  heard : Bool
  bits  : Byte
  deriving DecidableEq, Repr

/-- The commands. A request's tag is the one its record carries; a request's operands are the bytes of its record, unchecked (R171 checks them). -/
inductive Instr where
  -- resets
  | fullReset
  | resetAssert
  | resetRelease
  | initialWritesDone
  -- meter and trips
  | odoPulse
  | secondTick
  | holdoffEnd
  | tripEnqueue
  | tariff (f : DownFrame)
  | meterHire (tag : Half) (slot : Byte)
  | meterStop (tag : Half)
  | meterResume (tag : Half)
  | meterExtra (tag : Half) (amount : Half) (code : Byte)
  | meterClear (tag : Half)
  | tariffSelect (tag : Half) (slot : Byte)
  | shiftClose (tag : Half)
  -- other requests
  | dutySet (tag : Half) (value : Byte)
  | accept (tag : Half) (id : Word)
  | decline (tag : Half) (id : Word)
  | sendText (tag : Half) (canned : Byte) (text : List Byte)
  | alarmRaise (tag : Half)
  | alarmCancel (tag : Half)
  | blackboxClear (tag : Half)
  | linkRestart (tag : Half)
  | requestUnknown (tag : Half) (code : Byte)
  -- rings and agent
  | requestProducerIndexWrite (value : Word)
  | requestFetchStart
  | requestFetchComplete
  | requestIndexComplete
  | eventConsumerIndexWrite (value : Word)
  | eventTaskStart
  | eventDeposited
  | eventTaskComplete
  | heldReportPlaced
  | tripLogWriteComplete
  | blackBoxWriteComplete
  | agentWordEnd
  | portGrant
  -- processor side
  | processorAccess (a : Access)
  | processorAccessComplete
  | snoopedWordWrite (offset : Half) (lanes : BitVec 4) (value : Word)
  | guardViolation (offset : Half) (lanes : BitVec 4) (value : Word)
  | snapshotLatch
  | attentionWordWrite (value : Word)
  | attentionEnableWrite (value : Word)
  | settingsCommit (value : Word)
  | positionCommit (value : Word)
  -- receiver: the start and the data bits, the parity bit, the two stop bits
  | rxdCharacter (bits : DataBits) (parity stop1 stop2 : Bool)
  | gapLimitEnd
  | syncHalfPauseEnd
  -- frames handed over
  | offer (f : DownFrame)
  | award (f : DownFrame)
  | reject (f : DownFrame)
  | withdraw (f : DownFrame)
  | text (f : DownFrame)
  | alarmAck (f : DownFrame)
  | alarmEnd (f : DownFrame)
  | ack (f : DownFrame)
  | poll (f : DownFrame)
  | channel (f : DownFrame)
  -- link
  | channelChangeApply
  | cdRise
  | cdFall
  | slotEnd
  | congestionDwellEnd
  | keyupDelayEnd
  | transmissionEnd
  | tailEnd
  | turnaroundEnd
  | settleEnd
  | ackTimerEnd (seq : Byte)
  -- supervisor
  | rdyRise
  | rdyFall
  | readyTimerEnd
  | stuckBusyTimerEnd
  | powerOffTimerEnd
  | healthyTimerEnd
  -- offers
  | offerWindowEnd (entry : Fin 8)
  | awardWaitEnd
  -- emergency
  | eswFall
  | eswRise
  | holdTimerEnd
  | repeatTimerEnd
  | cooldownEnd
  | trackingTimerEnd
  | graceTimerEnd
  -- lines
  | alertPulseEnd
  | strapChange (base1 base0 : Bool)
  deriving DecidableEq, Repr

end Sys2Proof
end

