-- ==== Sys2Proof/Config.lean ====
section
/-! DEFINITION. The part's fixed numbers, each with the rule that gives it, and the free values (values the spec leaves open; nothing constrains them). -/

namespace Sys2Proof.Config

/-- The accumulator threshold of a step (R15). -/
def threshold : Nat := 1048576
/-- The fare cap (R17). -/
def fareCap : Nat := 9999999
/-- The limit of the extras (R11). -/
def extrasCap : Nat := 99999
/-- The limit of a 32-bit saturating counter (R1, R27). -/
def max32 : Nat := 4294967295
/-- The limit of a 16-bit saturating counter. -/
def max16 : Nat := 65535
/-- The limit of an 8-bit saturating counter (R57, R138). -/
def max8 : Nat := 255
/-- The largest increment of a tariff record (R3, Table 6). -/
def incrementMax : Nat := 1048575
/-- Trips the backlog holds (R27). -/
def backlogSize : Nat := 16
/-- Segments of a trip record (R29). -/
def segmentMax : Nat := 6
/-- The trip holdoff in seconds (R36). -/
def holdoffSeconds : Nat := 60
/-- Records of the trip log (R32). -/
def tripLogSize : Nat := 64
/-- The largest body length of a frame (R49). -/
def bodyMax : Nat := 150
/-- Entries of the dedupe list (R62). -/
def dedupeSize : Nat := 8
/-- Entries of the recent downlink list (R59). -/
def recentSize : Nat := 4
/-- Entries of the uplink queue (R77). -/
def uplinkSize : Nat := 12
/-- The settle time in ms (R74). -/
def settleMs : Nat := 250
/-- The ready timer in seconds (R91). -/
def readySeconds : Nat := 5
/-- The healthy timer in seconds (R96). -/
def healthySeconds : Nat := 60
/-- Power cycles before FAILED (R94). -/
def cyclesMax : Nat := 3
/-- Offer entries (R104) and message pool slots (R125). -/
def tableSize : Nat := 8
/-- Places of the internal event queue (R172). -/
def eventQueueSize : Nat := 16
/-- Events the event ring holds (R174). -/
def eventRingMax : Nat := 63
/-- Attempts of a round (R143). -/
def roundAttempts : Nat := 8
/-- Processor accesses passed while the agent waits (R166). -/
def passMax : Nat := 8
/-- Periods of the time base in a second (R134). -/
def basePeriods : Nat := 32768
/-- The pulse of an admitted offer, in periods of the time base: 500 ms (R109, R134). -/
def offerPulse : Nat := 16384
/-- The pulse of an URGENT text, in periods of the time base: 2 s (R132, R134). -/
def textPulse : Nat := 65536

/-- FREE VALUE (log entry 5): the random number behind the n-th backoff draw (R67). -/
opaque backoffDraw : Nat → Nat

/-- FREE VALUE (log entry 6): the period of the time base within the current second in which the n-th pulse request falls (R134). -/
opaque subSecond : Nat → Nat

/-- FREE VALUE (log entry 7): whether the request reader goes before the frame dispatcher when both wait for the same two free places (R60, R170). -/
opaque readerFirst : Nat → Bool

end Sys2Proof.Config
end

