-- ==== Sys2Proof/Machine/State.lean ====
section
/-! DEFINITION. The state of the part as plain data: every piece of state the spec gives each block, the reset values, and one update function per part of the state. -/

namespace Sys2Proof.Machine

/-- The part never stops: no rule of the spec names a behaviour that ends its operation, so no command faults (NOTES.md, Stops). -/
inductive Fault where
  deriving DecidableEq, Repr

/-- Why a command has no meaning yet. -/
inductive Refusal where
  /-- Raised by an arm of exec that has no meaning yet (safe: nothing can be proved of it). No arm raises it. -/
  | notModelled (mnemonic : String)
  deriving DecidableEq, Repr

/-! ### Resets and pins -/

/-- Where the part stands with its resets (R167): during a full reset, with RESET asserted, or released. -/
inductive Phase where
  | fullReset | terminalReset | running
  deriving DecidableEq, Repr

/-- The levels of the input lines that are watched as levels (spec/00, Table 2); true is high. -/
structure Pins where
  cd    : Bool
  rdy   : Bool
  esw   : Bool
  base1 : Bool
  base0 : Bool
  deriving DecidableEq, Repr

/-! ### Fare meter (spec/01) -/

inductive MeterState where
  | vacant | hired | hold
  deriving DecidableEq, Repr

/-- A tariff record (R3, Table 6). -/
structure Tariff where
  version       : Nat
  flagDrop      : Nat
  stepAmount    : Nat
  distanceInc   : Nat
  timeInc       : Nat
  slowThreshold : Nat
  deriving DecidableEq, Repr

/-- The active copy: its source slot with the tariff record (R1). -/
structure ActiveCopy where
  slot   : Nat
  tariff : Tariff
  deriving DecidableEq, Repr

inductive PendingKind where
  | reload | select
  deriving DecidableEq, Repr

/-- A pending change (R1). -/
structure PendingChange where
  kind : PendingKind
  slot : Nat
  deriving DecidableEq, Repr

/-- The fare meter's state (R1, Table 5). -/
structure Meter where
  state       : MeterState
  fare        : Nat
  fareCap     : Bool
  extras      : Nat
  acc         : Nat
  hiredPulses : Nat
  elapsed     : Nat
  holdSecs    : Nat
  active      : Option ActiveCopy
  change      : Option PendingChange
  slots       : List (Option Tariff)
  secondCount : Nat
  rejectMark  : Bool
  pulseFault  : Bool
  peak        : Nat
  deriving DecidableEq, Repr

/-! ### Trip records and the shift (spec/02) -/

/-- A tariff segment of a trip (Table 12). -/
structure Segment where
  slot    : Nat
  version : Nat
  steps   : Nat
  deriving DecidableEq, Repr

/-- A trip record (Table 12). -/
structure TripRecord where
  number      : Nat
  offerId     : Option Word
  start       : Word
  finish      : Word
  hiredPulses : Nat
  holdSecs    : Nat
  fare        : Nat
  extras      : Nat
  total       : Nat
  peak        : Nat
  emergency   : Bool
  pulseFault  : Bool
  fareCap     : Bool
  unreported  : Bool
  truncated   : Bool
  segments    : List Segment
  deriving DecidableEq, Repr

/-- The shift totals (R27, R39). The two sums are exact. -/
structure Shift where
  trips          : Nat
  fareTotal      : Nat
  extrasTotal    : Nat
  hiredPulses    : Nat
  totalPulses    : Nat
  rejectedPulses : Nat
  unreported     : Nat
  start          : Word
  deriving DecidableEq, Repr

/-! ### Names used by events -/

/-- Refusal reasons, in the order of Table 45 note 1. -/
inductive Reason where
  | unknown | malformed | outOfRange | noSuchOffer | tooLate | oneJob | emergency | wrongState
  | noTariff | poolFull | queueFull | graceOver | notFailed | linkDown
  deriving DecidableEq, Repr

/-- Closing reasons, in the order of Table 45 note 2. -/
inductive ClosingReason where
  | expired | declined | superseded | suppressed | settings | withdrawn | taken | noAward | link
  | abandoned | done
  deriving DecidableEq, Repr

/-- Whether a RELEASE went with a closing (Table 45). -/
inductive ReleaseNote where
  | noneOffered | released | notReleased
  deriving DecidableEq, Repr

/-- The case of a late award (R116). -/
inductive LateCase where
  | unknown | closing | open | abandoned
  deriving DecidableEq, Repr

inductive OfferKind where
  | openCall | direct
  deriving DecidableEq, Repr

inductive Duty where
  | free | busy | offDuty
  deriving DecidableEq, Repr

/-- The cause of a DUTY_CHANGED (R106). -/
inductive DutyCause where
  | dutySet | meter | award | jobEnd
  deriving DecidableEq, Repr

/-- The result carried by an ACK frame (R61). -/
inductive AckResult where
  | taken | refused
  deriving DecidableEq, Repr

/-- The reason of a TEXT_FAILED (R130). -/
inductive FailReason where
  | link | displaced | linkDown
  deriving DecidableEq, Repr

/-- The link state: the supervisor's four states and the seven channel-access states (spec/11, link state codes). -/
inductive LinkState where
  | offline | powerOff | powerOnWait | failed
  | listen | contend | keyup | sending | tail | turnaround | settle
  deriving DecidableEq, Repr

/-- The cause of a LINK_STATE (R100). -/
inductive LinkCause where
  | release | commit | rdy | stuckBusy | rdyLoss | readyTimeout | powerOffEnd | linkRestart | override
  deriving DecidableEq, Repr

inductive EmState where
  | quiet | calling | cooldown | exhausted | tracking
  deriving DecidableEq, Repr

/-- The cause of an EMERGENCY_STATE (R149). -/
inductive EmCause where
  | switchRaise | requestRaise | roundEnd | cooldownEnd | alarmAck | alarmEnd | cancel | blackboxClear
  deriving DecidableEq, Repr

inductive RaiseSource where
  | switch | request
  deriving DecidableEq, Repr

/-- The outcome of the last settings commit (R175). -/
inductive CommitOutcome where
  | noCommit | accepted | busy | range
  deriving DecidableEq, Repr

/-! ### Events (spec/11, Table 45) -/

/-- The payload of an event. -/
inductive Payload where
  | refused (code : Byte) (reason : Reason)
  | offerNew (id : Word) (zone : Half) (kind : OfferKind) (window : Nat) (scope : Nat)
      (text : List Byte) (truncated : Bool)
  | offerAwarded (id : Word) (zone : Half) (kind : OfferKind) (direct : Bool)
      (text : List Byte) (truncated : Bool)
  | offerClosed (id : Word) (reason : ClosingReason) (release : ReleaseNote)
  | lateAward (id : Word) (case : LateCase) (release : ReleaseNote)
  | jobCancelled (id : Word)
  | textIn (scope : Nat) (urgent truncated : Bool) (seq : Byte) (addr : Half) (canned : Byte)
      (lengthOnAir : Nat) (doneAt : Word) (text : List Byte)
  | textDelivered (result : AckResult) (slot seq attempts : Nat)
  | textFailed (reason : FailReason) (slot seq attempts : Nat)
  | meterState (cause : Byte) (before after : MeterState) (slot : Option Nat)
      (change : Option PendingChange) (fare extras : Nat) (extraCode : Nat) (requested added : Nat)
  | tariffLoaded (slot version scope : Nat) (reloadSet : Bool)
  | tariffApplied (kind : PendingKind) (newSlot newVersion oldSlot oldVersion fare : Nat)
  | tripClosed (number fare extras total : Nat) (flags : Byte) (segments backlog : Nat)
  | tripReported (number backlogAfter : Nat)
  | shiftClosed (totals : Shift) (finish : Word)
  | dutyChanged (driver effective before : Duty) (cause : DutyCause)
  | linkState (left entered : LinkState) (cause : LinkCause) (cycles : Nat) (override : Bool)
  | emergencyState (now previous : EmState) (cause : EmCause) (round count : Nat)
      (captured : Option RaiseSource) (changes : Nat)
  | settingsTaken (outcome : CommitOutcome) (field : Nat)
  deriving DecidableEq, Repr

/-- An event: its tag, the terminal clock at its production, and its payload (R182). -/
structure Event where
  tag     : Half
  time    : Word
  payload : Payload
  deriving DecidableEq, Repr

/-- A held report with its order of production (R172). -/
structure HeldReport where
  order : Nat
  event : Event
  deriving DecidableEq, Repr

/-- The trip recorder's state (R27, Table 11). -/
structure TripRecorder where
  next     : Nat
  openTrip : Option TripRecord
  logWrite : Option TripRecord
  logIndex : Nat
  backlog  : List TripRecord
  holdoff  : Option Nat
  reports  : List HeldReport
  shift    : Shift
  deriving DecidableEq, Repr

/-! ### Frame receiver (spec/03) -/

inductive Deframing where
  | hunt | syncHalf | header | body | check | skip
  deriving DecidableEq, Repr

/-- A receive buffer (R52); a READY one holds its frame's class, the frame and its place in completion order. -/
inductive Buffer where
  | free
  | filling
  | ready (cls : Byte) (frame : DownFrame) (order : Nat)
  deriving DecidableEq, Repr

/-- An entry of the recent downlink list (R59). -/
structure RecentFrame where
  cls    : Byte
  seq    : Byte
  doneAt : Word
  deriving DecidableEq, Repr

/-- The frame receiver's state, with the lists the frame dispatcher uses (R64). -/
structure Receiver where
  deframer   : Deframing
  stored     : List Byte
  charBad    : Bool
  skipped    : Nat
  skipLength : Nat
  bufA       : Buffer
  bufB       : Buffer
  nextOrder  : Nat
  badRun     : Nat
  linkPoor   : Bool
  totalBad   : Nat
  overrun    : Nat
  unknown    : Nat
  dedupe     : List (Byte × AckResult)
  recent     : List RecentFrame
  deriving DecidableEq, Repr

/-! ### Link controller and uplink queue (spec/04) -/

/-- The link controller's state (R65, Table 18). An entry is named by its sequence number, which no other entry holds (R80). -/
structure Link where
  state          : LinkState
  target         : Option Nat
  backoff        : Nat
  slotTimer      : Option Nat
  clock          : Option Nat
  dwellPassed    : Bool
  keyed          : Option Nat
  phaseTimer     : Option Nat
  channel        : Nat
  pendingChannel : Option Nat
  seqCounter     : Nat
  tx             : List Byte
  deriving DecidableEq, Repr

/-- Uplink classes (R77, Table 20). -/
inductive UpClass where
  | alarm | bid | release | ack | status | trip | text
  deriving DecidableEq, Repr

inductive EntryState where
  | queued | onAir | awaitAck
  deriving DecidableEq, Repr

/-- The owner reference of an entry (R77). -/
inductive OwnerRef where
  | none
  | offer (index : Nat)
  | offerId (id : Word)
  | slot (index : Nat)
  | trip (number : Nat)
  deriving DecidableEq, Repr

/-- An entry of the uplink queue (R77). -/
structure Entry where
  cls       : UpClass
  seq       : Nat
  body      : List Byte
  tracking  : Bool
  cancelled : Bool
  ref       : OwnerRef
  attempts  : Nat
  state     : EntryState
  answered  : Bool
  abandon   : Bool
  ackTimer  : Option Nat
  time      : Nat
  deriving DecidableEq, Repr

/-- The uplink queue, its entries in queue order (R78), and its two counters (R77). -/
structure Uplink where
  entries   : List Entry
  dropped   : Nat
  unmatched : Nat
  nextTime  : Nat
  deriving DecidableEq, Repr

/-! ### Radio supervisor (spec/05) -/

/-- The radio supervisor's state beside the link state (R90, Table 23); a timer holds its remaining seconds. -/
structure Supervisor where
  cycles    : Nat
  override  : Bool
  ready     : Option Nat
  powerOff  : Option Nat
  stuckBusy : Option Nat
  healthy   : Option Nat
  deriving DecidableEq, Repr

/-! ### Offer table (spec/06) -/

inductive OfferState where
  | open | bidSent | awarded | closing
  deriving DecidableEq, Repr

inductive BidProgress where
  | queued | onAir | awaitAck | acked
  deriving DecidableEq, Repr

/-- The deferred outcome behind an abandon mark (R119). -/
inductive Deferred where
  | abandon | taken | award | late
  deriving DecidableEq, Repr

/-- An offer entry that is not FREE (R104, Table 26), with its place in the order of admission (R107). -/
structure Offer where
  state     : OfferState
  id        : Word
  zone      : Half
  kind      : OfferKind
  text      : List Byte
  truncated : Bool
  remaining : Option Nat
  progress  : Option BidProgress
  bidSeq    : Option Nat
  deferred  : Option Deferred
  tag       : Half
  reason    : Option ClosingReason
  held      : Option HeldReport
  admitted  : Nat
  deriving DecidableEq, Repr

/-- The offer table (R104); a FREE entry is none. -/
structure OfferTable where
  entries    : List (Option Offer)
  driverDuty : Duty
  suppressed : Nat
  malformed  : Nat
  overflow   : Nat
  nextAdmit  : Nat
  deriving DecidableEq, Repr

/-! ### Message pool (spec/07) -/

/-- A slot in use (R125, Table 30). -/
structure Slot where
  tag      : Half
  ref      : Option Nat
  held     : Option HeldReport
  attempts : Option Nat
  deriving DecidableEq, Repr

/-- The message pool (R125); a FREE slot is none. -/
structure Pool where
  slots     : List (Option Slot)
  malformed : Nat
  deriving DecidableEq, Repr

/-! ### Position record (spec/10, R177) -/

structure Position where
  latitude  : Word
  longitude : Word
  speed     : Half
  heading   : Nat
  fixValid  : Bool
  deriving DecidableEq, Repr

/-! ### Emergency controller (spec/08) -/

/-- The contents of a captured black box (R151). -/
structure BlackBox where
  time        : Word
  source      : RaiseSource
  meterState  : MeterState
  tripNumber  : Nat
  fare        : Nat
  extras      : Nat
  hiredPulses : Nat
  slot        : Option Nat
  position    : Option Position
  fixAge      : Nat
  jobId       : Option Word
  link        : LinkState
  totalBad    : Nat
  queueLength : Nat
  recent      : List RecentFrame
  deriving DecidableEq, Repr

inductive WriteMark where
  | clear | pending | rewrite
  deriving DecidableEq, Repr

/-- The owed offer (R142); a CANCELLED one keeps the round and attempt of the cancelled call. -/
inductive OwedAlarm where
  | call
  | tracking
  | cancelled (round attempt : Nat)
  deriving DecidableEq, Repr

/-- The pending EMERGENCY_STATE report (R149). -/
structure EmReport where
  order    : Nat
  tag      : Half
  time     : Word
  now      : EmState
  cause    : EmCause
  round    : Nat
  count    : Nat
  captured : Option RaiseSource
  changes  : Nat
  deriving DecidableEq, Repr

/-- The emergency controller's state (R138, Table 33); holdTimer is the hold time in ms while it runs, the other timers hold remaining seconds. -/
structure Emergency where
  state      : EmState
  round      : Nat
  attempt    : Nat
  trackCount : Nat
  holdTimer     : Option Nat
  armed      : Bool
  repeatTimer   : Option Nat
  cooldownTimer : Option Nat
  trackTimer    : Option Nat
  graceTimer    : Option Nat
  owed       : Option OwedAlarm
  keyedCount : Nat
  lastSent   : Word
  ignored    : Nat
  report     : Option EmReport
  lastPlaced : EmState
  box        : Option BlackBox
  boxMark    : WriteMark
  deriving DecidableEq, Repr

/-! ### Memory path (spec/09) -/

/-- Where the access in hand stands: held (R167, R168), waiting for the port, or on it (R166). -/
inductive AccessStage where
  | held | waiting | onPort
  deriving DecidableEq, Repr

structure InHand where
  access : Access
  stage  : AccessStage
  deriving DecidableEq, Repr

inductive PortUse where
  | free | processor | agent
  deriving DecidableEq, Repr

/-- The path switch and the port arbiter (R158 to R167). A discarded snapshot is the empty list. -/
structure Path where
  base       : Option Nat
  snapshot   : List Word
  guardCount : Nat
  inHand     : Option InHand
  answer     : Option Word
  port       : PortUse
  passCount  : Nat
  deriving DecidableEq, Repr

/-- One agent word of a task (R165), by offset in the terminal area; producer is the event producer index word, whose end is the deposit. -/
inductive AgentWord where
  | read (offset : Nat)
  | write (offset : Nat) (value : Word)
  | producer (value : Nat)
  | generated
  | lost
  | result
  deriving DecidableEq, Repr

/-- The kinds of agent task, with the two forms of a request task (R165). -/
inductive TaskKind where
  | fetch (slot : Nat)
  | index
  | event (withEvent : Bool)
  | tripLog
  | blackBox
  deriving DecidableEq, Repr

/-- A task of the list: its words once it has begun, the bytes a FETCH has read, and the trip number a trip-log write carries. -/
structure Task where
  kind   : TaskKind
  words  : Option (List AgentWord)
  bytes  : List Byte
  number : Nat
  deriving DecidableEq, Repr

/-- The initial writes (R168): not begun, the words left, or done. -/
inductive InitialWrites where
  | notBegun
  | writing (left : List (Nat × Word))
  | done
  deriving DecidableEq, Repr

structure Agent where
  tasks   : List Task
  initial : InitialWrites
  deriving DecidableEq, Repr

/-! ### Rings, settings, position shadow, attention (spec/10) -/

/-- The request reader (R170): indices, and a request fetched and not yet taken. -/
structure Reader where
  consumer : Nat
  producer : Nat
  kept     : Option (List Byte)
  deriving DecidableEq, Repr

/-- The event writer (R172 to R174). deposited counts the deposits since the last reset, of which R173 speaks (log entry 19). -/
structure EventWriter where
  queue         : List Event
  generated     : Word
  lost          : Word
  deposited     : Word
  countersStale : Bool
  resultStale   : Bool
  producer      : Nat
  consumer      : Nat
  deriving DecidableEq, Repr

inductive BitRate where
  | b4800 | b9600 | b19200 | b38400
  deriving DecidableEq, Repr

inductive Parity where
  | none | even | odd
  deriving DecidableEq, Repr

/-- The settings (Table 40), fields 1 to 28 in order. -/
structure Settings where
  cab            : Nat
  zones          : List Half
  bitRate        : BitRate
  parity         : Parity
  twoStops       : Bool
  msbFirst       : Bool
  keyupDelay     : Nat
  tail           : Nat
  turnaround     : Nat
  slotTime       : Nat
  backoffMin     : Nat
  backoffMax     : Nat
  attempts       : Nat
  ackTimeout     : Nat
  seqMax         : Nat
  badThreshold   : Nat
  busyLimit      : Nat
  powerOffTime   : Nat
  awardWait      : Nat
  maxPulses      : Nat
  dwell          : Nat
  holdTime       : Nat
  repeatInterval : Nat
  roundsLimit    : Nat
  cooldown       : Nat
  trackInterval  : Nat
  grace          : Nat
  clockSet       : Word
  deriving DecidableEq, Repr

/-- The last commit result (R175, R176). -/
structure CommitResult where
  tag     : Half
  outcome : CommitOutcome
  field   : Nat
  deriving DecidableEq, Repr

/-- The settings shadow (R175). -/
structure SettingsShadow where
  accepted    : Settings
  staging     : List Word
  firstCommit : Bool
  result      : CommitResult
  report      : Option HeldReport
  deriving DecidableEq, Repr

/-- The position shadow (R177). -/
structure PositionShadow where
  record  : Option Position
  staging : List Word
  fixAge  : Nat
  deriving DecidableEq, Repr

/-- The attention unit (R178, R134): nine factors and enables as in the attention word, and the end time of the alert pulse. -/
structure Attention where
  factors  : BitVec 9
  enables  : BitVec 9
  alertEnd : Option Nat
  deriving DecidableEq, Repr

/-- The model's own bookkeeping (log entries 4, 5, 6, 7, 19): free values drawn, held reports produced, whether the timers in seconds have counted the tick at hand. -/
structure Book where
  drawn    : Nat
  produced : Nat
  counted  : Bool
  deriving DecidableEq, Repr

/-! ### The whole state -/

/-- The state of the part and of the memory on its memory port. -/
structure State where
  phase    : Phase
  pins     : Pins
  clock    : Word
  secs     : Nat
  meter    : Meter
  trip     : TripRecorder
  rx       : Receiver
  link     : Link
  uplink   : Uplink
  sup      : Supervisor
  offers   : OfferTable
  pool     : Pool
  emerg    : Emergency
  path     : Path
  agent    : Agent
  reader   : Reader
  evw      : EventWriter
  settings : SettingsShadow
  position : PositionShadow
  attn     : Attention
  mem      : List Host.Cell
  book     : Book
  pending  : List Instr
  deriving DecidableEq, Repr

/-! ### Reset values -/

/-- R1, Table 5. -/
def Meter.reset : Meter :=
  { state := .vacant, fare := 0, fareCap := false, extras := 0, acc := 0, hiredPulses := 0,
    elapsed := 0, holdSecs := 0, active := none, change := none, slots := [none, none, none, none],
    secondCount := 0, rejectMark := false, pulseFault := false, peak := 0 }

/-- R27, R40: the totals at the start of a shift. -/
def Shift.reset (start : Word) : Shift :=
  { trips := 0, fareTotal := 0, extrasTotal := 0, hiredPulses := 0, totalPulses := 0,
    rejectedPulses := 0, unreported := 0, start := start }

/-- R27, Table 11. -/
def TripRecorder.reset : TripRecorder :=
  { next := 1, openTrip := none, logWrite := none, logIndex := 0, backlog := [], holdoff := none,
    reports := [], shift := Shift.reset 0 }

/-- R64. -/
def Receiver.reset : Receiver :=
  { deframer := .hunt, stored := [], charBad := false, skipped := 0, skipLength := 0, bufA := .free,
    bufB := .free, nextOrder := 0, badRun := 0, linkPoor := false, totalBad := 0, overrun := 0,
    unknown := 0, dedupe := [], recent := [] }

/-- R65, Table 18; the link state reads OFFLINE while a reset holds (R151). -/
def Link.reset : Link :=
  { state := .offline, target := none, backoff := 0, slotTimer := none, clock := none,
    dwellPassed := false, keyed := none, phaseTimer := none, channel := 0, pendingChannel := none,
    seqCounter := 0, tx := [] }

/-- R77, R89. -/
def Uplink.reset : Uplink := { entries := [], dropped := 0, unmatched := 0, nextTime := 0 }

/-- R90, Table 23. -/
def Supervisor.reset : Supervisor :=
  { cycles := 0, override := false, ready := none, powerOff := none, stuckBusy := none,
    healthy := none }

/-- R123. -/
def OfferTable.reset : OfferTable :=
  { entries := List.replicate 8 none, driverDuty := .offDuty, suppressed := 0, malformed := 0,
    overflow := 0, nextAdmit := 0 }

/-- R136. -/
def Pool.reset : Pool := { slots := List.replicate 8 none, malformed := 0 }

/-- R138, Table 33; the switch is armed when ESW is high (R139). -/
def Emergency.reset (esw : Bool) : Emergency :=
  { state := .quiet, round := 0, attempt := 0, trackCount := 0, holdTimer := none, armed := esw,
    repeatTimer := none, cooldownTimer := none, trackTimer := none, graceTimer := none,
    owed := none, keyedCount := 0,
    lastSent := 0, ignored := 0, report := none, lastPlaced := .quiet, box := none,
    boxMark := .clear }

/-- R167. -/
def Path.reset : Path :=
  { base := none, snapshot := [], guardCount := 0, inHand := none, answer := none, port := .free,
    passCount := 0 }

/-- R165, R167. -/
def Agent.reset : Agent := { tasks := [], initial := .notBegun }

/-- R170. -/
def Reader.reset : Reader := { consumer := 0, producer := 0, kept := none }

/-- R172 to R174. -/
def EventWriter.reset : EventWriter :=
  { queue := [], generated := 0, lost := 0, deposited := 0, countersStale := false,
    resultStale := false, producer := 0, consumer := 0 }

/-- Table 40, the defaults. -/
def Settings.default : Settings :=
  { cab := 0, zones := [], bitRate := .b9600, parity := .none, twoStops := false, msbFirst := false,
    keyupDelay := 40, tail := 10, turnaround := 20, slotTime := 25, backoffMin := 2,
    backoffMax := 6, attempts := 5, ackTimeout := 1500, seqMax := 255, badThreshold := 8,
    busyLimit := 20, powerOffTime := 2, awardWait := 15, maxPulses := 400, dwell := 3,
    holdTime := 2000, repeatInterval := 5, roundsLimit := 3, cooldown := 60, trackInterval := 30,
    grace := 10, clockSet := 0 }

/-- R175; tag and field of NO_COMMIT: log entry 31. -/
def SettingsShadow.reset : SettingsShadow :=
  { accepted := Settings.default, staging := List.replicate 15 0, firstCommit := true,
    result := { tag := 0, outcome := .noCommit, field := 0 }, report := none }

/-- R177; the emptied staging copy: log entry 31. -/
def PositionShadow.reset : PositionShadow :=
  { record := none, staging := List.replicate 3 0, fixAge := 0 }

/-- R178, R135. -/
def Attention.reset : Attention := { factors := 0, enables := 0, alertEnd := none }

/-- The part during a full reset, before its release (R1, R27, R64, R65, R90, R123, R136, R138, R167, R175); input levels: log entry 8. -/
def State.reset : State :=
  { phase := .fullReset
    pins := { cd := false, rdy := false, esw := true, base1 := false, base0 := false }
    clock := 0
    secs := 0
    meter := Meter.reset
    trip := TripRecorder.reset
    rx := Receiver.reset
    link := Link.reset
    uplink := Uplink.reset
    sup := Supervisor.reset
    offers := OfferTable.reset
    pool := Pool.reset
    emerg := Emergency.reset true
    path := Path.reset
    agent := Agent.reset
    reader := Reader.reset
    evw := EventWriter.reset
    settings := SettingsShadow.reset
    position := PositionShadow.reset
    attn := Attention.reset
    mem := []
    book := { drawn := 0, produced := 0, counted := false }
    pending := [] }

/-! ### One update per part -/

def State.setPhase (s : State) (x : Phase) : State := { s with phase := x }
def State.setPins (s : State) (x : Pins) : State := { s with pins := x }
def State.setClock (s : State) (x : Word) : State := { s with clock := x }
def State.setSecs (s : State) (x : Nat) : State := { s with secs := x }
def State.setMeter (s : State) (x : Meter) : State := { s with meter := x }
def State.setTrip (s : State) (x : TripRecorder) : State := { s with trip := x }
def State.setRx (s : State) (x : Receiver) : State := { s with rx := x }
def State.setLink (s : State) (x : Link) : State := { s with link := x }
def State.setUplink (s : State) (x : Uplink) : State := { s with uplink := x }
def State.setSup (s : State) (x : Supervisor) : State := { s with sup := x }
def State.setOffers (s : State) (x : OfferTable) : State := { s with offers := x }
def State.setPool (s : State) (x : Pool) : State := { s with pool := x }
def State.setEmerg (s : State) (x : Emergency) : State := { s with emerg := x }
def State.setPath (s : State) (x : Path) : State := { s with path := x }
def State.setAgent (s : State) (x : Agent) : State := { s with agent := x }
def State.setReader (s : State) (x : Reader) : State := { s with reader := x }
def State.setEvw (s : State) (x : EventWriter) : State := { s with evw := x }
def State.setSettings (s : State) (x : SettingsShadow) : State := { s with settings := x }
def State.setPosition (s : State) (x : PositionShadow) : State := { s with position := x }
def State.setAttn (s : State) (x : Attention) : State := { s with attn := x }
def State.setMem (s : State) (x : List Host.Cell) : State := { s with mem := x }
def State.setBook (s : State) (x : Book) : State := { s with book := x }
def State.setPending (s : State) (x : List Instr) : State := { s with pending := x }

end Sys2Proof.Machine
end

