-- ==== Sys2Proof/Machine/Operands.lean ====
section
/-! DEFINITION. Reading what reaches the part: bytes and words, memory, byte lanes, serial characters, frame headers and bodies, request parameters, the settings and position records. -/

namespace Sys2Proof.Machine

/-! ### Bytes and words (spec/11: little-endian in memory, high byte first on air) -/

/-- The n bytes of v, least significant first. -/
def bytesLE : Nat → Nat → List Byte
  | 0, _ => []
  | n + 1, v => BitVec.ofNat 8 v :: bytesLE n (v / 256)

/-- The n bytes of v, most significant first. -/
def bytesBE (n v : Nat) : List Byte := (bytesLE n v).reverse

/-- The number whose least significant byte comes first. -/
def natLE : List Byte → Nat
  | [] => 0
  | b :: bs => b.toNat + 256 * natLE bs

/-- The number whose most significant byte comes first. -/
def natBE (bs : List Byte) : Nat := natLE bs.reverse

/-- The bytes from position i, n of them. -/
def slice (bs : List Byte) (i n : Nat) : List Byte := (bs.drop i).take n

/-- The byte at position i (0 beyond the end). -/
def byteAt (bs : List Byte) (i : Nat) : Byte := bs.getD i 0

/-- Byte lane i of a word (spec/00: lane 0 is at the lowest address). -/
def lane (w : Word) (i : Nat) : Byte := (w >>> (8 * i)).setWidth 8

/-- The word made of four bytes, lane 0 first. -/
def wordOf (b0 b1 b2 b3 : Byte) : Word := b3 ++ b2 ++ b1 ++ b0

/-- A field of n bits of a word, from bit i. -/
def field (w : Word) (i n : Nat) : Nat := (w.toNat / 2 ^ i) % 2 ^ n

/-- A sequence of bytes as words, lane 0 first. -/
def wordsOf : List Byte → List Word
  | b0 :: b1 :: b2 :: b3 :: bs => wordOf b0 b1 b2 b3 :: wordsOf bs
  | _ => []

/-- A 7-bit character as the part reads it: bit 7 is ignored (R179). -/
def char7 (b : Byte) : Byte := b &&& 0x7F

/-! ### Memory -/

/-- What an address that is not listed reads as (log entry 9). -/
def Memory.unlisted : Byte := 0

/-- The byte at an address. -/
def Memory.readByte : List Host.Cell → Nat → Byte
  | [], _ => Memory.unlisted
  | (a, b) :: m, x => if a = x then b else Memory.readByte m x

/-- The cell of a byte, or none for the value an unlisted address reads as. -/
def Memory.cell (x : Nat) (v : Byte) : List Host.Cell := if v = Memory.unlisted then [] else [(x, v)]

/-- Writing one byte keeps the canonical form: addresses rising, no cell equal to the unlisted value. -/
def Memory.writeByte : List Host.Cell → Nat → Byte → List Host.Cell
  | [], x, v => Memory.cell x v
  | (a, b) :: m, x, v =>
    if x < a then Memory.cell x v ++ (a, b) :: m
    else if x = a then Memory.cell x v ++ m
    else (a, b) :: Memory.writeByte m x v

/-- The canonical form of memory. -/
def Memory.wf : List Host.Cell → Bool
  | [] => true
  | (a, b) :: m => b != Memory.unlisted && m.all (fun c => decide (a < c.1)) && Memory.wf m

/-- The word at a word address (R159: a read returns all four bytes). -/
def Memory.readWord (m : List Host.Cell) (a : Nat) : Word :=
  wordOf (Memory.readByte m a) (Memory.readByte m (a + 1)) (Memory.readByte m (a + 2))
    (Memory.readByte m (a + 3))

/-- One enabled lane of a word write. -/
def Memory.writeLane (m : List Host.Cell) (a : Nat) (lanes : BitVec 4) (w : Word) (i : Nat) :
    List Host.Cell :=
  if lanes.getLsbD i then Memory.writeByte m (a + i) (lane w i) else m

/-- Writing the enabled lanes of a word (R158). -/
def Memory.writeLanes (m : List Host.Cell) (a : Nat) (lanes : BitVec 4) (w : Word) :
    List Host.Cell :=
  Memory.writeLane (Memory.writeLane (Memory.writeLane (Memory.writeLane m a lanes w 0)
    a lanes w 1) a lanes w 2) a lanes w 3

/-- All four byte lanes: a full-word access (Table 37, note 1). -/
def fullLanes : BitVec 4 := 0xF

/-! ### The terminal area (spec/09, R158, R159) -/

/-- The base selected by the straps (R158). -/
def strapBase (p : Pins) : Nat :=
  match p.base1, p.base0 with
  | false, false => 0x3F0000
  | false, true => 0x7F0000
  | true, false => 0xBF0000
  | true, true => 0xFF0000

/-- The address of the word an access falls in. -/
def wordAddr (a : Access) : Nat := a.addr.toNat / 4 * 4

/-- The offset of the word of an access in the terminal area of a base, if it falls within it (R158). -/
def offsetIn (base : Nat) (a : Access) : Option Nat :=
  if base ≤ a.addr.toNat ∧ a.addr.toNat < base + 65536 then some (wordAddr a - base) else none

/-- The treatments of Table 36. -/
inductive Treatment where
  | free | snoop | guard | attention | liveZone
  deriving DecidableEq, Repr

/-- The zone map (R159, Table 36), by word offset. -/
def treatment (off : Nat) : Treatment :=
  if off ≤ 0x0040 then .snoop
  else if off ≤ 0x0048 then .guard
  else if off = 0x004C then .snoop
  else if off ≤ 0x005C then .guard
  else if off ≤ 0x006C then .snoop
  else if off = 0x0070 then .attention
  else if off = 0x0074 then .snoop
  else if off < 0x0100 then .free
  else if off < 0x0200 then .liveZone
  else if off < 0x1000 then .free
  else if off < 0x4100 then .guard
  else .free

/-- Whether an access of a treatment uses the memory port (Table 37). -/
def usesPort (t : Treatment) (a : Access) : Bool :=
  match t with
  | .free | .snoop => true
  | .guard => a.write.isNone
  | .attention | .liveZone => false

/-! ### Serial characters (spec/03, R43, R44) -/

/-- The data byte of eight data bits in the order they came on the line (bit 0 first): R43, bit order. -/
def dataByte (st : Settings) (bits : Byte) : Byte := if st.msbFirst then bits.reverse else bits

/-- The number of 1s among the bits of a byte. -/
def ones (b : Byte) : Nat := (List.range 8).countP (fun i => b.getLsbD i)

/-- The parity bit that R43 sends with a byte. -/
def parityBit (p : Parity) (b : Byte) : Bool :=
  match p with
  | .none => false
  | .even => ones b % 2 == 1
  | .odd => ones b % 2 == 0

/-- Whether a received character is bad: a parity error or a stop bit received as 0 (R44). -/
def charIsBad (st : Settings) (data : Byte) (parity stop1 stop2 : Bool) : Bool :=
  (st.parity != .none && parity != parityBit st.parity data) || !stop1 || (st.twoStops && !stop2)

/-- The bits of one character on TXD in the order they are sent (R43): start, data, parity, stops. -/
def charBits (st : Settings) (b : Byte) : List Bool :=
  [false] ++ (List.range 8).map (fun i => (dataByte st b).getLsbD i) ++
    (if st.parity = .none then [] else [parityBit st.parity b]) ++
    (if st.twoStops then [true, true] else [true])

/-- One step of the CRC, most significant bit first (R47: x^16 + x^12 + x^5 + 1). -/
def crcBit (crc : Half) : Half := if crc.msb then (crc <<< 1) ^^^ 0x1021 else crc <<< 1

/-- One byte into the CRC (R47). -/
def crcByte (crc : Half) (b : Byte) : Half :=
  crcBit (crcBit (crcBit (crcBit (crcBit (crcBit (crcBit (crcBit (crc ^^^ (b.setWidth 16 <<< 8)))))))))

/-- The CRC of header and body (R47): initial value 0xFFFF, no final inversion. -/
def crc16 (bs : List Byte) : Half := bs.foldl crcByte 0xFFFF

/-! ### Frame header (spec/11, R185) -/

/-- The scope in bits 0-1 of the flags byte: 0 CAB, 1 ZONE, 2 FLEET, 3 the fourth value. -/
def scopeOf (flags : Byte) : Nat := flags.toNat % 4

/-- URGENT, bit 2 of the flags byte. -/
def urgentOf (flags : Byte) : Bool := flags.getLsbD 2

/-- The downlink classes of Table 16. -/
inductive DownClass where
  | offer | withdraw | award | reject | text | tariff | alarmAck | alarmEnd | ack | poll | channel
  deriving DecidableEq, Repr

/-- The class a code names (Table 16). -/
def DownClass.ofCode (c : Byte) : Option DownClass :=
  match c.toNat with
  | 0x11 => some .offer
  | 0x12 => some .withdraw
  | 0x13 => some .award
  | 0x14 => some .reject
  | 0x15 => some .text
  | 0x16 => some .tariff
  | 0x17 => some .alarmAck
  | 0x18 => some .alarmEnd
  | 0x19 => some .ack
  | 0x1A => some .poll
  | 0x1B => some .channel
  | _ => none

/-- The code of a class (Table 16). -/
def DownClass.code : DownClass → Byte
  | .offer => 0x11
  | .withdraw => 0x12
  | .award => 0x13
  | .reject => 0x14
  | .text => 0x15
  | .tariff => 0x16
  | .alarmAck => 0x17
  | .alarmEnd => 0x18
  | .ack => 0x19
  | .poll => 0x1A
  | .channel => 0x1B

/-- The scopes Table 16 allows for a class (R56). -/
def scopeAllowed (c : DownClass) (scope : Nat) : Bool :=
  match c with
  | .offer | .withdraw | .text | .channel => scope ≤ 2
  | .award | .alarmAck | .alarmEnd | .ack | .poll => scope == 0
  | .reject => scope ≤ 1
  | .tariff => scope == 0 || scope == 2

/-- The ACK duty of an accepted frame (Table 16). -/
def ackDuty (c : DownClass) (scope : Nat) : Bool :=
  match c with
  | .award | .alarmEnd => true
  | .withdraw | .text | .tariff => scope == 0
  | .offer | .reject | .alarmAck | .ack | .poll | .channel => false

/-- Whether a good frame is for this cab (R55). -/
def forThisCab (st : Settings) (flags : Byte) (addr : Half) : Bool :=
  match scopeOf flags with
  | 0 => addr.toNat == st.cab
  | 1 => st.zones.contains addr
  | _ => true

/-! ### Frame bodies (spec/11, Table 48) -/

/-- The offer id of an AWARD, REJECT or WITHDRAW body of the body length 4. -/
def idBody (body : List Byte) : Option Word :=
  if body.length = 4 then some (BitVec.ofNat 32 (natBE body)) else none

/-- The channel of a CHANNEL body, if its length is right and the number at most 3 (R74). -/
def channelBody (body : List Byte) : Option Nat :=
  match body with
  | [c] => if c.toNat ≤ 3 then some c.toNat else none
  | _ => none

/-- Class code, sequence and result of an ACK body (R84); a result that names no code is malformed (R180, log entry 26). -/
def ackBody (body : List Byte) : Option (Byte × Nat × AckResult) :=
  match body with
  | [c, q, r, _] =>
    if r = 0 then some (c, q.toNat, .taken) else if r = 1 then some (c, q.toNat, .refused) else none
  | _ => none

/-- R3: every field in its range and one of the increments above 0. -/
def Tariff.valid (t : Tariff) : Bool :=
  decide (t.version ≤ 65535) && decide (t.flagDrop ≤ 65535) && decide (1 ≤ t.stepAmount) &&
    decide (t.stepAmount ≤ 1000) && decide (t.distanceInc ≤ Config.incrementMax) &&
    decide (t.timeInc ≤ Config.incrementMax) && decide (t.slowThreshold ≤ 255) &&
    decide (0 < t.distanceInc + t.timeInc)

/-- Slot and record of a valid TARIFF body (R4). -/
def tariffBody (body : List Byte) : Option (Nat × Tariff) :=
  let t : Tariff :=
    { version := natBE (slice body 1 2), flagDrop := natBE (slice body 3 2),
      stepAmount := natBE (slice body 5 2), distanceInc := natBE (slice body 7 4),
      timeInc := natBE (slice body 11 4), slowThreshold := natBE (slice body 15 1) }
  let slot := (byteAt body 0).toNat
  if body.length = 16 ∧ slot ≤ 3 ∧ t.valid then some (slot, t) else none

/-- The fields of an OFFER body (R108). -/
structure OfferBody where
  id     : Word
  zone   : Half
  kind   : OfferKind
  window : Nat
  text   : List Byte
  deriving DecidableEq, Repr

/-- The offer of a body that R108 case 4 finds well formed for its scope. -/
def offerBody (scope : Nat) (body : List Byte) : Option OfferBody :=
  let n := (byteAt body 8).toNat
  let k := (byteAt body 6).toNat
  let w := (byteAt body 7).toNat
  if 9 ≤ body.length ∧ body.length = 9 + n ∧ n ≤ 141 ∧ k ≤ 1 ∧ (k = 1 → scope = 0) ∧ 5 ≤ w ∧ w ≤ 120
  then some
    { id := BitVec.ofNat 32 (natBE (slice body 0 4)), zone := BitVec.ofNat 16 (natBE (slice body 4 2)),
      kind := if k = 0 then .openCall else .direct, window := w,
      text := (body.drop 9).map char7 }
  else none

/-- Canned code and text of a TEXT body that R131 finds good. -/
def textBody (body : List Byte) : Option (Byte × List Byte) :=
  let n := (byteAt body 1).toNat
  if 2 ≤ body.length ∧ body.length = 2 + n ∧ n ≤ 140 ∧ ¬ (byteAt body 0 = 0 ∧ n = 0)
  then some (byteAt body 0, (body.drop 2).map char7) else none

/-! ### Request records (spec/11, R181) -/

/-- Whether a code names a request of Table 39. -/
def requestKnown (code : Byte) : Bool := decide (1 ≤ code.toNat) && decide (code.toNat ≤ 0x0F)

/-- Whether the parameters have the length of the code's parameter set (Table 44); for SEND_TEXT the length is 2 plus a text length of 0-120. -/
def lengthAgrees (code : Byte) (params : List Byte) : Bool :=
  match code.toNat with
  | 0x01 | 0x02 => params.length == 4
  | 0x03 | 0x05 | 0x0A => params.length == 1
  | 0x04 => decide (2 ≤ params.length) && params.length == 2 + (byteAt params 1).toNat &&
      decide ((byteAt params 1).toNat ≤ 120)
  | 0x08 => params.length == 3
  | _ => params.length == 0

/-- A request slot as it was fetched: code, tag, the length byte and as many parameter bytes as it says and the slot holds (R181). -/
structure RequestRecord where
  code   : Byte
  tag    : Half
  length : Nat
  params : List Byte
  deriving DecidableEq, Repr

/-- Reading a request slot (R181). -/
def requestOf (slot : List Byte) : RequestRecord :=
  { code := byteAt slot 0, length := (byteAt slot 1).toNat, tag := BitVec.ofNat 16 (natLE (slice slot 2 2)),
    params := slice slot 4 (byteAt slot 1).toNat }

/-! ### Settings record (spec/10 Table 40, spec/11 Table 42) -/

/-- Word i of a staging copy. -/
def stagingWord (ws : List Word) (i : Nat) : Word := ws.getD i 0

/-- The zone numbers of the record, as many as the count says. -/
def stagingZones (ws : List Word) : List Half :=
  ((List.range 8).map (fun i =>
      BitVec.ofNat 16 (field (stagingWord ws (1 + i / 2)) (16 * (i % 2)) 16))).take
    (field (stagingWord ws 0) 16 8)

/-- The settings a staging copy spells. -/
def settingsOf (ws : List Word) : Settings :=
  { cab := field (stagingWord ws 0) 0 16
    zones := stagingZones ws
    bitRate := match field (stagingWord ws 5) 0 8 with
      | 0 => .b4800 | 1 => .b9600 | 2 => .b19200 | _ => .b38400
    parity := match field (stagingWord ws 0) 24 2 with
      | 1 => .even | 2 => .odd | _ => .none
    twoStops := field (stagingWord ws 0) 26 1 == 1
    msbFirst := field (stagingWord ws 0) 27 1 == 1
    keyupDelay := field (stagingWord ws 5) 8 8
    tail := field (stagingWord ws 5) 16 8
    turnaround := field (stagingWord ws 5) 24 8
    slotTime := field (stagingWord ws 6) 0 8
    backoffMin := field (stagingWord ws 6) 8 8
    backoffMax := field (stagingWord ws 6) 16 8
    attempts := field (stagingWord ws 6) 24 8
    ackTimeout := field (stagingWord ws 7) 0 16
    seqMax := field (stagingWord ws 7) 16 8
    badThreshold := field (stagingWord ws 7) 24 8
    busyLimit := field (stagingWord ws 8) 0 8
    powerOffTime := field (stagingWord ws 8) 8 8
    awardWait := field (stagingWord ws 8) 16 8
    dwell := field (stagingWord ws 8) 24 8
    maxPulses := field (stagingWord ws 9) 0 16
    holdTime := field (stagingWord ws 9) 16 16
    repeatInterval := field (stagingWord ws 10) 0 8
    roundsLimit := field (stagingWord ws 10) 8 8
    cooldown := field (stagingWord ws 10) 16 16
    trackInterval := field (stagingWord ws 11) 0 16
    grace := field (stagingWord ws 11) 16 8
    clockSet := stagingWord ws 12 }

/-- Which of the fields 1 to 28 are in range, in the order of Table 40; first tells whether the first-commit mark is set (R175). -/
def settingsChecks (first : Bool) (ws : List Word) : List Bool :=
  let t := settingsOf ws
  [ (decide (1 ≤ t.cab) || first) && decide (t.cab ≤ 65534)
  , decide (field (stagingWord ws 0) 16 8 ≤ 8)
  , decide (field (stagingWord ws 5) 0 8 ≤ 3)
  , decide (field (stagingWord ws 0) 24 2 ≤ 2)
  , true
  , true
  , decide (5 ≤ t.keyupDelay)
  , true
  , true
  , decide (10 ≤ t.slotTime)
  , decide (1 ≤ t.backoffMin) && decide (t.backoffMin ≤ 6)
  , decide (t.backoffMin ≤ t.backoffMax) && decide (t.backoffMax ≤ 6)
  , decide (1 ≤ t.attempts) && decide (t.attempts ≤ 15)
  , decide (100 ≤ t.ackTimeout) && decide (t.ackTimeout ≤ 5000)
  , decide (15 ≤ t.seqMax)
  , decide (1 ≤ t.badThreshold)
  , decide (2 ≤ t.busyLimit) && decide (t.busyLimit ≤ 60)
  , decide (1 ≤ t.powerOffTime) && decide (t.powerOffTime ≤ 30)
  , decide (5 ≤ t.awardWait) && decide (t.awardWait ≤ 60)
  , decide (t.maxPulses ≤ 4000)
  , decide (1 ≤ t.dwell) && decide (t.dwell ≤ 10)
  , decide (500 ≤ t.holdTime) && decide (t.holdTime ≤ 5000) && decide (t.holdTime % 500 = 0)
  , decide (2 ≤ t.repeatInterval) && decide (t.repeatInterval ≤ 60)
  , decide (t.roundsLimit ≤ 15)
  , decide (t.cooldown ≤ 600)
  , decide (10 ≤ t.trackInterval) && decide (t.trackInterval ≤ 300)
  , decide (t.grace ≤ 30)
  , true ]

/-- The number of the first field out of range, if any (R175). -/
def firstBadField (first : Bool) (ws : List Word) : Option Nat :=
  ((settingsChecks first ws).findIdx? (fun ok => !ok)).map (· + 1)

/-! ### Position record (R177) -/

/-- The position record of a staging copy, if every field is in range. -/
def positionOf (ws : List Word) : Option Position :=
  let lat := stagingWord ws 0
  let lon := stagingWord ws 1
  let w := stagingWord ws 2
  let heading := field w 16 9
  if -90000000 ≤ lat.toInt ∧ lat.toInt ≤ 90000000 ∧ -180000000 ≤ lon.toInt ∧
      lon.toInt ≤ 180000000 ∧ heading ≤ 359
  then some { latitude := lat, longitude := lon, speed := BitVec.ofNat 16 (field w 0 16),
              heading := heading, fixValid := w.msb }
  else none

end Sys2Proof.Machine
end

