-- ==== Sys2Proof/Machine/Flags.lean ====
section
/-! DEFINITION. Flags, conditions and lines computed from the state: attention factors, derived duty, link groups, output lines. -/

namespace Sys2Proof.Machine

/-! ### Attention factors (spec/10, R178, Table 41) -/

inductive Factor where
  | event | lost | format | guard | pulseFault | linkPoor | linkFailed | congest | emergency
  deriving DecidableEq, Repr

/-- The factor's bit of the attention word (Table 42). -/
def Factor.mask : Factor → BitVec 9
  | .event => 0x001
  | .lost => 0x002
  | .format => 0x004
  | .guard => 0x008
  | .pulseFault => 0x010
  | .linkPoor => 0x020
  | .linkFailed => 0x040
  | .congest => 0x080
  | .emergency => 0x100

/-- The mask of a factor when its condition is present. -/
def Factor.when (f : Factor) (present : Bool) : BitVec 9 := if present then f.mask else 0

/-- Setting a factor (R178); the attention unit is held at its reset values while a reset holds. -/
def raiseFactor (f : Factor) (s : State) : State :=
  if s.phase = .running then s.setAttn { s.attn with factors := s.attn.factors ||| f.mask } else s

/-! ### Link groups (spec/05, R90) -/

/-- The seven channel-access states. -/
def channelAccess : LinkState → Bool
  | .listen | .contend | .keyup | .sending | .tail | .turnaround | .settle => true
  | .offline | .powerOff | .powerOnWait | .failed => false

/-- The states in which characters are taken from RXD (R45). -/
def receiving : LinkState → Bool
  | .listen | .contend => true
  | _ => false

/-- The supervisor in OFFLINE or FAILED (R79, R34). -/
def linkDown (s : State) : Bool := s.link.state = .offline || s.link.state = .failed

/-- The deframer holds no frame in assembly (R74). -/
def noFrameInAssembly (s : State) : Bool :=
  s.rx.deframer = .hunt || s.rx.deframer = .syncHalf

/-! ### Uplink entries (spec/04, Table 20) -/

/-- Priority, 0 highest. -/
def UpClass.priority : UpClass → Nat
  | .alarm => 0
  | .bid | .release => 1
  | .ack => 2
  | .status => 3
  | .trip => 4
  | .text => 5

/-- The cap of a class. -/
def UpClass.cap : UpClass → Nat
  | .alarm | .bid | .status | .trip => 1
  | .release => 2
  | .ack => 4
  | .text => 8

/-- The classes that need an ACK. -/
def UpClass.needsAck : UpClass → Bool
  | .bid | .release | .trip | .text => true
  | .alarm | .ack | .status => false

/-- The uplink class codes (R185). -/
def UpClass.code : UpClass → Byte
  | .alarm => 0x21
  | .bid => 0x22
  | .release => 0x23
  | .ack => 0x24
  | .status => 0x25
  | .trip => 0x26
  | .text => 0x27

/-- The entry that holds a sequence number. -/
def entryWith (q : Nat) (s : State) : Option Entry := s.uplink.entries.find? (fun e => e.seq == q)

/-- The first QUEUED entry in queue order (R66, R78). -/
def firstQueued (s : State) : Option Entry := s.uplink.entries.find? (fun e => e.state == .queued)

/-- The entries of a class. -/
def countClass (c : UpClass) (es : List Entry) : Nat := es.countP (fun e => e.cls == c)

/-- Whether an entry of a class is ON_AIR. -/
def onAirOf (c : UpClass) (s : State) : Bool :=
  s.uplink.entries.any (fun e => e.cls == c && e.state == .onAir)

/-! ### Offers and duty (spec/06, R106) -/

/-- An entry holds the job when it is BID_SENT or AWARDED. -/
def Offer.job (o : Offer) : Bool := o.state = .bidSent || o.state = .awarded

/-- The entry in BID_SENT or AWARDED (R122). -/
def jobEntry (s : State) : Option Offer :=
  (s.offers.entries.filterMap id).find? (fun o => o.job)

/-- The offer id of the entry in BID_SENT or AWARDED, or none (R122). -/
def jobId (s : State) : Option Word := (jobEntry s).map (·.id)

/-- Whether an entry is AWARDED. -/
def anyAwarded (s : State) : Bool :=
  s.offers.entries.any (fun e => match e with | some o => o.state == .awarded | none => false)

/-- The effective duty (R106). -/
def effectiveDuty (s : State) : Duty :=
  if s.meter.state ≠ .vacant ∨ anyAwarded s then .busy else s.offers.driverDuty

/-! ### Conditions (Table 41) -/

/-- CONGEST (R87): in CONTEND for a BID or an ALARM, with the contention clock past the dwell. -/
def congestActive (s : State) : Bool :=
  s.link.state = .contend && s.link.dwellPassed &&
    match s.link.target.bind (fun q => entryWith q s) with
    | some e => e.cls == .bid || e.cls == .alarm
    | none => false

/-- The condition factors whose conditions are present. -/
def conditions (s : State) : BitVec 9 :=
  Factor.pulseFault.when s.meter.pulseFault ||| Factor.linkPoor.when s.rx.linkPoor |||
    Factor.linkFailed.when (s.link.state = .failed) ||| Factor.congest.when (congestActive s) |||
    Factor.emergency.when (s.emerg.state ≠ .quiet)

/-! ### Output lines (spec/00, Table 2) -/

/-- PTT (R76). -/
def ptt (s : State) : Bool :=
  s.link.state = .keyup || s.link.state = .sending || s.link.state = .tail

/-- RPWR: high in the powered states (R90). -/
def rpwr (s : State) : Bool := s.link.state = .powerOnWait || channelAccess s.link.state

/-- The levels of a transmission on TXD, one for each bit time: its characters back to back, each in the form of R43 (R46). -/
def txdBits (s : State) : List Bool := s.link.tx.flatMap (charBits s.settings.accepted)

/-- TXD in the n-th bit time of SENDING; 1 after the last character and whenever the part is not sending (R43, R65). -/
def txdLine (n : Nat) (s : State) : Bool :=
  if s.link.state = .sending then (txdBits s).getD n true else true

/-- CHSEL1-CHSEL0 (R65). -/
def chsel (s : State) : Nat := s.link.channel

/-- ATTN (R178). -/
def attnLine (s : State) : Bool := s.attn.factors &&& s.attn.enables != 0

/-- ALERT (R134). -/
def alertLine (s : State) : Bool := s.attn.alertEnd.isSome

/-! ### Event queue room (spec/10, R172) -/

/-- Free places of the internal event queue. -/
def freePlaces (s : State) : Nat := Config.eventQueueSize - s.evw.queue.length

/-- Whether accesses to the terminal area are served: a base is in force and the initial writes are done (R168). -/
def areaOpen (s : State) : Bool :=
  s.phase = .running && s.path.base.isSome && s.agent.initial = .done

end Sys2Proof.Machine
end

