-- ==== Sys2Proof/Machine/Format.lean ====
section
/-! DEFINITION. The layouts the part writes: event records, the trip record image, the black box, frame bodies and frames, the live meter zone (spec/11). -/

namespace Sys2Proof.Machine

/-! ### Codes -/

def MeterState.code : MeterState → Nat
  | .vacant => 0 | .hired => 1 | .hold => 2

def PendingKind.code : PendingKind → Nat
  | .reload => 1 | .select => 2

/-- An active slot, 0xFF for none (Table 43; in METER_STATE the model's choice, log entry 32). -/
def slotCode (o : Option Nat) : Nat := o.getD 0xFF

/-- The kind of a pending change, 0 for none (Table 43). -/
def changeKindCode (c : Option PendingChange) : Nat := (c.map (·.kind.code)).getD 0

/-- The slot of a pending change; with none Table 43 gives the kind 0 and no slot, and the model writes 0, in the live meter zone and in METER_STATE alike (log entry 32). -/
def changeSlotCode (c : Option PendingChange) : Nat := (c.map (·.slot)).getD 0

def Duty.code : Duty → Nat
  | .free => 0 | .busy => 1 | .offDuty => 2

def DutyCause.code : DutyCause → Nat
  | .dutySet => 0 | .meter => 1 | .award => 2 | .jobEnd => 3

def Reason.code : Reason → Nat
  | .unknown => 1 | .malformed => 2 | .outOfRange => 3 | .noSuchOffer => 4 | .tooLate => 5
  | .oneJob => 6 | .emergency => 7 | .wrongState => 8 | .noTariff => 9 | .poolFull => 10
  | .queueFull => 11 | .graceOver => 12 | .notFailed => 13 | .linkDown => 14

def ClosingReason.code : ClosingReason → Nat
  | .expired => 1 | .declined => 2 | .superseded => 3 | .suppressed => 4 | .settings => 5
  | .withdrawn => 6 | .taken => 7 | .noAward => 8 | .link => 9 | .abandoned => 10 | .done => 11

def ReleaseNote.code : ReleaseNote → Nat
  | .noneOffered => 0 | .released => 1 | .notReleased => 2

def LateCase.code : LateCase → Nat
  | .unknown => 0 | .closing => 1 | .open => 2 | .abandoned => 3

def OfferKind.code : OfferKind → Nat
  | .openCall => 0 | .direct => 1

def AckResult.code : AckResult → Nat
  | .taken => 0 | .refused => 1

def FailReason.code : FailReason → Nat
  | .link => 1 | .displaced => 2 | .linkDown => 3

def LinkState.code : LinkState → Nat
  | .offline => 0 | .powerOff => 1 | .powerOnWait => 2 | .failed => 3 | .listen => 4
  | .contend => 5 | .keyup => 6 | .sending => 7 | .tail => 8 | .turnaround => 9 | .settle => 10

def LinkCause.code : LinkCause → Nat
  | .release => 0 | .commit => 1 | .rdy => 2 | .stuckBusy => 3 | .rdyLoss => 4
  | .readyTimeout => 5 | .powerOffEnd => 6 | .linkRestart => 7 | .override => 8

def EmState.code : EmState → Nat
  | .quiet => 0 | .calling => 1 | .cooldown => 2 | .exhausted => 3 | .tracking => 4

def EmCause.code : EmCause → Nat
  | .switchRaise => 0 | .requestRaise => 1 | .roundEnd => 2 | .cooldownEnd => 3 | .alarmAck => 4
  | .alarmEnd => 5 | .cancel => 6 | .blackboxClear => 7

def RaiseSource.code : RaiseSource → Nat
  | .switch => 0 | .request => 1

def CommitOutcome.code : CommitOutcome → Nat
  | .noCommit => 0 | .accepted => 1 | .busy => 2 | .range => 3

/-- One byte. -/
def b1 (n : Nat) : List Byte := bytesLE 1 n

/-- A Bool as a number, at bit i. -/
def bitAt (i : Nat) (b : Bool) : Nat := if b then 2 ^ i else 0

/-! ### Event records (R182, R183, Table 45) -/

/-- The code of an event. -/
def Payload.code : Payload → Byte
  | .refused .. => 0x41
  | .offerNew .. => 0x42
  | .offerAwarded .. => 0x43
  | .offerClosed .. => 0x44
  | .lateAward .. => 0x45
  | .jobCancelled .. => 0x46
  | .textIn .. => 0x47
  | .textDelivered .. => 0x48
  | .textFailed .. => 0x49
  | .meterState .. => 0x4A
  | .tariffLoaded .. => 0x4B
  | .tariffApplied .. => 0x4C
  | .tripClosed .. => 0x4D
  | .tripReported .. => 0x4E
  | .shiftClosed .. => 0x4F
  | .dutyChanged .. => 0x50
  | .linkState .. => 0x51
  | .emergencyState .. => 0x52
  | .settingsTaken .. => 0x53

/-- The seven bits of a character, bit 0 first (R183). -/
def charBits7 (c : Byte) : List Bool := (List.range 7).map (fun i => c.getLsbD i)

/-- The number whose bit 0 is the first of the list. -/
def natOfBits : List Bool → Nat
  | [] => 0
  | b :: bs => (if b then 1 else 0) + 2 * natOfBits bs

/-- n bytes of a bit string, bit 0 of the first byte first. -/
def bytesOfBits : Nat → List Bool → List Byte
  | 0, _ => []
  | n + 1, bs => BitVec.ofNat 8 (natOfBits (bs.take 8)) :: bytesOfBits n (bs.drop 8)

/-- A text packed seven bits to a character, in the smallest whole number of bytes (R183). -/
def pack7 (text : List Byte) : List Byte :=
  bytesOfBits ((7 * text.length + 7) / 8) (text.flatMap charBits7)

/-- A text field: length in bits 0-6, TRUNCATED in bit 7, then the characters (Table 45, note 3). -/
def textField (text : List Byte) (truncated : Bool) : List Byte :=
  b1 (text.length + bitAt 7 truncated) ++ text

/-- The black box byte of an EMERGENCY_STATE (Table 45, note 5). -/
def capturedCode (c : Option RaiseSource) : Nat :=
  match c with
  | none => 0
  | some .switch => 1
  | some .request => 3

/-- The payload bytes of an event, field after field, little-endian (Table 45). Log entry 32 marks the codes Table 45 does not give: the reload-set byte of TARIFF_LOADED and the override byte of LINK_STATE, 1 for set and 0 for not set; the meter and duty states as Table 43 codes them; the slot and the kind after a METER_CLEAR and in TARIFF_APPLIED; the pending slot of METER_STATE with no change pending, 0. -/
def Payload.bytes : Payload → List Byte
  | .refused code reason => [code] ++ b1 reason.code
  | .offerNew id zone kind window scope text truncated =>
    bytesLE 4 id.toNat ++ bytesLE 2 zone.toNat ++ b1 kind.code ++ b1 window ++ b1 scope ++
      textField text truncated
  | .offerAwarded id zone kind direct text truncated =>
    bytesLE 4 id.toNat ++ bytesLE 2 zone.toNat ++ b1 kind.code ++ b1 (bitAt 0 direct) ++
      textField text truncated
  | .offerClosed id reason release => bytesLE 4 id.toNat ++ b1 reason.code ++ b1 release.code
  | .lateAward id case release => bytesLE 4 id.toNat ++ b1 case.code ++ b1 release.code
  | .jobCancelled id => bytesLE 4 id.toNat
  | .textIn scope urgent truncated seq addr canned lengthOnAir doneAt text =>
    b1 (scope + bitAt 2 urgent + bitAt 3 truncated) ++ [seq] ++ bytesLE 2 addr.toNat ++ [canned] ++
      b1 lengthOnAir ++ bytesLE 4 doneAt.toNat ++ b1 text.length ++ pack7 text
  | .textDelivered result slot seq attempts => b1 result.code ++ b1 slot ++ b1 seq ++ b1 attempts
  | .textFailed reason slot seq attempts => b1 reason.code ++ b1 slot ++ b1 seq ++ b1 attempts
  | .meterState cause before after slot change fare extras extraCode requested added =>
    [cause] ++ b1 before.code ++ b1 after.code ++ b1 (slotCode slot) ++ b1 (changeKindCode change) ++
      b1 (changeSlotCode change) ++ bytesLE 4 fare ++ bytesLE 4 extras ++ b1 extraCode ++
      bytesLE 2 requested ++ bytesLE 2 added
  | .tariffLoaded slot version scope reloadSet =>
    b1 slot ++ bytesLE 2 version ++ b1 scope ++ b1 (bitAt 0 reloadSet)
  | .tariffApplied kind newSlot newVersion oldSlot oldVersion fare =>
    b1 kind.code ++ b1 newSlot ++ bytesLE 2 newVersion ++ b1 oldSlot ++ bytesLE 2 oldVersion ++
      bytesLE 4 fare
  | .tripClosed number fare extras total flags segments backlog =>
    bytesLE 4 number ++ bytesLE 4 fare ++ bytesLE 4 extras ++ bytesLE 4 total ++ [flags] ++
      b1 segments ++ b1 backlog
  | .tripReported number backlogAfter => bytesLE 4 number ++ b1 backlogAfter
  | .shiftClosed t finish =>
    bytesLE 4 t.trips ++ bytesLE 8 t.fareTotal ++ bytesLE 8 t.extrasTotal ++
      bytesLE 4 t.hiredPulses ++ bytesLE 4 t.totalPulses ++ bytesLE 4 t.rejectedPulses ++
      bytesLE 4 t.unreported ++ bytesLE 4 t.start.toNat ++ bytesLE 4 finish.toNat
  | .dutyChanged driver effective before cause =>
    b1 driver.code ++ b1 effective.code ++ b1 before.code ++ b1 cause.code
  | .linkState left entered cause cycles override =>
    b1 left.code ++ b1 entered.code ++ b1 cause.code ++ b1 cycles ++ b1 (bitAt 0 override)
  | .emergencyState now previous cause round count captured changes =>
    b1 now.code ++ b1 previous.code ++ b1 cause.code ++ b1 round ++ bytesLE 2 count ++
      b1 (capturedCode captured) ++ b1 changes
  | .settingsTaken outcome field => b1 outcome.code ++ b1 field

/-- Bytes filled up with zeros to n (R179). -/
def padTo (n : Nat) (bs : List Byte) : List Byte := bs ++ List.replicate (n - bs.length) 0

/-- The 128 bytes of an event slot (R182). -/
def Event.bytes (e : Event) : List Byte :=
  padTo 128 ([e.payload.code] ++ b1 e.payload.bytes.length ++ bytesLE 2 e.tag.toNat ++
    bytesLE 4 e.time.toNat ++ e.payload.bytes)

/-! ### Trip record image (R184, Table 46) -/

/-- The flags of a trip record, in the order of bits 24-29 of the image word at offset 24. -/
def TripRecord.flagBits (t : TripRecord) : Nat :=
  bitAt 0 t.emergency + bitAt 1 t.pulseFault + bitAt 2 t.fareCap + bitAt 3 t.unreported +
    bitAt 4 t.truncated + bitAt 5 t.offerId.isSome

/-- Segment k of a record, counted from 0, all zero beyond the count (R184). -/
def TripRecord.segment (t : TripRecord) (k : Nat) : Segment :=
  t.segments.getD k { slot := 0, version := 0, steps := 0 }

/-- The segment slots word field, bits 20-31 of the word at offset 28. -/
def TripRecord.slotBits (t : TripRecord) : Nat :=
  (List.range 6).foldl (fun acc k => acc + (t.segment k).slot * 2 ^ (20 + 2 * k)) 0

/-- The fields of the image in order, each with its size in bytes. -/
def TripRecord.fields (t : TripRecord) : List (Nat × Nat) :=
  [ (4, t.number), (4, (t.offerId.getD 0).toNat), (4, t.start.toNat), (4, t.finish.toNat),
    (4, t.hiredPulses), (4, t.holdSecs), (4, t.fare + t.flagBits * 2 ^ 24),
    (4, t.extras + t.segments.length * 2 ^ 17 + t.slotBits), (2, t.peak) ] ++
  (List.range 6).map (fun k => (2, (t.segment k).version)) ++
  (List.range 6).map (fun k => (3, min (t.segment k).steps 16777215))

/-- The image as it stands in memory, little-endian (R184). -/
def TripRecord.memoryImage (t : TripRecord) : List Byte := t.fields.flatMap (fun p => bytesLE p.1 p.2)

/-- The image as it goes in a TRIP body, high byte first (R184). -/
def TripRecord.airImage (t : TripRecord) : List Byte := t.fields.flatMap (fun p => bytesBE p.1 p.2)

/-! ### Black box (Table 47) -/

/-- A recent downlink entry in the black box, 8 bytes. -/
def RecentFrame.bytes (r : RecentFrame) : List Byte :=
  [r.cls, r.seq, 0, 0] ++ bytesLE 4 r.doneAt.toNat

/-- The 256 bytes of a captured black box; without a position record its position fields are 0, as R185 has the position block (log entry 32). -/
def BlackBox.bytes (b : BlackBox) : List Byte :=
  padTo 256 ([0x02] ++ b1 b.source.code ++ b1 b.meterState.code ++ b1 (slotCode b.slot) ++
    bytesLE 4 b.time.toNat ++ bytesLE 4 b.tripNumber ++ bytesLE 4 b.fare ++ bytesLE 4 b.extras ++
    bytesLE 4 b.hiredPulses ++
    bytesLE 4 ((b.position.map (·.latitude.toNat)).getD 0) ++
    bytesLE 4 ((b.position.map (·.longitude.toNat)).getD 0) ++
    bytesLE 2 ((b.position.map (·.speed.toNat)).getD 0) ++
    bytesLE 2 ((b.position.map (·.heading)).getD 0) ++ bytesLE 2 b.fixAge ++
    b1 (bitAt 0 ((b.position.map (·.fixValid)).getD false)) ++ b1 b.link.code ++
    bytesLE 4 (b.jobId.getD 0).toNat ++ b1 (bitAt 0 b.jobId.isSome) ++ b1 b.queueLength ++
    bytesLE 2 b.totalBad ++ b1 b.recent.length ++ [0, 0, 0] ++ b.recent.flatMap RecentFrame.bytes)

/-- The black box as it is written: the copy, or the EMPTY marker and zeros (Table 47). -/
def boxBytes (b : Option BlackBox) : List Byte :=
  match b with
  | some x => x.bytes
  | none => padTo 256 [0x01]

/-! ### Frame bodies and frames (Table 48, R46, R185) -/

/-- The fix age a reader reports: 0 without a record (R177). -/
def fixAgeOf (s : State) : Nat := if s.position.record.isSome then s.position.fixAge else 0

/-- The position block, 15 bytes (R185). -/
def positionBlock (s : State) : List Byte :=
  match s.position.record with
  | some p =>
    bytesBE 4 p.latitude.toNat ++ bytesBE 4 p.longitude.toNat ++ bytesBE 2 p.speed.toNat ++
      bytesBE 2 p.heading ++ b1 (bitAt 0 p.fixValid) ++ bytesBE 2 s.position.fixAge
  | none => List.replicate 15 0

/-- The BID body (R111). -/
def bidBody (id : Word) (s : State) : List Byte := bytesBE 4 id.toNat ++ positionBlock s

/-- The RELEASE body. -/
def releaseBody (id : Word) : List Byte := bytesBE 4 id.toNat

/-- The uplink ACK body (R61). -/
def ackFrameBody (cls seq : Byte) (r : AckResult) : List Byte := [cls, seq] ++ b1 r.code ++ [0]

/-- The uplink TEXT body (R127). -/
def textFrameBody (canned : Byte) (text : List Byte) : List Byte := [canned] ++ b1 text.length ++ text

/-- The STATUS body (R102). -/
def statusBody (s : State) : List Byte :=
  b1 (effectiveDuty s).code ++ b1 s.meter.state.code ++ bytesBE 4 s.meter.fare ++
    b1 s.trip.backlog.length ++ b1 s.emerg.state.code ++ positionBlock s

/-- The ALARM body (R149) of a state, round and attempt or tracking count; the offer-id-present byte is 1 with an id, else 0 (log entry 32). -/
def alarmBody (st : EmState) (round count : Nat) (s : State) : List Byte :=
  b1 st.code ++ b1 round ++ bytesBE 2 count ++ positionBlock s ++ b1 s.meter.state.code ++
    bytesBE 4 s.meter.fare ++ b1 (bitAt 0 (jobId s).isSome) ++ bytesBE 4 ((jobId s).getD 0).toNat

/-- The header of an uplink frame (R46). -/
def uplinkHeader (cab : Nat) (e : Entry) : List Byte :=
  [e.cls.code] ++ b1 (bitAt 3 e.tracking + bitAt 4 e.cancelled) ++ bytesBE 2 cab ++ b1 e.seq ++
    b1 e.body.length

/-- The characters of an uplink transmission (R46): preamble, sync pair, header, body, CRC. -/
def uplinkChars (cab : Nat) (e : Entry) : List Byte :=
  [0x55, 0x55, 0x55, 0x55, 0xC3, 0x3C] ++ uplinkHeader cab e ++ e.body ++
    bytesBE 2 (crc16 (uplinkHeader cab e ++ e.body)).toNat

/-! ### Live meter zone (Table 43, R41) -/

def w32 (n : Nat) : Word := BitVec.ofNat 32 n

/-- Four one-byte values as a word, byte 0 first. -/
def packed (x0 x1 x2 x3 : Nat) : Word :=
  wordOf (BitVec.ofNat 8 x0) (BitVec.ofNat 8 x1) (BitVec.ofNat 8 x2) (BitVec.ofNat 8 x3)

/-- Two 16-bit values as a word, the first in bits 0-15. -/
def halves (lo hi : Nat) : Word := BitVec.ofNat 16 hi ++ BitVec.ofNat 16 lo

/-- The code of the job state (Table 43, offset 0x54). -/
def jobCode (o : Option Offer) : Nat :=
  match o with
  | some x => if x.state = .bidSent then 1 else 2
  | none => 0

/-- The meter, trip and shift words, offsets 0x00 to 0x48; the pending slot of word 0 with no change pending is the model's choice (log entry 32). -/
def zoneMeterWords (s : State) : List Word :=
  [ packed s.meter.state.code (slotCode (s.meter.active.map (·.slot)))
      (changeKindCode s.meter.change) (changeSlotCode s.meter.change)
  , w32 (s.meter.fare + bitAt 24 s.meter.fareCap + bitAt 25 s.meter.pulseFault)
  , w32 s.meter.extras
  , w32 s.meter.acc
  , w32 s.meter.hiredPulses
  , w32 s.meter.elapsed
  , halves s.meter.peak 0
  , w32 ((s.trip.openTrip.map (·.number)).getD 0)
  , packed s.trip.backlog.length (s.trip.holdoff.getD 0) 0 0
  , w32 s.trip.shift.trips
  , w32 s.trip.shift.fareTotal
  , w32 (s.trip.shift.fareTotal / 2 ^ 32)
  , w32 s.trip.shift.extrasTotal
  , w32 (s.trip.shift.extrasTotal / 2 ^ 32)
  , w32 s.trip.shift.hiredPulses
  , w32 s.trip.shift.totalPulses
  , w32 s.trip.shift.rejectedPulses
  , w32 s.trip.shift.unreported
  , s.trip.shift.start ]

/-- The clock, access, duty and pool words, offsets 0x4C to 0x64. -/
def zoneDutyWords (s : State) : List Word :=
  [ s.clock
  , halves s.path.guardCount 0
  , packed (effectiveDuty s).code s.offers.driverDuty.code
      (s.offers.entries.countP (·.isSome)) (jobCode (jobEntry s))
  , (jobId s).getD 0
  , halves s.offers.suppressed s.offers.malformed
  , halves s.offers.overflow (s.pool.slots.countP (·.isSome))
  , halves s.pool.malformed 0 ]

/-- The link and emergency words, offsets 0x68 to 0x8C. -/
def zoneLinkWords (s : State) : List Word :=
  [ packed s.link.state.code s.link.channel (slotCode s.link.pendingChannel)
      s.uplink.entries.length
  , packed s.rx.badRun (bitAt 0 s.rx.linkPoor + bitAt 1 (congestActive s)) s.sup.cycles
      (bitAt 0 s.sup.override)
  , halves s.rx.totalBad s.rx.overrun
  , halves s.rx.unknown s.uplink.dropped
  , halves s.uplink.unmatched 0
  , packed s.emerg.state.code s.emerg.round s.emerg.attempt
      (bitAt 0 s.emerg.graceTimer.isSome + bitAt 1 s.emerg.box.isSome)
  , halves s.emerg.trackCount s.emerg.ignored
  , halves s.emerg.keyedCount 0
  , s.emerg.lastSent
  , ((s.emerg.box.map (·.time)).getD 0) ]

/-- The 64 words of a snapshot latched now (R41, R164, Table 43). -/
def snapshotWords (s : State) : List Word :=
  zoneMeterWords s ++ zoneDutyWords s ++ zoneLinkWords s ++ List.replicate 28 0

/-- The settings result word (Table 42). -/
def resultWord (r : CommitResult) : Word :=
  wordOf (lane (r.tag.setWidth 32) 0) (lane (r.tag.setWidth 32) 1) (BitVec.ofNat 8 r.outcome.code)
    (BitVec.ofNat 8 r.field)

end Sys2Proof.Machine
end

