-- ==== Sys2Proof/Machine/Ops.lean ====
section
/-! DEFINITION. The shared operations: producing events, holding and placing reports, requesting agent tasks, writing the part's words, ALERT pulses. -/

namespace Sys2Proof.Machine

/-- What a command answers. -/
abbrev Out := Host.Outcome State Fault Refusal

/-- A command that needs the part to be released (R167); in a reset it changes nothing (log entry 3). -/
def whenRunning (f : State → State) (s : State) : State := if s.phase = .running then f s else s

/-! ### Events placed at once (R172, R173) -/

/-- An event produced now (R182: the terminal clock at production). -/
def eventNow (tag : Half) (p : Payload) (s : State) : Event := { tag := tag, time := s.clock, payload := p }

/-- An event takes a place in the internal event queue and is counted generated (R172, R173). -/
def placeEvent (e : Event) (s : State) : State :=
  s.setEvw { s.evw with queue := s.evw.queue ++ [e], generated := s.evw.generated + 1 }

/-- An event that finds the queue full is dropped (R172, R173). -/
def dropEvent (s : State) : State :=
  raiseFactor .lost
    (s.setEvw { s.evw with generated := s.evw.generated + 1, lost := s.evw.lost + 1,
                           countersStale := true })

/-- Placing an event at once: it is discarded uncounted while a reset holds, and dropped on a full queue (R172; log entry 11). -/
def produce (tag : Half) (p : Payload) (s : State) : State :=
  if s.phase = .running then
    if s.evw.queue.length < Config.eventQueueSize then placeEvent (eventNow tag p s) s
    else dropEvent s
  else s

/-- The refusal of a request (R171). -/
def refuse (code : Byte) (reason : Reason) (tag : Half) (s : State) : State :=
  produce tag (.refused code reason) s

/-! ### Timers in seconds and the tick at hand (R36, R87, R90, R110, R114, R138; log entry 4) -/

/-- A running timer counts one tick. -/
def countDown (t : Option Nat) : Option Nat := t.map (· - 1)

/-- The offer windows and the award wait (R110, R114). -/
def tickOffers (s : State) : State :=
  s.setOffers { s.offers with
    entries := s.offers.entries.map (fun e =>
      e.map (fun o => { o with remaining := countDown o.remaining })) }

/-- The supervisor's timers (R90). -/
def tickSup (s : State) : State :=
  s.setSup { s.sup with ready := countDown s.sup.ready, powerOff := countDown s.sup.powerOff,
                        stuckBusy := countDown s.sup.stuckBusy,
                        healthy := countDown s.sup.healthy }

/-- The emergency controller's timers in seconds (R138). -/
def tickEmerg (s : State) : State :=
  s.setEmerg { s.emerg with repeatTimer := countDown s.emerg.repeatTimer,
                            cooldownTimer := countDown s.emerg.cooldownTimer,
                            trackTimer := countDown s.emerg.trackTimer,
                            graceTimer := countDown s.emerg.graceTimer }

/-- The holdoff (R36) and the contention clock (R87; log entry 24). -/
def tickLink (s : State) : State :=
  (s.setTrip { s.trip with holdoff := countDown s.trip.holdoff }).setLink
    { s.link with clock := s.link.clock.map (· + 1) }

/-- Every timer in seconds, and the contention clock, count the tick at hand. -/
def countTimers (s : State) : State := tickLink (tickEmerg (tickSup (tickOffers s)))

/-- Noting whether the timers have counted the tick at hand (log entry 4). -/
def markTick (b : Bool) (s : State) : State := s.setBook { s.book with counted := b }

/-- The tick at hand begins: the timers count it once, so a timer started after that, at the same tick, does not count it (R90, R138). -/
def openTick (s : State) : State := if s.book.counted then s else countTimers (markTick true s)

/-- Doing what a timer's end does, when it has run out. -/
def whenDue (timer : State → Option Nat) (f : State → State) (s : State) : State :=
  if timer s = some 0 then f s else s

/-- The row of a timer's end: the tick at hand has begun and ends that timer first; nothing while the tick does not end it (log entry 4). -/
def atTick (timer : State → Option Nat) (f : State → State) (s : State) : State :=
  if timer (openTick s) = some 0 then f (openTick s) else s

/-! ### An arrival of the tick at hand that came before a timer's end (R90, R96, R103, R138, R157; log entry 4) -/

/-- A timer as it stood where it stood at its full length, just started; else as the tick has counted it (R90, R138). -/
def spare (full : Nat) (now counted : Option Nat) : Option Nat :=
  if now = some full then now else counted

/-- The supervisor's timers and the contention clock that stood at their full length in s do not count the tick at hand (R90). -/
def spareSup (s t : State) : State :=
  (t.setSup { t.sup with
    ready := spare Config.readySeconds s.sup.ready t.sup.ready,
    powerOff := spare s.settings.accepted.powerOffTime s.sup.powerOff t.sup.powerOff,
    stuckBusy := spare s.settings.accepted.busyLimit s.sup.stuckBusy t.sup.stuckBusy,
    healthy := spare Config.healthySeconds s.sup.healthy t.sup.healthy }).setLink
      { t.link with clock := spare 0 s.link.clock t.link.clock }

/-- The call's timers that stood at their full length in s do not count the tick at hand (R138). -/
def spareCall (s t : State) : State :=
  t.setEmerg { t.emerg with
    repeatTimer := spare s.settings.accepted.repeatInterval s.emerg.repeatTimer t.emerg.repeatTimer,
    cooldownTimer := spare s.settings.accepted.cooldown s.emerg.cooldownTimer t.emerg.cooldownTimer,
    trackTimer := spare s.settings.accepted.trackInterval s.emerg.trackTimer t.emerg.trackTimer,
    graceTimer := spare s.settings.accepted.grace s.emerg.graceTimer t.emerg.graceTimer }

/-- What a raise starts: the call's timers, and the radio's where the override mark tells of an override (R140, R98). -/
def spareRaise (s t : State) : State :=
  if s.sup.override then spareSup s (spareCall s t) else spareCall s t

/-- What a release starts: the call's timers, the radio's and the holdoff (R37, R91, R155). -/
def spareRelease (s t : State) : State :=
  let u := spareSup s (spareCall s t)
  u.setTrip { u.trip with holdoff := spare Config.holdoffSeconds s.trip.holdoff u.trip.holdoff }

/-- The row of a timer's end that another arrival of the same tick has stopped or started anew: the tick at hand has begun, and what that arrival started does not count it; nothing where no such arrival is to be seen (log entry 4). -/
def lateTick (taken : State → Bool) (keep : State → State → State) (s : State) : State :=
  if taken s then keep s (openTick s) else s

/-- The row of a timer's end that another arrival of the same tick may have been taken before: the timer ends if the tick brings it to 0; else that arrival came first, or the row changes nothing (log entry 4). -/
def atTickOr (timer : State → Option Nat) (f : State → State) (taken : State → Bool)
    (keep : State → State → State) (s : State) : State :=
  if timer (openTick s) = some 0 then f (openTick s) else lateTick taken keep s

/-- A raise has just been taken: the first attempt's repeat timer stands at its full length (R140, R141). -/
def justRaised (s : State) : Bool :=
  s.emerg.state == .calling && s.emerg.attempt == 1 &&
    s.emerg.repeatTimer == some s.settings.accepted.repeatInterval

/-- An ALARM_ACK has just been taken: the tracking timer stands at its full length (R145). -/
def justAnswered (s : State) : Bool :=
  s.emerg.state == .tracking && s.emerg.trackTimer == some s.settings.accepted.trackInterval

/-- A fault has just cycled the power: the power-off timer stands at its full length (R94). -/
def justCycled (s : State) : Bool :=
  s.link.state == .powerOff && s.sup.powerOff == some s.settings.accepted.powerOffTime

/-- A commit in POWER_ON_WAIT has just restarted the ready timer, or a rise of RDY has just left the state: the ready or the healthy timer stands at its full length (R91, R96, R99). -/
def justRestarted (s : State) : Bool :=
  (s.link.state == .powerOnWait && s.sup.ready == some Config.readySeconds) ||
    (channelAccess s.link.state && s.sup.healthy == some Config.healthySeconds)

/-- A commit in channel access has just restarted the stuck-busy timer, or a fault has cycled the power (R94, R99). -/
def justWatched (s : State) : Bool :=
  justCycled s || (receiving s.link.state && s.pins.cd &&
    s.sup.stuckBusy == some s.settings.accepted.busyLimit)

/-- A release has just restarted the holdoff at 60 s (R37). -/
def justReleased (s : State) : Bool :=
  s.phase == .running && s.trip.holdoff == some Config.holdoffSeconds

/-! ### Held reports (R172) -/

/-- A report produced now, with its place in the order of production. -/
def heldNow (tag : Half) (p : Payload) (s : State) : HeldReport :=
  { order := s.book.produced, event := eventNow tag p s }

/-- Counting a report produced (log entry 19). -/
def countHeld (s : State) : State := s.setBook { s.book with produced := s.book.produced + 1 }

/-- Counting a free value drawn (log entry 19). -/
def countDrawn (s : State) : State := s.setBook { s.book with drawn := s.book.drawn + 1 }

/-- The blocks that hold reports (R172). -/
inductive HeldSource where
  | offer (index : Nat)
  | slot (index : Nat)
  | trip
  | emergency
  | settings
  deriving DecidableEq, Repr

/-- The reports held by the offer entries from index i on. -/
def heldByOffers : Nat → List (Option Offer) → List (Nat × HeldSource)
  | _, [] => []
  | i, o :: os =>
    match o.bind (·.held) with
    | some h => (h.order, .offer i) :: heldByOffers (i + 1) os
    | none => heldByOffers (i + 1) os

/-- The reports held by the pool slots from index i on. -/
def heldBySlots : Nat → List (Option Slot) → List (Nat × HeldSource)
  | _, [] => []
  | i, x :: xs =>
    match x.bind (·.held) with
    | some h => (h.order, .slot i) :: heldBySlots (i + 1) xs
    | none => heldBySlots (i + 1) xs

/-- Every block's first waiting report, with its order of production. -/
def heldReports (s : State) : List (Nat × HeldSource) :=
  heldByOffers 0 s.offers.entries ++ heldBySlots 0 s.pool.slots ++
    (match s.trip.reports with | h :: _ => [(h.order, .trip)] | [] => []) ++
    (match s.emerg.report with | some r => [(r.order, .emergency)] | none => []) ++
    (match s.settings.report with | some h => [(h.order, .settings)] | none => [])

/-- The source of the report produced earliest. -/
def earliest : List (Nat × HeldSource) → Option (Nat × HeldSource)
  | [] => none
  | x :: xs =>
    match earliest xs with
    | none => some x
    | some y => if y.1 < x.1 then some y else some x

/-- The event of the pending EMERGENCY_STATE (R149). -/
def EmReport.event (r : EmReport) (previous : EmState) : Event :=
  { tag := r.tag, time := r.time,
    payload := .emergencyState r.now previous r.cause r.round r.count r.captured r.changes }

/-- An entry of the offer table takes a new value. -/
def setOffer (i : Nat) (o : Option Offer) (s : State) : State :=
  s.setOffers { s.offers with entries := s.offers.entries.set i o }

/-- A slot of the message pool takes a new value. -/
def setSlot (i : Nat) (x : Option Slot) (s : State) : State :=
  s.setPool { s.pool with slots := s.pool.slots.set i x }

/-- An offer entry whose report has been placed: CLOSING becomes FREE (R105). -/
def Offer.placed (o : Offer) : Option Offer :=
  if o.state = .closing then none else some { o with held := none }

/-- A slot whose report has been placed: FREE without an entry reference (R126). -/
def Slot.placed (x : Slot) : Option Slot :=
  if x.ref.isNone then none else some { x with held := none, attempts := none }

/-- The report leaves its holder and takes a place (R105, R126, R33, R149, R176). -/
def placeFrom (src : HeldSource) (s : State) : State :=
  match src with
  | .offer i =>
    match s.offers.entries.getD i none with
    | some o =>
      match o.held with
      | some h => placeEvent h.event (setOffer i o.placed s)
      | none => s
    | none => s
  | .slot i =>
    match s.pool.slots.getD i none with
    | some x =>
      match x.held with
      | some h => placeEvent h.event (setSlot i x.placed s)
      | none => s
    | none => s
  | .trip =>
    match s.trip.reports with
    | h :: hs => placeEvent h.event (s.setTrip { s.trip with reports := hs })
    | [] => s
  | .emergency =>
    match s.emerg.report with
    | some r =>
      placeEvent (r.event s.emerg.lastPlaced)
        (s.setEmerg { s.emerg with report := none, lastPlaced := r.now })
    | none => s
  | .settings =>
    match s.settings.report with
    | some h => placeEvent h.event (s.setSettings { s.settings with report := none })
    | none => s

/-- One free place goes to the report produced earliest, whichever block holds it (R172). -/
def placeOne (s : State) : State :=
  if s.phase = .running ∧ s.evw.queue.length < Config.eventQueueSize then
    match earliest (heldReports s) with
    | some x => placeFrom x.2 s
    | none => s
  else s

/-- Each of n free places goes the same way. -/
def placeMany : Nat → State → State
  | 0, s => s
  | n + 1, s => placeMany n (placeOne s)

/-- Every free place goes to a waiting report, earliest first (R172). -/
def placeHeld (s : State) : State := placeMany Config.eventQueueSize s

/-! ### Reports of the owners -/

/-- A report joins the trip recorder's pending list (R33). -/
def addTripReport (tag : Half) (p : Payload) (s : State) : State :=
  countHeld (s.setTrip { s.trip with reports := s.trip.reports ++ [heldNow tag p s] })

/-- The count an EMERGENCY_STATE carries: the tracking count in TRACKING, else the attempt (R149). -/
def Emergency.count (e : Emergency) : Nat := if e.state = .tracking then e.trackCount else e.attempt

/-- The pending report is set to the controller's current values, replacing one not yet placed (R149; log entry 18). -/
def setEmReport (cause : EmCause) (tag : Half) (s : State) : State :=
  let r : EmReport :=
    { order := (s.emerg.report.map (·.order)).getD s.book.produced, tag := tag, time := s.clock,
      now := s.emerg.state, cause := cause, round := s.emerg.round, count := s.emerg.count,
      captured := s.emerg.box.map (·.source),
      changes := satAdd Config.max8 ((s.emerg.report.map (·.changes)).getD 0) 1 }
  countHeld (s.setEmerg { s.emerg with report := some r })

/-- The pending SETTINGS_TAKEN is set, replacing one not yet placed (R176). -/
def setSettingsReport (tag : Half) (p : Payload) (s : State) : State :=
  let h : HeldReport :=
    { order := (s.settings.report.map (·.order)).getD s.book.produced, event := eventNow tag p s }
  countHeld (s.setSettings { s.settings with report := some h })

/-- An offer entry becomes CLOSING and holds its report; its timers, bid and mark are gone (R105, Table 26). -/
def closeWith (i : Nat) (o : Offer) (reason : Option ClosingReason) (tag : Half) (p : Payload)
    (s : State) : State :=
  countHeld (setOffer i (some { o with state := .closing, remaining := none, progress := none,
                                       bidSeq := none, deferred := none, reason := reason,
                                       held := some (heldNow tag p s) }) s)

/-- An offer entry closes with OFFER_CLOSED and its tag (R105). -/
def closeOffer (i : Nat) (o : Offer) (reason : ClosingReason) (release : ReleaseNote) (s : State) :
    State :=
  closeWith i o (some reason) o.tag (.offerClosed o.id reason release) s

/-- The index and entry that hold an offer id, from index i on (R104). -/
def findOfferFrom (id : Word) : Nat → List (Option Offer) → Option (Nat × Offer)
  | _, [] => none
  | i, some o :: os => if o.id = id then some (i, o) else findOfferFrom id (i + 1) os
  | i, none :: os => findOfferFrom id (i + 1) os

/-- The entry with that id (R104). -/
def findOffer (id : Word) (s : State) : Option (Nat × Offer) := findOfferFrom id 0 s.offers.entries

/-- The entry in BID_SENT or AWARDED with its index, from index i on. -/
def findJobFrom : Nat → List (Option Offer) → Option (Nat × Offer)
  | _, [] => none
  | i, some o :: os => if o.job then some (i, o) else findJobFrom (i + 1) os
  | i, none :: os => findJobFrom (i + 1) os

/-- The held job: the entry in BID_SENT or AWARDED. -/
def findJob (s : State) : Option (Nat × Offer) := findJobFrom 0 s.offers.entries

/-- The lowest-numbered index that holds nothing, from index i on (R109, R127). -/
def firstFree {α : Type} : Nat → List (Option α) → Option Nat
  | _, [] => none
  | i, none :: _ => some i
  | i, some _ :: xs => firstFree (i + 1) xs

/-- Putting an OPEN entry among others in order of admission. -/
def insertOpen (x : Nat × Offer) : List (Nat × Offer) → List (Nat × Offer)
  | [] => [x]
  | y :: ys => if x.2.admitted < y.2.admitted then x :: y :: ys else y :: insertOpen x ys

/-- The OPEN entries from index i on, in order of admission (R107). -/
def openOffers : Nat → List (Option Offer) → List (Nat × Offer)
  | _, [] => []
  | i, some o :: os =>
    if o.state = .open then insertOpen (i, o) (openOffers (i + 1) os) else openOffers (i + 1) os
  | i, none :: os => openOffers (i + 1) os

/-- Closing each entry of a list. -/
def closeAll (reason : ClosingReason) : List (Nat × Offer) → State → State
  | [], s => s
  | x :: xs, s => closeAll reason xs (closeOffer x.1 x.2 reason .noneOffered s)

/-- Every OPEN entry closes, in the order of the entries' admission (R107, R121, R176; log entry 22). -/
def closeOpen (reason : ClosingReason) (s : State) : State :=
  closeAll reason (openOffers 0 s.offers.entries) s

/-! ### Agent tasks (R165) -/

/-- Whether two tasks are of one of the four kinds; the two forms of a request task are one kind. -/
def TaskKind.same : TaskKind → TaskKind → Bool
  | .fetch _, .fetch _ | .fetch _, .index | .index, .fetch _ | .index, .index => true
  | .event _, .event _ => true
  | .tripLog, .tripLog => true
  | .blackBox, .blackBox => true
  | _, _ => false

/-- Whether the task list holds a task of the kind. -/
def taskListed (k : TaskKind) (s : State) : Bool := s.agent.tasks.any (fun t => t.kind.same k)

/-- Consecutive word writes from an offset. -/
def writesFrom : Nat → List Word → List AgentWord
  | _, [] => []
  | off, w :: ws => .write off w :: writesFrom (off + 4) ws

/-- The counter words and the result word that end an event task (R165). -/
def counterWords : List AgentWord := [.generated, .lost, .result]

/-- The words of a task with the values taken at its start (R165, R152). -/
def taskWords (k : TaskKind) (s : State) : List AgentWord :=
  match k with
  | .fetch slot => (List.range 32).map (fun i => .read (0x0800 + 128 * slot + 4 * i))
  | .index => [.write 0x0044 (w32 s.reader.consumer)]
  | .event true =>
    match s.evw.queue with
    | e :: _ =>
      writesFrom (0x1000 + 128 * s.evw.producer) (wordsOf e.bytes) ++
        [.producer ((s.evw.producer + 1) % 64)] ++ counterWords
    | [] => counterWords
  | .event false => counterWords
  | .tripLog =>
    match s.trip.logWrite with
    | some t =>
      writesFrom (0x3000 + 64 * (t.number % Config.tripLogSize)) (wordsOf t.memoryImage) ++
        [.write 0x0058 (w32 t.number)]
    | none => []
  | .blackBox => writesFrom 0x4000 (wordsOf (boxBytes s.emerg.box))

/-- The agent begins the first task of the list once the initial writes are done (R165, R168). -/
def beginTask (s : State) : State :=
  if s.phase = .running ∧ s.agent.initial = .done then
    match s.agent.tasks with
    | t :: ts =>
      if t.words.isNone then
        s.setAgent { s.agent with
          tasks := { t with words := some (taskWords t.kind s),
                            number := (s.trip.logWrite.map (·.number)).getD 0 } :: ts }
      else s
    | [] => s
  else s

/-- A task joins the end of the list, unless one of its kind is in it (R165). -/
def requestTask (k : TaskKind) (s : State) : State :=
  if taskListed k s then s
  else
    beginTask (s.setAgent { s.agent with
      tasks := s.agent.tasks ++ [{ kind := k, words := none, bytes := [], number := 0 }] })

/-- The black box copy has changed: its write is requested, or follows the one in progress (R152, R168). -/
def requestBoxWrite (s : State) : State :=
  if s.phase = .running then
    if s.agent.initial ≠ .done ∨ taskListed .blackBox s then
      s.setEmerg { s.emerg with boxMark := .rewrite }
    else requestTask .blackBox (s.setEmerg { s.emerg with boxMark := .pending })
  else s.setEmerg { s.emerg with boxMark := .pending }

/-- The trip-log write is requested; while a reset or the initial writes hold it waits for their end (R32, R168). -/
def requestTripLog (s : State) : State :=
  if s.phase = .running ∧ s.agent.initial = .done then requestTask .tripLog s else s

/-! ### Memory in the terminal area -/

/-- The base in force. -/
def baseOf (s : State) : Nat := s.path.base.getD 0

/-- An agent word written to an offset of the terminal area (R165). -/
def agentWrite (off : Nat) (v : Word) (s : State) : State :=
  s.setMem (Memory.writeLanes s.mem (baseOf s + off) fullLanes v)

/-! ### ALERT (R134) -/

/-- The time of a pulse request in periods of the time base since the full reset (R134; log entry 6). -/
def requestTime (s : State) : Nat :=
  Config.basePeriods * s.secs + Config.subSecond s.book.drawn % Config.basePeriods

/-- A pulse request: it raises ALERT or extends the running pulse's end (R134). -/
def pulse (duration : Nat) (s : State) : State :=
  countDrawn (s.setAttn { s.attn with
    alertEnd := some (max (s.attn.alertEnd.getD 0) (requestTime s + duration)) })

end Sys2Proof.Machine
end

