-- ==== Sys2Proof/Machine/Channel.lean ====
section
/-! DEFINITION. The frame receiver's abandonments and the link controller's contention, keying and channel changes (spec/03 R45, R51 to R53, R57; spec/04 R66 to R74). -/

namespace Sys2Proof.Machine

/-! ### Receiver -/

/-- A FILLING buffer returns to FREE. -/
def Buffer.release : Buffer → Buffer
  | .filling => .free
  | b => b

/-- The deframer in HUNT with nothing stored; a FILLING buffer becomes FREE (R51, R52). -/
def Receiver.hunt (r : Receiver) : Receiver :=
  { r with deframer := .hunt, stored := [], charBad := false, skipped := 0, skipLength := 0,
           bufA := r.bufA.release, bufB := r.bufB.release }

/-- Whether a run of bad frames is LINK_POOR at a threshold (R57). -/
def poorAt (threshold run : Nat) : Bool := threshold != 255 && decide (threshold ≤ run)

/-- A bad frame, whatever its reason (R51, R57, R58). -/
def badFrame (s : State) : State :=
  let run := satAdd Config.max8 s.rx.badRun 1
  let poor := poorAt s.settings.accepted.badThreshold run
  let t := s.setRx { s.rx.hunt with badRun := run, linkPoor := poor,
                                    totalBad := satAdd Config.max16 s.rx.totalBad 1 }
  if poor then raiseFactor .linkPoor t else t

/-- A skipped frame ends (R53). -/
def skipEnd (s : State) : State :=
  s.setRx { s.rx.hunt with overrun := satAdd Config.max16 s.rx.overrun 1 }

/-- RXD becomes ignored (R45, Table 15). -/
def rxIgnored (s : State) : State :=
  match s.rx.deframer with
  | .header | .body | .check => badFrame s
  | .skip => skipEnd s
  | .hunt | .syncHalf => s.setRx s.rx.hunt

/-! ### Contention -/

/-- The backoff count of a draw (R67; log entry 5). -/
def drawCount (e : Entry) (s : State) : Nat :=
  match e.cls with
  | .alarm => Config.backoffDraw s.book.drawn % 2
  | _ =>
    Config.backoffDraw s.book.drawn %
      2 ^ min (s.settings.accepted.backoffMin + e.attempts) s.settings.accepted.backoffMax

/-- The stuck-busy timer stops (R92). -/
def stopStuckBusy (s : State) : State := s.setSup { s.sup with stuckBusy := none }

/-- KEYUP begins: PTT is asserted, the contention clock stops and the keyup delay runs (R70). -/
def startKeyup (s : State) : State :=
  let t := stopStuckBusy (rxIgnored s)
  t.setLink { t.link with
    state := .keyup, slotTimer := none, clock := none, dwellPassed := false, keyed := t.link.target,
    phaseTimer := some t.settings.accepted.keyupDelay }

/-- A draw for an entry, which becomes the contention target (R67, R68): a count of 0 with CD low keys at once. -/
def drawFor (e : Entry) (s : State) : State :=
  let n := drawCount e s
  let t := countDrawn (s.setLink { s.link with
    state := .contend, target := some e.seq, backoff := n,
    slotTimer := if s.pins.cd then none else some s.settings.accepted.slotTime })
  if s.pins.cd = false ∧ n = 0 then startKeyup t else t

/-- A contention begins with its clock at 0 (R66, R69). -/
def contendFor (e : Entry) (s : State) : State :=
  drawFor e (s.setLink { s.link with clock := some 0, dwellPassed := false })

/-- The link controller's contention and transmission stop. -/
def Link.idle (l : Link) : Link :=
  { l with target := none, backoff := 0, slotTimer := none, clock := none, dwellPassed := false,
           keyed := none, phaseTimer := none, tx := [] }

/-- The pending channel is applied: one event (R74). -/
def applyChannel (s : State) : State :=
  let t := stopStuckBusy (rxIgnored s)
  t.setLink { t.link.idle with
    state := .settle, channel := t.link.pendingChannel.getD t.link.channel, pendingChannel := none,
    phaseTimer := some Config.settleMs }

/-- In LISTEN: a pending channel that may be applied is applied, else a QUEUED entry starts a contention (R66, R74). -/
def listenReact (s : State) : State :=
  if s.link.pendingChannel.isSome ∧ noFrameInAssembly s then applyChannel s
  else
    match firstQueued s with
    | some e => contendFor e s
    | none => s

/-- The target, if it is still in the queue and QUEUED. -/
def queuedTarget (s : State) : Option Entry :=
  match s.link.target.bind (fun q => entryWith q s) with
  | some e => if e.state = .queued then some e else none
  | none => none

/-- In CONTEND: a target that has left gives way, a higher-priority entry preempts (R69). -/
def contendReact (s : State) : State :=
  match queuedTarget s with
  | none =>
    match firstQueued s with
    | some e => contendFor e s
    | none => listenReact (s.setLink { s.link.idle with state := .listen })
  | some t =>
    match firstQueued s with
    | some e => if e.cls.priority < t.cls.priority then drawFor e s else s
    | none => s

/-- CONGEST present sets its factor (R87, R178). -/
def congestFactor (s : State) : State := if congestActive s then raiseFactor .congest s else s

/-- The link controller's answer to a change of the queue, by R66 in LISTEN and by R69 in CONTEND. -/
def linkReact (s : State) : State :=
  match s.link.state with
  | .listen => listenReact s
  | .contend => congestFactor (contendReact s)
  | _ => s

/-- The entry into LISTEN from a state in which RXD was ignored (R45, R66, R74, R92). -/
def enterListen (s : State) : State :=
  let t := s.setSup { s.sup with
    stuckBusy := if s.pins.cd then some s.settings.accepted.busyLimit else none }
  listenReact ((t.setRx t.rx.hunt).setLink { t.link.idle with state := .listen })

/-- The link controller gives up contention, keying and timers (R75, R89). -/
def linkGiveUp (s : State) : State :=
  let t := if receiving s.link.state then rxIgnored s else s
  t.setLink t.link.idle

end Sys2Proof.Machine
end

