-- ==== Sys2Proof/Machine/Queue.lean ====
section
/-! DEFINITION. The uplink queue: admission, sequence numbers, displacement, removal, withdrawal (spec/04 R77 to R83). -/

namespace Sys2Proof.Machine

/-! ### Entries -/

/-- An entry of the queue takes a new value by its sequence number. -/
def updateEntry (q : Nat) (f : Entry → Entry) (s : State) : State :=
  s.setUplink { s.uplink with entries := s.uplink.entries.map (fun e => if e.seq = q then f e else e) }

/-- An entry leaves the queue; it is no longer target or keyed entry. -/
def removeEntry (q : Nat) (s : State) : State :=
  let t := s.setUplink { s.uplink with entries := s.uplink.entries.filter (fun e => e.seq != q) }
  t.setLink { t.link with
    target := if t.link.target = some q then none else t.link.target,
    keyed := if t.link.keyed = some q then none else t.link.keyed }

/-- An entry that is not admitted, displaced or flushed with the outcome "dropped" (R77). -/
def countDropped (s : State) : State :=
  s.setUplink { s.uplink with dropped := satAdd Config.max16 s.uplink.dropped 1 }

/-- A downlink ACK matched to no entry (R84). -/
def countUnmatched (s : State) : State :=
  s.setUplink { s.uplink with unmatched := satAdd Config.max16 s.uplink.unmatched 1 }

/-- The place of an admitted entry: after every entry of its priority or a higher one (R78). -/
def insertEntry (e : Entry) : List Entry → List Entry
  | [] => [e]
  | x :: xs => if x.cls.priority ≤ e.cls.priority then x :: insertEntry e xs else e :: x :: xs

/-- Whether an entry holds a sequence number. -/
def seqUsed (q : Nat) (es : List Entry) : Bool := es.any (fun e => e.seq == q)

/-- The first sequence number, counted from the counter, that no entry holds (R80). -/
def allocSeq (counter seqMax : Nat) (es : List Entry) : Option Nat :=
  ((List.range 16).map (fun k => (counter + k) % (seqMax + 1))).find? (fun q => !seqUsed q es)

/-! ### Outcomes of the message pool (R129, R130) -/

/-- The slot a TEXT entry names takes its outcome as a held report; the reference stays while the entry is still in the queue (R126, R129, R130). -/
def textOutcome (e : Entry) (payload : Nat → Payload) (stays : Bool) (s : State) : State :=
  match e.ref with
  | .slot i =>
    match s.pool.slots.getD i none with
    | some x =>
      countHeld (setSlot i (some { x with ref := if stays then x.ref else none,
                                          held := some (heldNow x.tag (payload i) s),
                                          attempts := some e.attempts }) s)
    | none => s
  | _ => s

/-- A TEXT_FAILED outcome (R130). -/
def textFailed (reason : FailReason) (e : Entry) (s : State) : State :=
  textOutcome e (fun i => .textFailed reason i e.seq e.attempts) false s

/-- The answered entry a slot names has left the queue (R126). -/
def clearSlotRef (e : Entry) (s : State) : State :=
  match e.ref with
  | .slot i =>
    match s.pool.slots.getD i none with
    | some x => setSlot i (if x.held.isNone then none else some { x with ref := none }) s
    | none => s
  | _ => s

/-! ### Admission (R79, R80, R82) -/

/-- The answer to an offered entry. -/
inductive Admission where
  | admitted (seq : Nat)
  | linkDown
  | full
  deriving DecidableEq, Repr

/-- Whether an entry may be displaced (R82). -/
def Entry.candidate (e : Entry) : Bool :=
  (e.cls == .text || e.cls == .trip || e.cls == .status || e.cls == .ack) && e.state != .onAir

/-- The candidate of lowest priority, and among those the youngest: the last in queue order (R82). -/
def displaced (es : List Entry) : Option Entry := (es.filter Entry.candidate).getLast?

/-- The owner of a displaced entry is told (R82). -/
def tellDisplaced (e : Entry) (s : State) : State :=
  match e.cls with
  | .text => textFailed .displaced e s
  | .status | .ack => countDropped s
  | _ => s

/-- An entry as it is admitted: QUEUED, attempts used 0, marks clear (R79). -/
def freshEntry (cls : UpClass) (body : List Byte) (tracking cancelled : Bool) (ref : OwnerRef)
    (seq time : Nat) : Entry :=
  { cls := cls, seq := seq, body := body, tracking := tracking, cancelled := cancelled, ref := ref,
    attempts := 0, state := .queued, answered := false, abandon := false, ackTimer := none,
    time := time }

/-- The counter's value after an allocation (R80). -/
def nextSeq (q seqMax : Nat) : Nat := (q + 1) % (seqMax + 1)

/-- An entry takes its sequence number and its place, and the link acts on it (R79, R80). -/
def insertNew (cls : UpClass) (body : List Byte) (tracking cancelled : Bool) (ref : OwnerRef)
    (s : State) : State × Admission :=
  match allocSeq s.link.seqCounter s.settings.accepted.seqMax s.uplink.entries with
  | some q =>
    let e := freshEntry cls body tracking cancelled ref q s.uplink.nextTime
    let t := s.setUplink { s.uplink with entries := insertEntry e s.uplink.entries,
                                         nextTime := s.uplink.nextTime + 1 }
    (linkReact (t.setLink { t.link with seqCounter := nextSeq q s.settings.accepted.seqMax }),
      .admitted q)
  | none => (s, .full)

/-- An owner offers an entry (R79): the first matching case decides. -/
def offerEntry (cls : UpClass) (body : List Byte) (tracking cancelled : Bool) (ref : OwnerRef)
    (s : State) : State × Admission :=
  if cls ≠ .alarm ∧ linkDown s = true then (s, .linkDown)
  else if cls.cap ≤ countClass cls s.uplink.entries then (s, .full)
  else if Config.uplinkSize ≤ s.uplink.entries.length then
    if cls = .alarm ∨ cls = .bid then
      match displaced s.uplink.entries with
      | some e =>
        insertNew cls body tracking cancelled ref (tellDisplaced e (removeEntry e.seq s))
      | none => (s, .full)
    else (s, .full)
  else insertNew cls body tracking cancelled ref s

/-- Whether an offer was admitted. -/
def Admission.ok : Admission → Bool
  | .admitted _ => true
  | _ => false

/-- A RELEASE, ACK or STATUS that is not admitted is dropped and counted (R79). -/
def offerOrDrop (cls : UpClass) (body : List Byte) (ref : OwnerRef) (s : State) : State × Admission :=
  let r := offerEntry cls body false false ref s
  if r.2.ok then r else (countDropped r.1, r.2)

/-- The trip recorder's test: a TRIP entry for the oldest trip of the backlog is enqueued when all of R34 holds. -/
def tripTest (s : State) : State :=
  match s.trip.backlog with
  | t :: _ =>
    if s.phase = .running ∧ countClass .trip s.uplink.entries = 0 ∧
        s.uplink.entries.length < Config.uplinkSize ∧ s.trip.holdoff = none ∧ linkDown s = false
    then (offerEntry .trip t.airImage false false (.trip t.number) s).1
    else s
  | [] => s

/-- An entry is taken out of the queue, and the link acts on it by R69. -/
def takeOut (q : Nat) (s : State) : State := linkReact (removeEntry q s)

/-- An entry leaves the queue as the last effect of a command, and R34 is tested. -/
def leaveQueue (q : Nat) (s : State) : State := tripTest (takeOut q s)

/-- A withdrawal by the owner (R83); the command that withdraws tests R34 at its end (log entry 2). -/
def withdrawEntry (q : Nat) (s : State) : State :=
  match entryWith q s with
  | some e =>
    match e.state with
    | .onAir => updateEntry q (fun x => { x with answered := true }) s
    | .queued | .awaitAck => takeOut q s
  | none => s

/-- A RELEASE for an offer id is offered (R114, R116, R119, R120). -/
def offerRelease (id : Word) (s : State) : State × ReleaseNote :=
  let r := offerOrDrop .release (releaseBody id) (.offerId id) s
  (r.1, if r.2.ok then .released else .notReleased)

/-- The uplink ACK of a frame is offered (R61). -/
def offerAck (cls seq : Byte) (result : AckResult) (s : State) : State :=
  (offerOrDrop .ack (ackFrameBody cls seq result) .none s).1

/-- The oldest trip leaves the backlog (R35). -/
def tripLeaves (s : State) : State := s.setTrip { s.trip with backlog := s.trip.backlog.drop 1 }

/-! ### ALARM offers (R81, R142) -/

/-- The kinds of ALARM (R142). -/
inductive AlarmKind where
  | call
  | tracking
  | cancelled (round attempt : Nat)
  deriving DecidableEq, Repr

/-- The body built now for a kind (R149). -/
def AlarmKind.body (k : AlarmKind) (s : State) : List Byte :=
  match k with
  | .call => alarmBody .calling s.emerg.round s.emerg.attempt s
  | .tracking => alarmBody .tracking s.emerg.round s.emerg.trackCount s
  | .cancelled r a => alarmBody .quiet r a s

/-- The offer owed for a kind (R142). -/
def AlarmKind.owed : AlarmKind → OwedAlarm
  | .call => .call
  | .tracking => .tracking
  | .cancelled r a => .cancelled r a

/-- The kind an owed offer is for. -/
def OwedAlarm.kind : OwedAlarm → AlarmKind
  | .call => .call
  | .tracking => .tracking
  | .cancelled r a => .cancelled r a

/-- The TRACKING flag of a kind (R149). -/
def AlarmKind.isTracking : AlarmKind → Bool
  | .tracking => true
  | _ => false

/-- The CANCELLED flag of a kind (R149). -/
def AlarmKind.isCancelled : AlarmKind → Bool
  | .cancelled _ _ => true
  | _ => false

/-- The ALARM entry of the queue. -/
def alarmEntry (s : State) : Option Entry := s.uplink.entries.find? (fun e => e.cls == .alarm)

def setOwed (o : Option OwedAlarm) (s : State) : State := s.setEmerg { s.emerg with owed := o }

/-- The emergency controller offers an ALARM (R142, R81): it joins the queue, refreshes the waiting entry, or is owed. -/
def offerAlarm (k : AlarmKind) (s : State) : State :=
  match alarmEntry s with
  | some e =>
    match e.state with
    | .onAir => setOwed (some k.owed) s
    | .queued | .awaitAck =>
      setOwed none (updateEntry e.seq
        (fun x => { x with body := k.body s, tracking := k.isTracking, cancelled := k.isCancelled }) s)
  | none =>
    setOwed none (offerEntry .alarm (k.body s) k.isTracking k.isCancelled .none s).1

/-- At the notice that an ALARM has left, the owed offer is made (R142). -/
def alarmLeft (s : State) : State :=
  match s.emerg.owed with
  | some o => offerAlarm o.kind s
  | none => s

/-- An ALARM in the queue is withdrawn (R145, R147). -/
def withdrawAlarm (s : State) : State :=
  match alarmEntry s with
  | some e => withdrawEntry e.seq s
  | none => s

end Sys2Proof.Machine
end

