-- ==== Sys2Proof/Machine/Owners.lean ====
section
/-! DEFINITION. What the blocks do to one another: duty, awards and deferred outcomes, the close of transmission, flush, faults and power of the radio, raises of the emergency controller, and the frame dispatcher's hand-over. -/

namespace Sys2Proof.Machine

/-! ### Duty (R106, R107) -/

/-- After a change: DUTY_CHANGED when the effective duty changed, then SUPERSEDED closings when it is not FREE (R106, R107). -/
def dutyAfter (before : Duty) (tag : Half) (cause : DutyCause) (s : State) : State :=
  let after := effectiveDuty s
  let t := if after = before then s
    else produce tag (.dutyChanged s.offers.driverDuty after before cause) s
  if after = .free then t else closeOpen .superseded t

/-! ### Offers (R115, R119) -/

/-- An entry enters AWARDED and holds OFFER_AWARDED, which is offered a place; the duty follows (R115, R107). -/
def awardEntry (i : Nat) (o : Offer) (direct : Bool) (tag : Half) (s : State) : State :=
  let before := effectiveDuty s
  let p : Payload := .offerAwarded o.id o.zone o.kind direct o.text o.truncated
  let t := countHeld (setOffer i (some { o with
    state := .awarded, remaining := none, progress := none, bidSeq := none, deferred := none,
    held := some (heldNow tag p s) }) s)
  dutyAfter before 0 .award (placeHeld t)

/-- The deferred outcome is applied at the close of transmission of an abandoned BID (R119). -/
def applyDeferred (i : Nat) (o : Offer) (s : State) : State :=
  match o.deferred with
  | some .award => awardEntry i o false o.tag s
  | some .abandon =>
    let r := offerRelease o.id s
    closeOffer i o .abandoned r.2 r.1
  | some .late =>
    let r := offerRelease o.id s
    closeWith i o none 0 (.lateAward o.id .abandoned r.2) r.1
  | some .taken | none => closeOffer i o .taken .noneOffered s

/-- What a function does to the offer entry a BID names. -/
def withBidOffer (e : Entry) (f : Nat → Offer → State → State) (s : State) : State :=
  match e.ref with
  | .offer i =>
    match s.offers.entries.getD i none with
    | some o => f i o s
    | none => s
  | _ => s

/-- The bid progress of an entry whose mark is clear (R113). -/
def setProgress (p : BidProgress) (i : Nat) (o : Offer) (s : State) : State :=
  if o.deferred.isNone then setOffer i (some { o with progress := some p }) s else s

/-- The BID has left the queue: the bid sequence becomes absent (R113). -/
def bidGone (i : Nat) (o : Offer) (s : State) : State := setOffer i (some { o with bidSeq := none }) s

/-- An answered BID: ACKED, and the award wait starts (R113); ignored while the mark is set, but that the bid sequence goes with the BID. -/
def bidAnswered (leaves : Bool) (i : Nat) (o : Offer) (s : State) : State :=
  if o.deferred.isNone then
    setOffer i (some { o with progress := some .acked,
                              remaining := some s.settings.accepted.awardWait,
                              bidSeq := if leaves then none else o.bidSeq }) s
  else if leaves then bidGone i o s
  else s

/-- The offer closes LINK (R113, R85, R86). -/
def bidLost (i : Nat) (o : Offer) (s : State) : State := closeOffer i o .link .noneOffered s

/-! ### The close of transmission (R72) -/

/-- The entry being sent, if it is ON_AIR. -/
def keyedEntry (s : State) : Option Entry :=
  match s.link.keyed.bind (fun q => entryWith q s) with
  | some e => if e.state = .onAir then some e else none
  | none => none

/-- The keyed entry becomes absent. -/
def clearKeyed (s : State) : State := s.setLink { s.link with keyed := none, tx := [] }

/-- An answered entry is removed at its close: its outcome was given before (R72, R35, R126). -/
def closeAnswered (e : Entry) (s : State) : State :=
  let t := removeEntry e.seq s
  match e.cls with
  | .trip => tripLeaves t
  | .text => clearSlotRef e t
  | .bid => withBidOffer e bidGone t
  | .alarm => alarmLeft t
  | _ => t

/-- An entry sent and not answered (R72). -/
def closeSent (e : Entry) (s : State) : State :=
  match e.cls with
  | .alarm =>
    alarmLeft ((removeEntry e.seq s).setEmerg { s.emerg with lastSent := s.clock })
  | .ack | .status => removeEntry e.seq s
  | .bid =>
    withBidOffer e (setProgress .awaitAck)
      (updateEntry e.seq (fun x => { x with
        state := .awaitAck, ackTimer := some s.settings.accepted.ackTimeout }) s)
  | _ =>
    updateEntry e.seq (fun x => { x with
      state := .awaitAck, ackTimer := some s.settings.accepted.ackTimeout }) s

/-- The close of transmission: the first matching case decides (R72). -/
def closeTransmission (s : State) : State :=
  match keyedEntry s with
  | some e =>
    if e.cls = .bid ∧ e.abandon = true then
      withBidOffer e applyDeferred (removeEntry e.seq (clearKeyed s))
    else if e.answered then closeAnswered e (clearKeyed s)
    else closeSent e (clearKeyed s)
  | none => clearKeyed s

/-! ### Flush (R86) -/

/-- The outcome of a flushed entry; an answered one was told at the ACK (R86). -/
def flushOutcome (e : Entry) (s : State) : State :=
  if e.answered then
    match e.cls with
    | .trip => tripLeaves s
    | .text => clearSlotRef e s
    | .bid => withBidOffer e bidGone s
    | _ => s
  else
    match e.cls with
    | .text => textFailed .linkDown e s
    | .bid => withBidOffer e bidLost s
    | .release | .ack | .status => countDropped s
    | .trip | .alarm => s

/-- The outcomes of a list of entries in queue order. -/
def flushOutcomes : List Entry → State → State
  | [], s => s
  | e :: es, s => flushOutcomes es (flushOutcome e s)

/-- Every entry except an ALARM is removed and its owner told (R86). -/
def flushQueue (s : State) : State :=
  let t := s.setUplink { s.uplink with entries := s.uplink.entries.filter (fun e => e.cls == .alarm) }
  flushOutcomes (s.uplink.entries.filter (fun e => e.cls != .alarm)) t

/-! ### Radio supervisor (R91 to R98, R100) -/

/-- The supervisor's view of a link state: channel access is shown as LISTEN (R100). -/
def supView (l : LinkState) : LinkState := if channelAccess l then .listen else l

/-- LINK_STATE with the cycles used and override mark after the transition (R100). -/
def reportLink (left entered : LinkState) (cause : LinkCause) (tag : Half) (s : State) : State :=
  produce tag (.linkState (supView left) (supView entered) cause s.sup.cycles s.sup.override) s

/-- RDY is high in POWER_ON_WAIT: the link enters LISTEN and the healthy timer starts (R91, R96). LINK_STATE has cause RDY and tag 0 also where RDY was high at the entry into POWER_ON_WAIT by a LINK_RESTART or a commit, whose tag the LINK_STATE of that entry carries: the model's choice (R100 leaves it open; log entry 37). -/
def rdyUp (s : State) : State :=
  enterListen (reportLink .powerOnWait .listen .rdy 0
    (s.setSup { s.sup with ready := none, healthy := some Config.healthySeconds }))

/-- The entry into POWER_ON_WAIT (R91); a RDY already high leaves the state at once, with a LINK_STATE of its own (log entry 37). -/
def enterPowerOn (cause : LinkCause) (tag : Half) (s : State) : State :=
  let t := (s.setSup { s.sup with ready := some Config.readySeconds, powerOff := none }).setLink
    { s.link with state := .powerOnWait }
  let u := reportLink s.link.state .powerOnWait cause tag t
  if u.pins.rdy then rdyUp u else u

/-- The entry into FAILED (R95); LINK_STATE before the flush's reports is the model's order (log entry 22), and that it carries the override mark as R95 leaves it, cleared, is the model's choice (R100 does not say whether the mark is that before or after the transition; log entry 36). -/
def enterFailed (left : LinkState) (cause : LinkCause) (s : State) : State :=
  let t := (s.setSup { s.sup with ready := none, powerOff := none, stuckBusy := none,
                                  healthy := none, override := false }).setLink
    { s.link with state := .failed }
  flushQueue (reportLink left .failed cause 0 (raiseFactor .linkFailed t))

/-- The link gives up its work by the state left: a transmission is closed as if sent (R75). -/
def giveUpWork (s : State) : State :=
  match s.link.state with
  | .sending | .tail => linkGiveUp (closeTransmission s)
  | _ => linkGiveUp s

/-- A fault gives a power cycle or FAILED (R94); R34 is tested for an entry the close removed. LINK_STATE takes its place before the OFFER_CLOSED or LATE_AWARD that the close of transmission holds for an abandoned BID, which is the model's order (log entry 22). -/
def takeFault (cause : LinkCause) (s : State) : State :=
  let left := s.link.state
  let t := giveUpWork s
  if t.sup.cycles < Config.cyclesMax ∧ t.sup.override = false then
    tripTest (reportLink left .powerOff cause 0
      ((t.setSup { t.sup with cycles := t.sup.cycles + 1, stuckBusy := none, ready := none,
                              healthy := none,
                              powerOff := some t.settings.accepted.powerOffTime }).setLink
        { t.link with state := .powerOff }))
  else enterFailed left cause t

/-- The emergency override of a failed radio (R98). -/
def overrideRadio (s : State) : State :=
  if s.link.state = .failed then
    enterPowerOn .override 0 (s.setSup { s.sup with cycles := 2, override := true })
  else s

/-! ### Emergency controller (R139 to R144, R151) -/

/-- A timer of the settings' length; a length of 0 leaves it stopped (R140). -/
def timerOf (n : Nat) : Option Nat := if n = 0 then none else some n

/-- The contents of a capture, read at one instant (R151). -/
def captureNow (source : RaiseSource) (s : State) : BlackBox :=
  { time := s.clock, source := source, meterState := s.meter.state,
    tripNumber := (s.trip.openTrip.map (·.number)).getD 0, fare := s.meter.fare,
    extras := s.meter.extras, hiredPulses := s.meter.hiredPulses,
    slot := s.meter.active.map (·.slot), position := s.position.record, fixAge := fixAgeOf s,
    jobId := jobId s, link := s.link.state, totalBad := s.rx.totalBad,
    queueLength := s.uplink.entries.length, recent := s.rx.recent }

/-- The black box is captured if its copy is EMPTY, and its write requested (R140 step 1, R152). -/
def captureBox (source : RaiseSource) (s : State) : State :=
  match s.emerg.box with
  | some _ => s
  | none => requestBoxWrite (s.setEmerg { s.emerg with box := some (captureNow source s) })

/-- The trip recorder marks an open trip EMERGENCY (R30). -/
def markTripEmergency (s : State) : State :=
  s.setTrip { s.trip with
    openTrip := s.trip.openTrip.map (fun t => { t with emergency := true }) }

/-- The cause a raise's source gives to EMERGENCY_STATE (R149). -/
def raiseCause : RaiseSource → EmCause
  | .switch => .switchRaise
  | .request => .requestRaise

/-- Whether an offer entry is OPEN. -/
def anyOpen (s : State) : Bool :=
  s.offers.entries.any (fun e => match e with | some o => o.state == .open | none => false)

/-- The reports of a raise taken in s, which led to t, take the free places (R172), unless the raise closed OPEN entries: an ACCEPT that falls together with it must find them CLOSING(SUPPRESSED) (R124), so their reports, and the EMERGENCY_STATE after them, are left to HELD_REPORT_PLACED or the next command that places reports (log entry 2). -/
def placeRaised (s t : State) : State := if anyOpen s then t else placeHeld t

/-- Steps 3 to 5 of a taken raise (R140); while RESET is asserted only the trip recorder is told and nothing is offered (R154); a raise that leaves FAILED tests R34, and the reports are offered their places at the end. -/
def raiseTaken (source : RaiseSource) (tag : Half) (s : State) : State :=
  let t := markTripEmergency (raiseFactor .emergency s)
  if s.phase = .running then
    let u := offerAlarm .call (overrideRadio (closeOpen .suppressed t))
    placeRaised s (tripTest (setEmReport (raiseCause source) tag
      (u.setEmerg { u.emerg with repeatTimer := some u.settings.accepted.repeatInterval })))
  else setEmReport (raiseCause source) tag t

/-- A raise: taken in QUIET and EXHAUSTED, counted as ignored elsewhere (R140, R141). -/
def raise (source : RaiseSource) (tag : Half) (s : State) : State :=
  match s.emerg.state with
  | .quiet =>
    let t := captureBox source s
    raiseTaken source tag (t.setEmerg { t.emerg with
      state := .calling, round := 1, attempt := 1, trackCount := 0, keyedCount := 0, lastSent := 0,
      graceTimer := timerOf s.settings.accepted.grace, owed := none })
  | .exhausted =>
    raiseTaken source tag (s.setEmerg { s.emerg with
      state := .calling, round := satAdd Config.max8 s.emerg.round 1, attempt := 1, owed := none,
      graceTimer := timerOf s.settings.accepted.grace })
  | _ => s.setEmerg { s.emerg with ignored := satAdd Config.max16 s.emerg.ignored 1 }

/-- The next round begins (R144). -/
def nextRound (s : State) : State :=
  let t := offerAlarm .call (s.setEmerg { s.emerg with
    state := .calling, round := satAdd Config.max8 s.emerg.round 1, attempt := 1,
    cooldownTimer := none })
  setEmReport .cooldownEnd 0
    (t.setEmerg { t.emerg with repeatTimer := some t.settings.accepted.repeatInterval })

/-- A round has ended without an ALARM_ACK (R143, attempt 8). -/
def roundEnd (s : State) : State :=
  let st := s.settings.accepted
  if st.roundsLimit ≠ 0 ∧ st.roundsLimit ≤ s.emerg.round then
    setEmReport .roundEnd 0 (s.setEmerg { s.emerg with state := .exhausted, repeatTimer := none })
  else if 0 < st.cooldown then
    setEmReport .roundEnd 0 (s.setEmerg { s.emerg with
      state := .cooldown, repeatTimer := none, cooldownTimer := some st.cooldown })
  else nextRound s

/-! ### Frame dispatcher (R60 to R62) -/

/-- The result the dedupe list holds for a sequence number (R62). -/
def dedupeFind (q : Byte) (s : State) : Option AckResult :=
  (s.rx.dedupe.find? (fun p => p.1 == q)).map (·.2)

/-- A taken frame with an ACK duty joins the dedupe list, the oldest leaving a full one (R62). -/
def dedupeAdd (q : Byte) (r : AckResult) (s : State) : State :=
  s.setRx { s.rx with
    dedupe := (if s.rx.dedupe.length < Config.dedupeSize then s.rx.dedupe else s.rx.dedupe.drop 1) ++
      [(q, r)] }

/-- A frame discarded by the class check (R56, R58). -/
def countUnknown (s : State) : State :=
  s.setRx { s.rx with unknown := satAdd Config.max16 s.rx.unknown 1 }

/-- The completion order of a buffer that holds the frame, if it does (R52). -/
def Buffer.orderOf (cls : Byte) (f : DownFrame) : Buffer → Option Nat
  | .ready c g n => if c = cls ∧ g = f then some n else none
  | _ => none

/-- The buffer that holds the frame handed over becomes FREE (R60, step 4); of two that hold the same frame, the one that completed first. -/
def freeBuffer (cls : Byte) (f : DownFrame) (s : State) : State :=
  match s.rx.bufA.orderOf cls f, s.rx.bufB.orderOf cls f with
  | some n, some m =>
    if n ≤ m then s.setRx { s.rx with bufA := .free } else s.setRx { s.rx with bufB := .free }
  | some _, none => s.setRx { s.rx with bufA := .free }
  | none, some _ => s.setRx { s.rx with bufB := .free }
  | none, none => s

/-- Handing a frame to its owner, with the dedupe check before and the ACK after (R60, R61, R62); a scope the class does not allow is the class check's (R56; log entry 14). -/
def handOver (c : DownClass) (owner : State → State) (result : AckResult) (f : DownFrame)
    (s : State) : State :=
  if scopeAllowed c (scopeOf f.flags) then
    if ackDuty c (scopeOf f.flags) then
      match dedupeFind f.seq s with
      | some r => freeBuffer c.code f (offerAck c.code f.seq r s)
      | none =>
        freeBuffer c.code f (dedupeAdd f.seq result (offerAck c.code f.seq result (owner s)))
    else freeBuffer c.code f (owner s)
  else freeBuffer c.code f (countUnknown s)

end Sys2Proof.Machine
end

