-- ==== Sys2Proof/Machine/Emergency.lean ====
section
/-! DEFINITION. The emergency controller's commands: the switch, its timers, the requests and dispatch's answers (spec/08). -/

namespace Sys2Proof.Machine

/-- What needs the end of a full reset (R139: the switch is watched while RESET is asserted too). -/
def unlessFullReset (f : State → State) (s : State) : State := if s.phase = .fullReset then s else f s

/-- The ESW level. -/
def setEsw (b : Bool) (s : State) : State := s.setPins { s.pins with esw := b }

/-- A fall of ESW starts the hold timer of an armed switch (R139). -/
def eswFall (s : State) : State :=
  if s.emerg.armed then
    s.setEmerg { s.emerg with holdTimer := some s.settings.accepted.holdTime }
  else s

/-- ESW_FALL (R139). -/
def execEswFall (s : State) : Out :=
  .next (if s.pins.esw then unlessFullReset eswFall (setEsw false s) else s)

/-- A rise of ESW stops the hold timer and arms the switch (R139). -/
def eswRise (s : State) : State := s.setEmerg { s.emerg with holdTimer := none, armed := true }

/-- ESW_RISE (R139). -/
def execEswRise (s : State) : Out :=
  .next (if s.pins.esw then s else unlessFullReset eswRise (setEsw true s))

/-- The hold timer ends with ESW low: a raise of source SWITCH, and the switch is disarmed (R139, R140). -/
def holdEnd (s : State) : State :=
  raise .switch 0 (s.setEmerg { s.emerg with holdTimer := none, armed := false })

/-- HOLD_TIMER_END (R139, R140, R141, R154). -/
def execHoldTimerEnd (s : State) : Out :=
  .next (if s.emerg.holdTimer.isSome = true ∧ s.pins.esw = false then unlessFullReset holdEnd s else s)

/-- ALARM_RAISE: a raise of source REQUEST (R139, R140). -/
def reqRaise (tag : Half) (s : State) : State := raise .request tag s

/-- ALARM_RAISE (R139). -/
def execAlarmRaise (tag : Half) (s : State) : Out := .next (whenRunning (reqRaise tag) s)

/-- The next attempt of a round (R143, attempt 1 to 7). -/
def nextAttempt (s : State) : State :=
  let t := offerAlarm .call (s.setEmerg { s.emerg with attempt := s.emerg.attempt + 1 })
  t.setEmerg { t.emerg with repeatTimer := some t.settings.accepted.repeatInterval }

/-- The repeat timer ends in CALLING (R143). -/
def repeatEnd (s : State) : State :=
  if s.emerg.attempt < Config.roundAttempts then nextAttempt s else roundEnd s

/-- The repeat timer of a call in CALLING (R143). -/
def repeatLeft (s : State) : Option Nat :=
  if s.emerg.state = .calling then s.emerg.repeatTimer else none

/-- The cooldown timer of a call in COOLDOWN (R144). -/
def cooldownLeft (s : State) : Option Nat :=
  if s.emerg.state = .cooldown then s.emerg.cooldownTimer else none

/-- The tracking timer of a call in TRACKING (R146). -/
def trackLeft (s : State) : Option Nat :=
  if s.emerg.state = .tracking then s.emerg.trackTimer else none

/-- REPEAT_TIMER_END (R143); after an ALARM_ACK at the same tick, the tracking timer does not count the tick (R138, R157). -/
def execRepeatTimerEnd (s : State) : Out :=
  .next (whenRunning (atTickOr repeatLeft (fun t => placeHeld (repeatEnd t))
    justAnswered spareCall) s)

/-- COOLDOWN_END: the next round begins (R144); after an ALARM_ACK at the same tick, the tracking timer does not count the tick (R138, R157). -/
def execCooldownEnd (s : State) : Out :=
  .next (whenRunning (atTickOr cooldownLeft (fun t => placeHeld (nextRound t))
    justAnswered spareCall) s)

/-- A TRACKING ALARM is offered and the tracking timer restarts (R146, R155). -/
def trackNow (s : State) : State :=
  let t := offerAlarm .tracking (s.setEmerg { s.emerg with
    trackCount := satAdd Config.max16 s.emerg.trackCount 1 })
  t.setEmerg { t.emerg with trackTimer := some t.settings.accepted.trackInterval }

/-- TRACKING_TIMER_END (R146). -/
def execTrackingTimerEnd (s : State) : Out :=
  .next (whenRunning (atTick trackLeft (fun t => placeHeld (trackNow t))) s)

/-- The grace timer stops (R148). -/
def graceEnd (s : State) : State := s.setEmerg { s.emerg with graceTimer := none }

/-- GRACE_TIMER_END (R148): it runs on while RESET is asserted (R154); after a raise in EXHAUSTED at the same tick, what that started does not count the tick (R138, R141). -/
def execGraceTimerEnd (s : State) : Out :=
  .next (atTickOr (·.emerg.graceTimer) graceEnd justRaised spareRaise s)

/-- A taken ALARM_CANCEL: a CANCELLED ALARM carries the round and attempt, which then become 0 (R148). -/
def cancelCall (tag : Half) (s : State) : State :=
  let t := offerAlarm (.cancelled s.emerg.round s.emerg.attempt) (s.setEmerg { s.emerg with
    state := .quiet, repeatTimer := none, cooldownTimer := none, graceTimer := none })
  setEmReport .cancel tag (t.setEmerg { t.emerg with round := 0, attempt := 0 })

/-- ALARM_CANCEL (R148). -/
def reqCancel (tag : Half) (s : State) : State :=
  match s.emerg.state with
  | .quiet => refuse 0x0D .wrongState tag s
  | .calling | .cooldown =>
    if s.emerg.graceTimer.isSome then placeHeld (cancelCall tag s) else refuse 0x0D .graceOver tag s
  | .tracking | .exhausted => refuse 0x0D .graceOver tag s

/-- ALARM_CANCEL (R148). -/
def execAlarmCancel (tag : Half) (s : State) : Out := .next (whenRunning (reqCancel tag) s)

/-- A taken BLACKBOX_CLEAR (R153). -/
def clearBox (tag : Half) (s : State) : State :=
  setEmReport .blackboxClear tag (requestBoxWrite (s.setEmerg { s.emerg with box := none }))

/-- BLACKBOX_CLEAR (R153). -/
def reqBoxClear (tag : Half) (s : State) : State :=
  if s.emerg.state = .quiet then placeHeld (clearBox tag s) else refuse 0x0E .wrongState tag s

/-- BLACKBOX_CLEAR (R153). -/
def execBlackboxClear (tag : Half) (s : State) : Out := .next (whenRunning (reqBoxClear tag) s)

/-- Dispatch has the call: TRACKING (R145). -/
def startTracking (s : State) : State :=
  let t := withdrawAlarm s
  setEmReport .alarmAck 0 (t.setEmerg { t.emerg with
    state := .tracking, trackCount := 0, owed := none, repeatTimer := none, cooldownTimer := none,
    trackTimer := some t.settings.accepted.trackInterval })

/-- The emergency controller takes an ALARM_ACK; a body of another length is ignored (R145). -/
def ownAlarmAck (f : DownFrame) (s : State) : State :=
  if f.body = [] then
    match s.emerg.state with
    | .calling | .cooldown | .exhausted => startTracking s
    | .quiet | .tracking => s
  else s

/-- The hand-over of an ALARM_ACK (R145, R60, R34). -/
def takeAlarmAck (f : DownFrame) (s : State) : State :=
  placeHeld (tripTest (handOver .alarmAck (ownAlarmAck f) .taken f s))

/-- ALARM_ACK (R145). -/
def execAlarmAck (f : DownFrame) (s : State) : Out := .next (whenRunning (takeAlarmAck f) s)

/-- The emergency ends on dispatch's word (R147). -/
def endCall (s : State) : State :=
  let t := withdrawAlarm s
  setEmReport .alarmEnd 0 (t.setEmerg { t.emerg with
    state := .quiet, round := 0, attempt := 0, owed := none, repeatTimer := none,
    cooldownTimer := none, trackTimer := none, graceTimer := none })

/-- The emergency controller takes an ALARM_END; a body of another length is ignored (R147). -/
def ownAlarmEnd (f : DownFrame) (s : State) : State :=
  if f.body = [] ∧ s.emerg.state ≠ .quiet then endCall s else s

/-- The hand-over of an ALARM_END (R147, R60, R34). -/
def takeAlarmEnd (f : DownFrame) (s : State) : State :=
  placeHeld (tripTest (handOver .alarmEnd (ownAlarmEnd f) .taken f s))

/-- ALARM_END (R147). -/
def execAlarmEnd (f : DownFrame) (s : State) : Out := .next (whenRunning (takeAlarmEnd f) s)

end Sys2Proof.Machine
end

