-- ==== Sys2Proof/Machine/Messages.lean ====
section
/-! DEFINITION. The message pool: SEND_TEXT, inbound TEXT, and the end of an ALERT pulse (spec/07). -/

namespace Sys2Proof.Machine

/-- A TEXT entry is offered for slot i; an admitted one makes the slot's reference (R127, case 3). -/
def offerText (i : Nat) (tag : Half) (canned : Byte) (text : List Byte) (s : State) : State :=
  let r := offerEntry .text (textFrameBody canned text) false false (.slot i) s
  match r.2 with
  | .admitted q => setSlot i (some { tag := tag, ref := some q, held := none, attempts := none }) r.1
  | .linkDown => refuse 0x04 .linkDown tag r.1
  | .full => refuse 0x04 .queueFull tag r.1

/-- SEND_TEXT, after the reader's length and range checks (R171, Table 39): the first matching case decides (R127). -/
def reqSendText (tag : Half) (canned : Byte) (text : List Byte) (s : State) : State :=
  if 120 < text.length then refuse 0x04 .malformed tag s
  else if 63 < canned.toNat then refuse 0x04 .outOfRange tag s
  else if canned = 0 ∧ text = [] then refuse 0x04 .malformed tag s
  else
    match firstFree 0 s.pool.slots with
    | none => refuse 0x04 .poolFull tag s
    | some i => offerText i tag canned (text.map char7) s

/-- SEND_TEXT (R127). -/
def execSendText (tag : Half) (canned : Byte) (text : List Byte) (s : State) : Out :=
  .next (whenRunning (reqSendText tag canned text) s)

/-- TEXT_IN (R132): the first 120 characters are kept. -/
def textInPayload (f : DownFrame) (canned : Byte) (text : List Byte) : Payload :=
  .textIn (scopeOf f.flags) (urgentOf f.flags) (decide (120 < text.length)) f.seq f.addr canned
    text.length f.doneAt (text.take 120)

/-- The pulse of an URGENT text, outside an emergency (R132, R135). -/
def textPulse (f : DownFrame) (s : State) : State :=
  if urgentOf f.flags = true ∧ s.emerg.state = .quiet then pulse Config.textPulse s else s

/-- The message pool takes a TEXT (R131, R132). -/
def ownText (f : DownFrame) (s : State) : State :=
  match textBody f.body with
  | some (canned, text) => textPulse f (produce 0 (textInPayload f canned text) s)
  | none => s.setPool { s.pool with malformed := satAdd Config.max16 s.pool.malformed 1 }

/-- The result given to a TEXT (R131). -/
def textResult (f : DownFrame) : AckResult := if (textBody f.body).isSome then .taken else .refused

/-- The hand-over of a TEXT (R131, R60). -/
def takeText (f : DownFrame) (s : State) : State := handOver .text (ownText f) (textResult f) f s

/-- TEXT (R131). -/
def execText (f : DownFrame) (s : State) : Out := .next (whenRunning (takeText f) s)

/-- ALERT_PULSE_END: the end at which the pulse now stands is reached, ALERT goes low and the timer stops; an end that the second at hand does not reach, as one that a request has lengthened, is not (R134; log entry 28). -/
def execAlertPulseEnd (s : State) : Out :=
  .next (match s.attn.alertEnd with
    | some e => if e < Config.basePeriods * (s.secs + 1) then s.setAttn { s.attn with alertEnd := none } else s
    | none => s)

end Sys2Proof.Machine
end

