-- ==== Sys2Proof/Machine/Meter.lean ====
section
/-! DEFINITION. The fare meter: pulses, steps, the tick's meter part, the meter requests and the TARIFF frame (spec/01). -/

namespace Sys2Proof.Machine

/-! ### Steps and charging (R15, R17, R18) -/

/-- The fare after a step, limited at the cap, with FARE_CAP (R17). -/
def stepFare (m : Meter) (amount : Nat) : Meter :=
  if m.fare + amount > Config.fareCap then { m with fare := Config.fareCap, fareCap := true }
  else { m with fare := m.fare + amount }

/-- One more step in the last segment, saturating (R29). -/
def countStep : List Segment → List Segment
  | [] => []
  | [g] => [{ g with steps := satAdd Config.max32 g.steps 1 }]
  | g :: gs => g :: countStep gs

/-- The open trip's record takes a new value. -/
def updateTrip (f : TripRecord → TripRecord) (s : State) : State :=
  s.setTrip { s.trip with openTrip := s.trip.openTrip.map f }

/-- A new tariff segment, or SEGMENTS_TRUNCATED with 6 in the list (R29). -/
def addSegment (slot version : Nat) (t : TripRecord) : TripRecord :=
  if t.segments.length < Config.segmentMax then
    { t with segments := t.segments ++ [{ slot := slot, version := version, steps := 0 }] }
  else { t with truncated := true }

/-- The content of a tariff slot. -/
def slotTariff (m : Meter) (i : Nat) : Option Tariff := m.slots.getD i none

/-- A pending change present at a step boundary is applied (R18, R19). -/
def applyChange (s : State) : State :=
  match s.meter.change, s.meter.active with
  | some c, some a =>
    match slotTariff s.meter c.slot with
    | some t =>
      let u := s.setMeter { s.meter with active := some { slot := c.slot, tariff := t }, change := none }
      produce 0 (.tariffApplied c.kind c.slot t.version a.slot a.tariff.version s.meter.fare)
        (updateTrip (addSegment c.slot t.version) u)
    | none => s
  | _, _ => s

/-- A step is taken under the active copy, counted, and its boundary passed (R17, R18). -/
def takeStep (a : ActiveCopy) (s : State) : State :=
  applyChange (updateTrip (fun t => { t with segments := countStep t.segments })
    (s.setMeter (stepFare s.meter a.tariff.stepAmount)))

/-- n less k, for k at most n; taken through the integers, so that no comparison of terms counts down from k. -/
def less (n k : Nat) : Nat := ((n : Int) - (k : Int)).toNat

/-- An increment is added to the accumulator, and a step taken when it reaches the threshold (R15, R16). -/
def addIncrement (a : ActiveCopy) (inc : Nat) (s : State) : State :=
  if Config.threshold ≤ s.meter.acc + inc then
    takeStep a (s.setMeter { s.meter with acc := less (s.meter.acc + inc) Config.threshold })
  else s.setMeter { s.meter with acc := s.meter.acc + inc }

/-! ### Pulses (R21 to R25) -/

/-- Whether a pulse is accepted (R21). -/
def pulseAccepted (s : State) : Bool :=
  s.settings.accepted.maxPulses == 0 || decide (s.meter.secondCount < s.settings.accepted.maxPulses)

/-- A rejected pulse (R22). -/
def rejectPulse (s : State) : State :=
  let t := (s.setMeter { s.meter with rejectMark := true, pulseFault := true }).setTrip
    { s.trip with
      openTrip := s.trip.openTrip.map (fun r => { r with pulseFault := true }),
      shift := { s.trip.shift with
        rejectedPulses := satAdd Config.max32 s.trip.shift.rejectedPulses 1 } }
  raiseFactor .pulseFault t

/-- An accepted pulse counts: second count, peak during a hiring, shift total (R21, R24, R25). -/
def countPulse (s : State) : State :=
  let n := satAdd Config.max16 s.meter.secondCount 1
  (s.setMeter { s.meter with
    secondCount := n,
    peak := if s.meter.state = .vacant then s.meter.peak else max s.meter.peak n }).setTrip
    { s.trip with shift := { s.trip.shift with
        totalPulses := satAdd Config.max32 s.trip.shift.totalPulses 1 } }

/-- An accepted pulse in HIRED is charged (R15). -/
def chargePulse (s : State) : State :=
  match s.meter.state, s.meter.active with
  | .hired, some a =>
    addIncrement a a.tariff.distanceInc
      (s.setMeter { s.meter with hiredPulses := satAdd Config.max32 s.meter.hiredPulses 1 })
  | _, _ => s

/-- A rising edge on ODO (R21). -/
def odoPulse (s : State) : State :=
  if pulseAccepted s then chargePulse (countPulse s) else rejectPulse s

/-- ODO_PULSE (R2, R21): taken with RESET asserted too; nothing runs during a full reset. -/
def execOdoPulse (s : State) : Out := .next (if s.phase = .fullReset then s else odoPulse s)

/-! ### The meter's part of the second tick (R16, R23) -/

/-- Step 1 of R16: the time charge of a slow second. -/
def chargeTime (s : State) : State :=
  match s.meter.state, s.meter.active with
  | .hired, some a =>
    if s.meter.secondCount < a.tariff.slowThreshold then addIncrement a a.tariff.timeInc s else s
  | _, _ => s

/-- Step 2 of R16: elapsed and hold seconds. -/
def countSeconds (m : Meter) : Meter :=
  match m.state with
  | .vacant => m
  | .hired => { m with elapsed := satAdd Config.max32 m.elapsed 1 }
  | .hold => { m with elapsed := satAdd Config.max32 m.elapsed 1,
                      holdSecs := satAdd Config.max32 m.holdSecs 1 }

/-- Steps 3 and 4 of R16: PULSE_FAULT is settled and a new second opens (R23). -/
def newSecond (m : Meter) : Meter :=
  { m with pulseFault := m.pulseFault && m.rejectMark, secondCount := 0, rejectMark := false }

/-- The second tick at the fare meter (R16). -/
def meterTick (s : State) : State :=
  let t := chargeTime s
  t.setMeter (newSecond (countSeconds t.meter))

/-! ### Meter requests (R7 to R14) -/

/-- METER_STATE after a taken request (R14). -/
def reportMeter (code : Byte) (before : MeterState) (tag : Half) (extraCode requested added : Nat)
    (s : State) : State :=
  produce tag (.meterState code before s.meter.state (s.meter.active.map (·.slot)) s.meter.change
    s.meter.fare s.meter.extras extraCode requested added) s

/-- A hiring abandons a BID_SENT entry by its bid progress (R120); a BID still ON_AIR defers the outcome (R119). -/
def hireBid (i : Nat) (o : Offer) (s : State) : State :=
  let bidState := (o.bidSeq.bind (fun q => entryWith q s)).map (·.state)
  if o.deferred.isSome ∨ bidState = some .onAir then
    let d := match o.deferred with
      | none => Deferred.abandon
      | some .award => .late
      | some d => d
    let t := match o.bidSeq with
      | some q => updateEntry q (fun x => { x with abandon := true }) s
      | none => s
    setOffer i (some { o with deferred := some d, remaining := none }) t
  else
    let t := match o.bidSeq with
      | some q => withdrawEntry q s
      | none => s
    match o.progress with
    | some .queued => closeOffer i o .abandoned .noneOffered t
    | _ =>
      let r := offerRelease o.id t
      closeOffer i o .abandoned r.2 r.1

/-- The offer table settles the held job for a hiring; an AWARDED entry gives its offer id (R120). -/
def settleJob (s : State) : State × Option Word :=
  match findJob s with
  | some (i, o) =>
    if o.state = .awarded then (closeOffer i o .done .noneOffered s, some o.id)
    else (hireBid i o s, none)
  | none => (s, none)

/-- A trip opens (R28). -/
def openTrip (offerId : Option Word) (a : ActiveCopy) (s : State) : State :=
  s.setTrip { s.trip with
    next := if s.trip.next = Config.max32 then 1 else s.trip.next + 1,
    openTrip := some
      { number := s.trip.next, offerId := offerId, start := s.clock, finish := 0, hiredPulses := 0,
        holdSecs := 0, fare := 0, extras := 0, total := 0, peak := 0,
        emergency := s.emerg.state ≠ .quiet, pulseFault := false, fareCap := false,
        unreported := false, truncated := false,
        segments := [{ slot := a.slot, version := a.tariff.version, steps := 0 }] } }

/-- The meter as a hiring starts (R7). -/
def startHiring (a : ActiveCopy) (m : Meter) : Meter :=
  { m with state := .hired, active := some a, change := none, acc := 0, fare := a.tariff.flagDrop,
           fareCap := false, extras := 0, hiredPulses := 0, elapsed := 0, holdSecs := 0, peak := 0 }

/-- A taken METER_HIRE (R7, R8, R120); R34 is tested for a BID it removed. -/
def hire (a : ActiveCopy) (tag : Half) (s : State) : State :=
  let before := effectiveDuty s
  let r := settleJob s
  let u := openTrip r.2 a (r.1.setMeter (startHiring a r.1.meter))
  tripTest (dutyAfter before tag .meter (reportMeter 0x05 .vacant tag 0 0 0 u))

/-- METER_HIRE as the meter checks it (R7), after the reader's range check (Table 39). -/
def reqHire (tag : Half) (slot : Byte) (s : State) : State :=
  if 3 < slot.toNat then refuse 0x05 .outOfRange tag s
  else if s.meter.state ≠ .vacant then refuse 0x05 .wrongState tag s
  else
    match slotTariff s.meter slot.toNat with
    | none => refuse 0x05 .noTariff tag s
    | some t => placeHeld (hire { slot := slot.toNat, tariff := t } tag s)

/-- METER_HIRE (R7, R8). -/
def execMeterHire (tag : Half) (slot : Byte) (s : State) : Out :=
  .next (whenRunning (reqHire tag slot) s)

/-- METER_STOP (R9). -/
def reqStop (tag : Half) (s : State) : State :=
  if s.meter.state = .hired then
    reportMeter 0x06 .hired tag 0 0 0 (s.setMeter { s.meter with state := .hold })
  else refuse 0x06 .wrongState tag s

/-- METER_STOP (R9). -/
def execMeterStop (tag : Half) (s : State) : Out := .next (whenRunning (reqStop tag) s)

/-- METER_RESUME (R10). -/
def reqResume (tag : Half) (s : State) : State :=
  if s.meter.state = .hold then
    reportMeter 0x07 .hold tag 0 0 0 (s.setMeter { s.meter with state := .hired })
  else refuse 0x07 .wrongState tag s

/-- METER_RESUME (R10). -/
def execMeterResume (tag : Half) (s : State) : Out := .next (whenRunning (reqResume tag) s)

/-- METER_EXTRA (R11), after the reader's range check (Table 39). -/
def reqExtra (tag : Half) (amount : Half) (code : Byte) (s : State) : State :=
  if amount = 0 ∨ 15 < code.toNat then refuse 0x08 .outOfRange tag s
  else if s.meter.state = .vacant then refuse 0x08 .wrongState tag s
  else
    let added := min amount.toNat (Config.extrasCap - s.meter.extras)
    reportMeter 0x08 s.meter.state tag code.toNat amount.toNat added
      (s.setMeter { s.meter with extras := s.meter.extras + added })

/-- METER_EXTRA (R11). -/
def execMeterExtra (tag : Half) (amount : Half) (code : Byte) (s : State) : Out :=
  .next (whenRunning (reqExtra tag amount code) s)

/-- The record of a closing trip (R31, step 1). -/
def closedRecord (s : State) (t : TripRecord) : TripRecord :=
  { t with finish := s.clock, fare := s.meter.fare, extras := s.meter.extras,
           total := s.meter.fare + s.meter.extras, hiredPulses := s.meter.hiredPulses,
           holdSecs := s.meter.holdSecs, peak := s.meter.peak, fareCap := s.meter.fareCap }

/-- The record with UNREPORTED set when the backlog is full (R31, step 2). -/
def markUnreported (s : State) (t : TripRecord) : TripRecord :=
  { t with unreported := decide (Config.backlogSize ≤ s.trip.backlog.length) }

/-- The shift totals after a trip close (R31, step 3; R39). -/
def Shift.addTrip (t : TripRecord) (x : Shift) : Shift :=
  { x with trips := satAdd Config.max32 x.trips 1, fareTotal := x.fareTotal + t.fare,
           extrasTotal := x.extrasTotal + t.extras,
           hiredPulses := satAdd Config.max32 x.hiredPulses t.hiredPulses,
           unreported := if t.unreported then satAdd Config.max32 x.unreported 1 else x.unreported }

/-- The backlog after a trip close (R31, step 2). -/
def backlogWith (t : TripRecord) (b : List TripRecord) : List TripRecord :=
  if t.unreported then b else b ++ [t]

/-- TRIP_CLOSED (R31, step 5). -/
def tripClosedPayload (t : TripRecord) (backlog : Nat) : Payload :=
  .tripClosed t.number t.fare t.extras t.total (BitVec.ofNat 8 t.flagBits) t.segments.length backlog

/-- The open trip closes (R31). -/
def closeTrip (tag : Half) (s : State) : State :=
  match s.trip.openTrip with
  | some t0 =>
    let t := markUnreported s (closedRecord s t0)
    let u := s.setTrip { s.trip with
      backlog := backlogWith t s.trip.backlog, shift := s.trip.shift.addTrip t, logWrite := some t,
      openTrip := none }
    addTripReport tag (tripClosedPayload t u.trip.backlog.length) (requestTripLog u)
  | none => s

/-- The meter VACANT with its live trip values 0 (R12, steps 2 to 4). -/
def vacate (m : Meter) : Meter :=
  { m with state := .vacant, active := none, change := none, fare := 0, fareCap := false,
           extras := 0, acc := 0, hiredPulses := 0, elapsed := 0, holdSecs := 0, peak := 0 }

/-- A taken METER_CLEAR (R12); R34 is tested for the trip that joined the backlog. -/
def clearHiring (tag : Half) (s : State) : State :=
  let before := effectiveDuty s
  let t := closeTrip tag s
  let u := reportMeter 0x09 .hold tag 0 0 0 (t.setMeter (vacate t.meter))
  tripTest (dutyAfter before tag .meter u)

/-- METER_CLEAR (R12). -/
def reqClear (tag : Half) (s : State) : State :=
  if s.meter.state = .hold then placeHeld (clearHiring tag s) else refuse 0x09 .wrongState tag s

/-- METER_CLEAR (R12). -/
def execMeterClear (tag : Half) (s : State) : Out := .next (whenRunning (reqClear tag) s)

/-- TARIFF_SELECT (R13), after the reader's range check (Table 39). -/
def reqSelect (tag : Half) (slot : Byte) (s : State) : State :=
  if 3 < slot.toNat then refuse 0x0A .outOfRange tag s
  else if s.meter.state = .vacant then refuse 0x0A .wrongState tag s
  else
    match slotTariff s.meter slot.toNat with
    | none => refuse 0x0A .noTariff tag s
    | some _ =>
      reportMeter 0x0A s.meter.state tag 0 0 0
        (s.setMeter { s.meter with change := some { kind := .select, slot := slot.toNat } })

/-- TARIFF_SELECT (R13). -/
def execTariffSelect (tag : Half) (slot : Byte) (s : State) : Out :=
  .next (whenRunning (reqSelect tag slot) s)

/-! ### The TARIFF frame (R4 to R6) -/

/-- Whether loading a slot sets a pending RELOAD (R5). -/
def setsReload (slot : Nat) (m : Meter) : Bool :=
  m.state != .vacant && (m.active.map (·.slot)) == some slot

/-- A valid TARIFF into a slot (R4, R5). -/
def loadSlot (slot : Nat) (t : Tariff) (m : Meter) : Meter :=
  { m with slots := m.slots.set slot (some t),
           change := if setsReload slot m then some { kind := .reload, slot := slot } else m.change }

/-- The fare meter takes a TARIFF frame (R4, R5, R6). -/
def ownTariff (f : DownFrame) (s : State) : State :=
  match tariffBody f.body with
  | some (slot, t) =>
    produce 0 (.tariffLoaded slot t.version (scopeOf f.flags) (setsReload slot s.meter))
      (s.setMeter (loadSlot slot t s.meter))
  | none => s

/-- The result given to a TARIFF (R4). -/
def tariffResult (f : DownFrame) : AckResult :=
  if (tariffBody f.body).isSome then .taken else .refused

/-- The hand-over of a TARIFF (R4, R60). -/
def takeTariff (f : DownFrame) (s : State) : State :=
  handOver .tariff (ownTariff f) (tariffResult f) f s

/-- TARIFF (R4). -/
def execTariff (f : DownFrame) (s : State) : Out := .next (whenRunning (takeTariff f) s)

end Sys2Proof.Machine
end

