-- ==== Sys2Proof/Machine/Offers.lean ====
section
/-! DEFINITION. The offer table: duty, admission, the driver's answers, dispatch's answers, the ends of its two waits (spec/06). -/

namespace Sys2Proof.Machine

/-! ### DUTY_SET (R106) -/

/-- The duty a value names (Table 44). -/
def Duty.ofCode (v : Byte) : Option Duty :=
  match v.toNat with
  | 0 => some .free
  | 1 => some .busy
  | 2 => some .offDuty
  | _ => none

/-- A taken DUTY_SET: DUTY_CHANGED whether or not a value changed, then SUPERSEDED closings (R106, R107). -/
def setDuty (d : Duty) (tag : Half) (s : State) : State :=
  let t := s.setOffers { s.offers with driverDuty := d }
  let u := produce tag (.dutyChanged d (effectiveDuty t) (effectiveDuty s) .dutySet) t
  if effectiveDuty t = .free then u else closeOpen .superseded u

/-- DUTY_SET, after the reader's range check (Table 39). -/
def reqDuty (tag : Half) (value : Byte) (s : State) : State :=
  match Duty.ofCode value with
  | some d => placeHeld (setDuty d tag s)
  | none => refuse 0x03 .outOfRange tag s

/-- DUTY_SET (R106). -/
def execDutySet (tag : Half) (value : Byte) (s : State) : Out :=
  .next (whenRunning (reqDuty tag value) s)

/-! ### ACCEPT and DECLINE (R111, R112) -/

/-- The entry as its BID is admitted (R111, case 6). -/
def Offer.bidding (o : Offer) (q : Nat) (tag : Half) : Offer :=
  { o with state := .bidSent, progress := some .queued, bidSeq := some q, deferred := none,
           tag := tag, remaining := none }

/-- The BID of an OPEN entry is offered; the offer table is told of the number it took (R111, case 6). -/
def offerBid (i : Nat) (o : Offer) (tag : Half) (s : State) : State :=
  let r := offerEntry .bid (bidBody o.id s) false false (.offer i) s
  match r.2 with
  | .admitted q => setOffer i (some (o.bidding q tag)) r.1
  | .linkDown => refuse 0x01 .linkDown tag r.1
  | .full => refuse 0x01 .queueFull tag r.1

/-- ACCEPT: the first matching case decides (R111). -/
def reqAccept (tag : Half) (id : Word) (s : State) : State :=
  match findOffer id s with
  | none => refuse 0x01 .noSuchOffer tag s
  | some (i, o) =>
    if o.state = .closing ∧ o.reason = some .expired then refuse 0x01 .tooLate tag s
    else if s.emerg.state ≠ .quiet then refuse 0x01 .emergency tag s
    else if o.state ≠ .open then refuse 0x01 .wrongState tag s
    else if (findJob s).isSome then refuse 0x01 .oneJob tag s
    else placeHeld (offerBid i o tag s)

/-- ACCEPT (R111). -/
def execAccept (tag : Half) (id : Word) (s : State) : Out :=
  .next (whenRunning (reqAccept tag id) s)

/-- DECLINE (R112). -/
def reqDecline (tag : Half) (id : Word) (s : State) : State :=
  match findOffer id s with
  | none => refuse 0x02 .noSuchOffer tag s
  | some (i, o) =>
    if o.state = .open then
      placeHeld (closeOffer i { o with tag := tag } .declined .noneOffered s)
    else refuse 0x02 .wrongState tag s

/-- DECLINE (R112). -/
def execDecline (tag : Half) (id : Word) (s : State) : Out :=
  .next (whenRunning (reqDecline tag id) s)

/-! ### OFFER (R108, R109) -/

/-- The kept pickup text: the first 64 characters (R109). -/
def keptText (t : List Byte) : List Byte := t.take 64

/-- Whether a pickup text is truncated (R109). -/
def textCut (t : List Byte) : Bool := decide (64 < t.length)

/-- The entry of an admitted offer (R109). -/
def newOffer (b : OfferBody) (admitted : Nat) : Offer :=
  { state := .open, id := b.id, zone := b.zone, kind := b.kind, text := keptText b.text,
    truncated := textCut b.text, remaining := some b.window, progress := none, bidSeq := none,
    deferred := none, tag := 0, reason := none, held := none, admitted := admitted }

/-- OFFER_NEW (R109). -/
def offerNewPayload (b : OfferBody) (scope : Nat) : Payload :=
  .offerNew b.id b.zone b.kind b.window scope (keptText b.text) (textCut b.text)

/-- An offer is admitted into entry i, with OFFER_NEW and a 500 ms pulse (R109). -/
def admitOffer (i : Nat) (b : OfferBody) (scope : Nat) (s : State) : State :=
  let t := s.setOffers { s.offers with
    entries := s.offers.entries.set i (some (newOffer b s.offers.nextAdmit)),
    nextAdmit := s.offers.nextAdmit + 1 }
  pulse Config.offerPulse (produce 0 (offerNewPayload b scope) t)

/-- The offer id an OFFER body carries, for the test of case 3 (R108); a body too short to carry one is malformed. -/
def offerIdHeld (body : List Byte) (s : State) : Bool :=
  decide (4 ≤ body.length) && (findOffer (BitVec.ofNat 32 (natBE (slice body 0 4))) s).isSome

/-- The offer table takes an OFFER: the first matching case decides (R108). -/
def ownOffer (f : DownFrame) (s : State) : State :=
  if s.emerg.state ≠ .quiet then
    s.setOffers { s.offers with suppressed := satAdd Config.max16 s.offers.suppressed 1 }
  else if effectiveDuty s ≠ .free then s
  else if offerIdHeld f.body s then s
  else
    match offerBody (scopeOf f.flags) f.body with
    | none => s.setOffers { s.offers with malformed := satAdd Config.max16 s.offers.malformed 1 }
    | some b =>
      match firstFree 0 s.offers.entries with
      | none => s.setOffers { s.offers with overflow := satAdd Config.max16 s.offers.overflow 1 }
      | some i => admitOffer i b (scopeOf f.flags) s

/-- The hand-over of an OFFER (R108, R60). -/
def takeOffer (f : DownFrame) (s : State) : State := handOver .offer (ownOffer f) .taken f s

/-- OFFER (R108). -/
def execOffer (f : DownFrame) (s : State) : Out := .next (whenRunning (takeOffer f) s)

/-! ### Deferred outcomes (R119) -/

/-- What reaches an abandoned or ON_AIR bid from dispatch. -/
inductive BidAnswer where
  | award | gone
  deriving DecidableEq, Repr

/-- The deferred outcome after an arrival from dispatch (R119). -/
def Deferred.after (d : Option Deferred) (a : BidAnswer) : Deferred :=
  match a, d with
  | .gone, _ => .taken
  | .award, none | .award, some .award | .award, some .taken => .award
  | .award, some .abandon | .award, some .late => .late

/-- Whether the entry's BID is ON_AIR or its mark is set, so that an answer is deferred (R113, R119). -/
def answerDeferred (o : Offer) (s : State) : Bool :=
  o.deferred.isSome ||
    (o.bidSeq.bind (fun q => entryWith q s)).map (·.state) == some .onAir

/-- An answer is kept: both abandon marks are set and the BID's answered mark with them (R119, R83). -/
def deferAnswer (a : BidAnswer) (i : Nat) (o : Offer) (s : State) : State :=
  let t := match o.bidSeq with
    | some q => updateEntry q (fun x => { x with abandon := true, answered := true }) s
    | none => s
  setOffer i (some { o with deferred := some (Deferred.after o.deferred a), remaining := none }) t

/-- The BID entry, if present, is withdrawn (R83). -/
def withdrawBid (o : Offer) (s : State) : State :=
  match o.bidSeq with
  | some q => withdrawEntry q s
  | none => s

/-! ### AWARD (R115, R116) -/

/-- Whether an AWARD of an OPEN entry is a direct assignment (R115). -/
def directAllowed (s : State) : Bool :=
  (findJob s).isNone && s.emerg.state == .quiet && effectiveDuty s == .free

/-- The offer table's answer to an AWARD of an offer id (R115, R116). -/
def awardId (id : Word) (s : State) : State :=
  match findOffer id s with
  | none =>
    let r := offerRelease id s
    produce 0 (.lateAward id .unknown r.2) r.1
  | some (i, o) =>
    match o.state with
    | .bidSent =>
      if answerDeferred o s then deferAnswer .award i o s
      else awardEntry i o false o.tag (withdrawBid o s)
    | .awarded => s
    | .open =>
      if directAllowed s then awardEntry i o true 0 s
      else
        let r := offerRelease id s
        closeWith i o none 0 (.lateAward id .open r.2) r.1
    | .closing =>
      let r := offerRelease id s
      produce 0 (.lateAward id .closing r.2) r.1

/-- The offer table takes an AWARD; a body of another length is ignored (R115). -/
def ownAward (f : DownFrame) (s : State) : State :=
  match idBody f.body with
  | some id => awardId id s
  | none => s

/-- The hand-over of an AWARD, the test of R34, then the held reports (R115, R34, R172). -/
def takeAward (f : DownFrame) (s : State) : State :=
  placeHeld (tripTest (handOver .award (ownAward f) .taken f s))

/-- AWARD (R115). -/
def execAward (f : DownFrame) (s : State) : Out := .next (whenRunning (takeAward f) s)

/-! ### REJECT and WITHDRAW (R117, R118) -/

/-- An answer that takes a BID_SENT entry's offer away (R117, R118). -/
def bidTaken (i : Nat) (o : Offer) (s : State) : State :=
  if answerDeferred o s then deferAnswer .gone i o s
  else closeOffer i o .taken .noneOffered (withdrawBid o s)

/-- The offer table takes a REJECT (R117). -/
def ownReject (f : DownFrame) (s : State) : State :=
  match (idBody f.body).bind (fun id => findOffer id s) with
  | some (i, o) =>
    match o.state with
    | .open => closeOffer i o .taken .noneOffered s
    | .bidSent => bidTaken i o s
    | .awarded | .closing => s
  | none => s

/-- The hand-over of a REJECT (R117, R60, R34). -/
def takeReject (f : DownFrame) (s : State) : State :=
  placeHeld (tripTest (handOver .reject (ownReject f) .taken f s))

/-- REJECT (R117). -/
def execReject (f : DownFrame) (s : State) : Out := .next (whenRunning (takeReject f) s)

/-- An awarded job is cancelled: JOB_CANCELLED is offered its place, then the duty follows (R118, R106). -/
def cancelJob (i : Nat) (o : Offer) (s : State) : State :=
  let before := effectiveDuty s
  dutyAfter before 0 .jobEnd (placeHeld (closeWith i o none o.tag (.jobCancelled o.id) s))

/-- The offer table takes a WITHDRAW (R118). -/
def ownWithdraw (f : DownFrame) (s : State) : State :=
  match (idBody f.body).bind (fun id => findOffer id s) with
  | some (i, o) =>
    match o.state with
    | .open => closeOffer i o .withdrawn .noneOffered s
    | .bidSent => bidTaken i o s
    | .awarded => cancelJob i o s
    | .closing => s
  | none => s

/-- The hand-over of a WITHDRAW (R118, R60, R34). -/
def takeWithdraw (f : DownFrame) (s : State) : State :=
  placeHeld (tripTest (handOver .withdraw (ownWithdraw f) .taken f s))

/-- WITHDRAW (R118). -/
def execWithdraw (f : DownFrame) (s : State) : Out := .next (whenRunning (takeWithdraw f) s)

/-! ### The ends of the window and of the award wait (R110, R114) -/

/-- The window of an OPEN entry ends (R110). -/
def windowEnd (i : Nat) (s : State) : State :=
  match s.offers.entries.getD i none with
  | some o =>
    if o.state = .open ∧ o.remaining.isSome then closeOffer i o .expired .noneOffered s else s
  | none => s

/-- The seconds left of an OPEN entry's window (R110). -/
def remainingOf (i : Nat) (s : State) : Option Nat :=
  (s.offers.entries.getD i none).bind (fun o => if o.state = .open then o.remaining else none)

/-- OFFER_WINDOW_END (R110); after a raise at the same tick, what that started does not count the tick (R121, R138). -/
def execOfferWindowEnd (i : Fin 8) (s : State) : Out :=
  .next (whenRunning (atTickOr (remainingOf i.val) (fun t => placeHeld (windowEnd i.val t))
    justRaised spareRaise) s)

/-- The award wait of an ACKED bid runs out (R114). -/
def awardWaitOver (i : Nat) (o : Offer) (s : State) : State :=
  let r := offerRelease o.id s
  closeOffer i o .noAward r.2 r.1

/-- The entry whose award wait can end, if any (R114); one whose BID is still ON_AIR cannot leave BID_SENT before its close of transmission (R119; log entry 33). -/
def waitingAward (s : State) : Option (Nat × Offer) :=
  match findJob s with
  | some (i, o) =>
    if o.state = .bidSent ∧ o.progress = some .acked ∧ o.remaining.isSome ∧ o.bidSeq = none
    then some (i, o) else none
  | none => none

/-- The end of the award wait (R114). -/
def awardWaitEnd (s : State) : State :=
  match waitingAward s with
  | some (i, o) => awardWaitOver i o s
  | none => s

/-- The remaining seconds of the award wait that runs, if any (R114). -/
def awardRemaining (s : State) : Option Nat := (waitingAward s).bind (·.2.remaining)

/-- AWARD_WAIT_END (R114). -/
def execAwardWaitEnd (s : State) : Out :=
  .next (whenRunning (atTick awardRemaining (fun t => placeHeld (awardWaitEnd t))) s)

end Sys2Proof.Machine
end

