-- ==== Sys2Proof/Machine/Radio.lean ====
section
/-! DEFINITION. The link controller's and the radio supervisor's commands, with POLL, ACK and CHANNEL (spec/04, spec/05). -/

namespace Sys2Proof.Machine

/-! ### Channel changes (R74) -/

/-- The link controller takes a CHANNEL (R74). -/
def ownChannel (f : DownFrame) (s : State) : State :=
  match channelBody f.body with
  | some c =>
    linkReact (s.setLink { s.link with
      pendingChannel := if c = s.link.channel then none else some c })
  | none => s

/-- The hand-over of a CHANNEL (R74, R60). -/
def takeChannel (f : DownFrame) (s : State) : State := handOver .channel (ownChannel f) .taken f s

/-- CHANNEL (R74). -/
def execChannel (f : DownFrame) (s : State) : Out := .next (whenRunning (takeChannel f) s)

/-- CHANNEL_CHANGE_APPLY (R74). -/
def execChannelChangeApply (s : State) : Out :=
  .next (if s.link.state = .listen ∧ s.link.pendingChannel.isSome = true ∧ noFrameInAssembly s = true
    then applyChannel s else s)

/-! ### Carrier, slots and the dwell (R68, R87, R92) -/

def setCd (b : Bool) (s : State) : State := s.setPins { s.pins with cd := b }

/-- CD rises: the slot timer stops and, in LISTEN or CONTEND, the stuck-busy timer starts (R68, R92). -/
def cdRise (s : State) : State :=
  let t := setCd true s
  if receiving t.link.state then
    (t.setSup { t.sup with stuckBusy := some t.settings.accepted.busyLimit }).setLink
      { t.link with slotTimer := none }
  else t

/-- CD_RISE (R68, R92). -/
def execCdRise (s : State) : Out := .next (if s.pins.cd then s else cdRise s)

/-- CD falls: the stuck-busy timer stops; in CONTEND the slot timer starts, or a count of 0 keys at once (R68, R92). -/
def cdFall (s : State) : State :=
  let t := stopStuckBusy (setCd false s)
  if t.link.state = .contend then
    if t.link.backoff = 0 then startKeyup t
    else t.setLink { t.link with slotTimer := some t.settings.accepted.slotTime }
  else t

/-- CD_FALL (R68, R92). -/
def execCdFall (s : State) : Out := .next (if s.pins.cd then cdFall s else s)

/-- The slot timer reaches the slot time (R68). -/
def slotEnd (s : State) : State :=
  let t := s.setLink { s.link with backoff := s.link.backoff - 1,
                                   slotTimer := some s.settings.accepted.slotTime }
  if t.link.backoff = 0 then startKeyup t else t

/-- SLOT_END (R68). -/
def execSlotEnd (s : State) : Out :=
  .next (if s.link.state = .contend ∧ s.link.slotTimer.isSome = true ∧ s.pins.cd = false
    then slotEnd s else s)

/-- The contention clock has passed the dwell (R87). -/
def dwellEnd (s : State) : State := congestFactor (s.setLink { s.link with dwellPassed := true })

/-- The contention clock may have passed the dwell: it has counted as many ticks as the dwell has seconds (R87; log entry 24). -/
def dwellNear (s : State) : Bool :=
  match s.link.clock with
  | some n => decide (s.settings.accepted.dwell ≤ n)
  | none => false

/-- CONGESTION_DWELL_END (R87). -/
def execCongestionDwellEnd (s : State) : Out :=
  .next (if s.link.state = .contend ∧ dwellNear s = true then dwellEnd s else s)

/-! ### Keying and transmission (R70 to R73) -/

/-- The entry the end of the keyup delay keys: the target if still QUEUED, else the first QUEUED (R70). -/
def entryToKey (s : State) : Option Entry :=
  match queuedTarget s with
  | some e => some e
  | none => firstQueued s

/-- An entry as it goes ON_AIR; a STATUS has its body built now (R70, R102). -/
def Entry.keyed (e : Entry) (s : State) : Entry :=
  { e with state := .onAir, attempts := e.attempts + 1,
           body := if e.cls = .status then statusBody s else e.body }

/-- The owner that follows its entry is told it is on air (R70, R113, R142). -/
def tellKeyed (e : Entry) (s : State) : State :=
  match e.cls with
  | .bid => withBidOffer e (setProgress .onAir) s
  | .alarm => s.setEmerg { s.emerg with keyedCount := satAdd Config.max16 s.emerg.keyedCount 1 }
  | _ => s

/-- An entry is keyed and its frame's characters are put on TXD (R70, R46); the target becomes absent here, which is the model's choice (log entry 29). -/
def keyEntry (e : Entry) (s : State) : State :=
  let k := e.keyed s
  let t := tellKeyed e (updateEntry e.seq (fun x => x.keyed s) s)
  t.setLink { t.link with state := .sending, target := none, backoff := 0, keyed := some e.seq,
                          phaseTimer := none, tx := uplinkChars t.settings.accepted.cab k }

/-- The end of the keyup delay (R70). -/
def keyupEnd (s : State) : State :=
  match entryToKey s with
  | some e => keyEntry e s
  | none =>
    s.setLink { s.link.idle with state := .turnaround,
                                 phaseTimer := some s.settings.accepted.turnaround }

/-- KEYUP_DELAY_END (R70). -/
def execKeyupDelayEnd (s : State) : Out := .next (if s.link.state = .keyup then keyupEnd s else s)

/-- The end of TAIL: PTT is released and the close of transmission applied before TURNAROUND (R72); R34 is tested. -/
def tailEnd (s : State) : State :=
  let t := closeTransmission s
  placeHeld (tripTest (t.setLink { t.link with
    state := .turnaround, phaseTimer := some t.settings.accepted.turnaround }))

/-- The second CRC character has been sent; a tail time of 0 ends TAIL at once (R71). -/
def transmissionEnd (s : State) : State :=
  let t := s.setLink { s.link with state := .tail, phaseTimer := some s.settings.accepted.tail,
                                   tx := [] }
  if s.settings.accepted.tail = 0 then tailEnd t else t

/-- TRANSMISSION_END (R71). -/
def execTransmissionEnd (s : State) : Out :=
  .next (if s.link.state = .sending then transmissionEnd s else s)

/-- TAIL_END (R72). -/
def execTailEnd (s : State) : Out := .next (if s.link.state = .tail then tailEnd s else s)

/-- TURNAROUND_END: SETTLE for a pending channel, else LISTEN (R73, R74). -/
def execTurnaroundEnd (s : State) : Out :=
  .next (if s.link.state = .turnaround then
    (if s.link.pendingChannel.isSome then applyChannel s else enterListen s) else s)

/-- SETTLE_END (R74). -/
def execSettleEnd (s : State) : Out := .next (if s.link.state = .settle then enterListen s else s)

/-! ### ACKs and ACK timers (R84, R85) -/

/-- The entry a downlink ACK matches (R84). -/
def ackMatch (cls : Byte) (q : Nat) (s : State) : Option Entry :=
  s.uplink.entries.find? (fun e => e.cls.code == cls && e.seq == q && e.cls.needsAck && !e.answered)

/-- The owner acts on "answered" (R84, R35, R113, R129). -/
def tellAnswered (e : Entry) (result : AckResult) (stays : Bool) (s : State) : State :=
  match e.cls with
  | .bid => withBidOffer e (bidAnswered (!stays)) s
  | .trip =>
    match e.ref with
    | .trip n => addTripReport 0 (.tripReported n (s.trip.backlog.length - 1)) s
    | _ => s
  | .text => textOutcome e (fun i => .textDelivered result i e.seq e.attempts) stays s
  | _ => s

/-- A matched entry: removed at once, or marked answered while ON_AIR (R84). -/
def ackEntry (e : Entry) (result : AckResult) (s : State) : State :=
  match e.state with
  | .onAir => tellAnswered e result true (updateEntry e.seq (fun x => { x with answered := true }) s)
  | .queued | .awaitAck =>
    let t := tellAnswered e result false s
    let u := if e.cls = .trip then tripLeaves t else t
    leaveQueue e.seq u

/-- The uplink queue takes an ACK (R84). -/
def ownAck (f : DownFrame) (s : State) : State :=
  match ackBody f.body with
  | some (cls, q, r) =>
    match ackMatch cls q s with
    | some e => ackEntry e r s
    | none => countUnmatched s
  | none => countUnmatched s

/-- The hand-over of an ACK (R84, R60). -/
def takeAck (f : DownFrame) (s : State) : State := placeHeld (handOver .ack (ownAck f) .taken f s)

/-- ACK (R84). -/
def execAck (f : DownFrame) (s : State) : Out := .next (whenRunning (takeAck f) s)

/-- The outcome of an exhausted entry (R85). -/
def tellExhausted (e : Entry) (s : State) : State :=
  match e.cls with
  | .bid => withBidOffer e bidLost s
  | .text => textFailed .link e s
  | .trip => s.setTrip { s.trip with holdoff := some Config.holdoffSeconds }
  | _ => s

/-- An ACK timer runs out (R85): the entry is QUEUED again, or exhausted. -/
def ackTimeout (e : Entry) (s : State) : State :=
  if e.attempts < s.settings.accepted.attempts then
    let t := updateEntry e.seq (fun x => { x with state := .queued, ackTimer := none }) s
    linkReact (if e.cls = .bid then withBidOffer e (setProgress .queued) t else t)
  else placeHeld (leaveQueue e.seq (tellExhausted e s))

/-- ACK_TIMER_END (R85). -/
def execAckTimerEnd (seq : Byte) (s : State) : Out :=
  .next (match entryWith seq.toNat s with
    | some e => if e.state = .awaitAck then ackTimeout e s else s
    | none => s)

/-! ### Radio supervisor (R91 to R97) -/

def setRdy (b : Bool) (s : State) : State := s.setPins { s.pins with rdy := b }

/-- RDY rises (R91): watched in POWER_ON_WAIT. -/
def rdyRise (s : State) : State :=
  let t := setRdy true s
  if t.link.state = .powerOnWait then rdyUp t else t

/-- RDY_RISE (R91). -/
def execRdyRise (s : State) : Out := .next (if s.pins.rdy then s else rdyRise s)

/-- RDY falls: a RDY-loss fault in a channel-access state (R93). The report of a BID that the close of transmission closes is placed after the fault's LINK_STATE, which is the model's order (log entry 22). -/
def rdyFall (s : State) : State :=
  let t := setRdy false s
  if channelAccess t.link.state then placeHeld (takeFault .rdyLoss t) else t

/-- RDY_FALL (R93). -/
def execRdyFall (s : State) : Out := .next (if s.pins.rdy then rdyFall s else s)

/-- The ready timer ends (R91): a ready-timeout fault. -/
def readyEnd (s : State) : State := placeHeld (takeFault .readyTimeout s)

/-- The ready timer of a radio in POWER_ON_WAIT with RDY low (R91). -/
def readyLeft (s : State) : Option Nat :=
  if s.link.state = .powerOnWait ∧ s.pins.rdy = false then s.sup.ready else none

/-- READY_TIMER_END (R91); after a commit or a rise of RDY at the same tick, what that started does not count the tick (R90, R103). -/
def execReadyTimerEnd (s : State) : Out :=
  .next (atTickOr readyLeft readyEnd justRestarted spareSup s)

/-- The stuck-busy timer ends with CD high (R92): a stuck-busy fault. -/
def stuckBusyEnd (s : State) : State := placeHeld (takeFault .stuckBusy s)

/-- The stuck-busy timer in LISTEN or CONTEND with CD high (R92). -/
def stuckBusyLeft (s : State) : Option Nat :=
  if receiving s.link.state = true ∧ s.pins.cd = true then s.sup.stuckBusy else none

/-- STUCK_BUSY_TIMER_END (R92); after a commit or a loss of RDY at the same tick, what that started does not count the tick (R90). -/
def execStuckBusyTimerEnd (s : State) : Out :=
  .next (atTickOr stuckBusyLeft stuckBusyEnd justWatched spareSup s)

/-- The power-off timer ends (R94). -/
def powerOffEnd (s : State) : State := tripTest (enterPowerOn .powerOffEnd 0 s)

/-- POWER_OFF_TIMER_END (R94). -/
def execPowerOffTimerEnd (s : State) : Out :=
  .next (if s.link.state = .powerOff then atTick (·.sup.powerOff) powerOffEnd s else s)

/-- The healthy timer ends (R96). -/
def healthyEnd (s : State) : State :=
  s.setSup { s.sup with healthy := none, cycles := 0, override := false }

/-- HEALTHY_TIMER_END (R96); after a fault at the same tick, the power-off timer does not count the tick (R90). -/
def execHealthyTimerEnd (s : State) : Out :=
  .next (atTickOr (·.sup.healthy) healthyEnd justCycled spareSup s)

/-- LINK_RESTART (R97). -/
def reqRestart (tag : Half) (s : State) : State :=
  if s.link.state = .failed then
    tripTest (enterPowerOn .linkRestart tag (s.setSup { s.sup with cycles := 0 }))
  else refuse 0x0F .notFailed tag s

/-- LINK_RESTART (R97). -/
def execLinkRestart (tag : Half) (s : State) : Out := .next (whenRunning (reqRestart tag) s)

/-- The radio supervisor takes a POLL and offers a STATUS entry (R101). -/
def ownPoll (s : State) : State := (offerOrDrop .status [] .none s).1

/-- The hand-over of a POLL (R101, R60). -/
def takePoll (f : DownFrame) (s : State) : State := handOver .poll ownPoll .taken f s

/-- POLL (R101). -/
def execPoll (f : DownFrame) (s : State) : Out := .next (whenRunning (takePoll f) s)

end Sys2Proof.Machine
end

