-- ==== Sys2Proof/Machine/Trips.lean ====
section
/-! DEFINITION. The trip recorder's own commands: SHIFT_CLOSE, the end of the holdoff, the TRIP enqueue (spec/02). -/

namespace Sys2Proof.Machine

/-- A taken SHIFT_CLOSE (R40). -/
def closeShift (tag : Half) (s : State) : State :=
  let t := addTripReport tag (.shiftClosed s.trip.shift s.clock) s
  t.setTrip { t.trip with shift := Shift.reset s.clock }

/-- SHIFT_CLOSE (R40). -/
def reqShiftClose (tag : Half) (s : State) : State :=
  if s.meter.state = .vacant then placeHeld (closeShift tag s) else refuse 0x0B .wrongState tag s

/-- SHIFT_CLOSE (R40). -/
def execShiftClose (tag : Half) (s : State) : Out := .next (whenRunning (reqShiftClose tag) s)

/-- The holdoff stops and R34 is tested (R36). -/
def holdoffEnd (s : State) : State := tripTest (s.setTrip { s.trip with holdoff := none })

/-- HOLDOFF_END (R36): it counts down while RESET is asserted too (R42); after a release at the same tick, what that started does not count the tick (R37). -/
def execHoldoffEnd (s : State) : Out :=
  .next (atTickOr (·.trip.holdoff) holdoffEnd justReleased spareRelease s)

/-- TRIP_ENQUEUE (R34). -/
def execTripEnqueue (s : State) : Out := .next (tripTest s)

end Sys2Proof.Machine
end

