-- ==== Sys2Proof/Machine/Reader.lean ====
section
/-! DEFINITION. The request reader and the frame dispatcher at work: checking a request, handing a READY frame over, and taking what waits when two places are free (spec/10 R170, R171; spec/03 R60). -/

namespace Sys2Proof.Machine

/-! ### Requests (R170, R171) -/

/-- A checked request is handed to its owner (Table 39, Table 44). -/
def giveRequest (r : RequestRecord) (s : State) : State :=
  match r.code.toNat with
  | 0x01 => reqAccept r.tag (BitVec.ofNat 32 (natLE (slice r.params 0 4))) s
  | 0x02 => reqDecline r.tag (BitVec.ofNat 32 (natLE (slice r.params 0 4))) s
  | 0x03 => reqDuty r.tag (byteAt r.params 0) s
  | 0x04 => reqSendText r.tag (byteAt r.params 0) (r.params.drop 2) s
  | 0x05 => reqHire r.tag (byteAt r.params 0) s
  | 0x06 => reqStop r.tag s
  | 0x07 => reqResume r.tag s
  | 0x08 => reqExtra r.tag (BitVec.ofNat 16 (natLE (slice r.params 0 2))) (byteAt r.params 2) s
  | 0x09 => reqClear r.tag s
  | 0x0A => reqSelect r.tag (byteAt r.params 0) s
  | 0x0B => reqShiftClose r.tag s
  | 0x0C => reqRaise r.tag s
  | 0x0D => reqCancel r.tag s
  | 0x0E => reqBoxClear r.tag s
  | _ => reqRestart r.tag s

/-- Whether the length byte agrees with the parameters the slot holds and the code's parameter set (R171, step 2). -/
def lengthOk (r : RequestRecord) : Bool :=
  decide (r.length ≤ 124) && r.params.length == r.length && lengthAgrees r.code r.params

/-- A request is checked and refused or handed to its owner (R171). -/
def checkRequest (r : RequestRecord) (s : State) : State :=
  if requestKnown r.code = false then refuse r.code .unknown r.tag s
  else if lengthOk r = false then refuse r.code .malformed r.tag s
  else giveRequest r s

/-- The consumer index moves past the request taken, and an INDEX task writes it (R170, step 4). -/
def advanceConsumer (s : State) : State :=
  requestTask .index
    (s.setReader { s.reader with kept := none, consumer := (s.reader.consumer + 1) % 16 })

/-- The fetched request is taken: one event (R170); what it holds is offered a place once the taking is complete (R172). -/
def takeRequest (slot : List Byte) (s : State) : State :=
  placeHeld (advanceConsumer (checkRequest (requestOf slot) s))

/-- REQUEST_UNKNOWN: a request whose code names none is refused (R171); a code that names one is no such command (log entry 3). -/
def reqUnknown (tag : Half) (code : Byte) (s : State) : State :=
  if requestKnown code then s else refuse code .unknown tag s

/-- REQUEST_UNKNOWN (R171). -/
def execRequestUnknown (tag : Half) (code : Byte) (s : State) : Out :=
  .next (whenRunning (reqUnknown tag code) s)

/-! ### READY frames (R60) -/

/-- A READY frame is handed to the owner of its class (R60, Table 16). -/
def takeFrame (cls : Byte) (f : DownFrame) (s : State) : State :=
  match DownClass.ofCode cls with
  | some .offer => takeOffer f s
  | some .withdraw => takeWithdraw f s
  | some .award => takeAward f s
  | some .reject => takeReject f s
  | some .text => takeText f s
  | some .tariff => takeTariff f s
  | some .alarmAck => takeAlarmAck f s
  | some .alarmEnd => takeAlarmEnd f s
  | some .ack => takeAck f s
  | some .poll => takePoll f s
  | some .channel => takeChannel f s
  | none => freeBuffer cls f s

/-- The frame of a READY buffer with its completion order (R52). -/
def Buffer.waiting : Buffer → Option (Byte × DownFrame × Nat)
  | .ready c f n => some (c, f, n)
  | _ => none

/-- The first READY frame in completion order (R60). -/
def firstReady (s : State) : Option (Byte × DownFrame) :=
  match s.rx.bufA.waiting, s.rx.bufB.waiting with
  | some (c, f, n), some (d, g, m) => if n < m then some (c, f) else some (d, g)
  | some (c, f, _), none => some (c, f)
  | none, some (d, g, _) => some (d, g)
  | none, none => none

/-- At least 2 places are free (R60, R170). -/
def twoFree (s : State) : Bool := decide (s.evw.queue.length + 2 ≤ Config.eventQueueSize)

/-- One waiting request or frame is taken when two places are free; which of the two is open (R60, R170; log entry 7). -/
def takeNext (s : State) : State :=
  if s.phase = .running ∧ twoFree s = true then
    match s.reader.kept, firstReady s with
    | some b, some x =>
      if Config.readerFirst s.book.drawn then takeRequest b (countDrawn s)
      else takeFrame x.1 x.2 (countDrawn s)
    | some b, none => takeRequest b s
    | none, some x => takeFrame x.1 x.2 s
    | none, none => s
  else s

/-- No work is taken while a report waits: the reports take the free places first (R172). -/
def takeOneWork (s : State) : State := takeNext (placeHeld s)

/-- Everything that waits for two free places is taken while they are free: at most two frames and one request. -/
def takeWork (s : State) : State := takeOneWork (takeOneWork (takeOneWork s))

end Sys2Proof.Machine
end

