-- ==== Sys2Proof/Machine/Receive.lean ====
section
/-! DEFINITION. The deframer: characters from RXD, the gap limit, the judging of a frame, the address filter and class check (spec/03 R44 to R59). -/

namespace Sys2Proof.Machine

/-- The completion of a sync pair claims buffer A, else B, else begins a skip (R48, R52, R53). -/
def claim (r : Receiver) : Receiver :=
  let c := { r with stored := [], charBad := false, skipped := 0, skipLength := 0 }
  if r.bufA = .free then { c with deframer := .header, bufA := .filling }
  else if r.bufB = .free then { c with deframer := .header, bufB := .filling }
  else { c with deframer := .skip }

/-- The FILLING buffer becomes READY with the frame in it (R52). -/
def Buffer.fill (cls : Byte) (f : DownFrame) (n : Nat) : Buffer → Buffer
  | .filling => .ready cls f n
  | b => b

/-- The recent downlink list with a frame joined, the oldest leaving a full one (R59). -/
def addRecent (x : RecentFrame) (l : List RecentFrame) : List RecentFrame :=
  (if l.length < Config.recentSize then l else l.drop 1) ++ [x]

/-- An accepted frame joins the recent list and its buffer becomes READY (R56, R59, R52). -/
def acceptFrame (cls : Byte) (f : DownFrame) (r : Receiver) : Receiver :=
  { ({ r with bufA := r.bufA.fill cls f r.nextOrder, bufB := r.bufB.fill cls f r.nextOrder }).hunt with
    nextOrder := r.nextOrder + 1,
    recent := addRecent { cls := cls, seq := f.seq, doneAt := f.doneAt } r.recent }

/-- Whether a class code and scope pass the class check (R56). -/
def classPasses (cls flags : Byte) : Bool :=
  match DownClass.ofCode cls with
  | some c => scopeAllowed c (scopeOf flags)
  | none => false

/-- A good frame clears the run and LINK_POOR and passes the filter and the class check (R51, R55, R56, R57). -/
def goodFrame (cls : Byte) (f : DownFrame) (s : State) : State :=
  let r := { s.rx with badRun := 0, linkPoor := false }
  if forThisCab s.settings.accepted f.flags f.addr then
    if classPasses cls f.flags then s.setRx (acceptFrame cls f r)
    else s.setRx { r.hunt with unknown := satAdd Config.max16 r.unknown 1 }
  else s.setRx r.hunt

/-- The frame of the stored characters: header, body (R46), completed now. -/
def frameOf (bs : List Byte) (s : State) : DownFrame :=
  { flags := byteAt bs 1, addr := BitVec.ofNat 16 (natBE (slice bs 2 2)), seq := byteAt bs 4,
    body := slice bs 6 (byteAt bs 5).toNat, doneAt := s.clock }

/-- Whether the stored characters pass the CRC check (R47). -/
def crcPasses (bs : List Byte) : Bool :=
  let n := 6 + (byteAt bs 5).toNat
  crc16 (bs.take n) == BitVec.ofNat 16 (natBE (slice bs n 2))

/-- The complete frame is judged (R51). -/
def judge (bs : List Byte) (bad : Bool) (s : State) : State :=
  if bad || !crcPasses bs then badFrame s else goodFrame (byteAt bs 0) (frameOf bs s) s

/-- A character is stored in HEADER, BODY or CHECK (R44, R49). -/
def storeChar (d : Byte) (bad : Bool) (s : State) : State :=
  let bs := s.rx.stored ++ [d]
  let b := s.rx.charBad || bad
  let n := (byteAt bs 5).toNat
  let keep := fun (st : Deframing) => s.setRx { s.rx with deframer := st, stored := bs, charBad := b }
  match s.rx.deframer with
  | .header =>
    if bs.length < 6 then keep .header
    else if Config.bodyMax < n then badFrame s
    else if n = 0 then keep .check
    else keep .body
  | .body => if bs.length < 6 + n then keep .body else keep .check
  | _ => if bs.length < 8 + n then keep .check else judge bs b s

/-- A character is consumed in SKIP (R53). -/
def skipChar (d : Byte) (s : State) : State :=
  let k := s.rx.skipped + 1
  let n := if k = 6 then d.toNat else s.rx.skipLength
  if (k = 6 ∧ Config.bodyMax < n) ∨ (6 < k ∧ 8 + n ≤ k) then skipEnd s
  else s.setRx { s.rx with skipped := k, skipLength := n }

/-- The deframer takes a character (R44, R48, R49, Table 15). -/
def deframe (d : Byte) (bad : Bool) (s : State) : State :=
  match s.rx.deframer with
  | .hunt =>
    if bad = false ∧ d = 0xC3 then s.setRx { s.rx with deframer := .syncHalf } else s
  | .syncHalf =>
    if bad = false ∧ d = 0x3C then s.setRx (claim s.rx)
    else if bad = false ∧ d = 0xC3 then s
    else s.setRx { s.rx with deframer := .hunt }
  | .header | .body | .check => storeChar d bad s
  | .skip => skipChar d s

/-- A character received on RXD; a pending channel is tested at a frame's end, and a READY frame may be taken (R48, R74, R60). -/
def receiveChar (bits : Byte) (parity stop1 stop2 : Bool) (s : State) : State :=
  let st := s.settings.accepted
  let d := dataByte st bits
  let t := deframe d (charIsBad st d parity stop1 stop2) s
  if t.rx.deframer = .hunt ∧ s.rx.deframer ≠ .hunt ∧ s.rx.deframer ≠ .syncHalf then
    takeWork (linkReact t)
  else t

/-- RXD_CHARACTER (R45, R48): taken in LISTEN and CONTEND only, and only where its start bit fell while RXD was taken (log entry 27). -/
def execRxdCharacter (bits : DataBits) (parity stop1 stop2 : Bool) (s : State) : Out :=
  .next (if receiving s.link.state = true ∧ bits.heard = true
    then receiveChar bits.bits parity stop1 stop2 s else s)

/-- The gap limit runs out within a frame (R50). -/
def gapEnd (s : State) : State :=
  match s.rx.deframer with
  | .header | .body | .check => linkReact (badFrame s)
  | .skip => linkReact (skipEnd s)
  | .hunt | .syncHalf => s

/-- GAP_LIMIT_END (R50). -/
def execGapLimitEnd (s : State) : Out := .next (gapEnd s)

/-- SYNC_HALF_PAUSE_END (R50). -/
def execSyncHalfPauseEnd (s : State) : Out :=
  .next (if s.rx.deframer = .syncHalf then s.setRx { s.rx with deframer := .hunt } else s)

end Sys2Proof.Machine
end

