-- ==== Sys2Proof/Machine/HostWords.lean ====
section
/-! DEFINITION. The snooped words' owners: ring indices, settings record and commit, position record and commit, attention words (spec/10). -/

namespace Sys2Proof.Machine

/-! ### Ring indices (R170, R174) -/

/-- The request producer index is taken, or ignored with FORMAT above 15 (R170). -/
def takeProducer (v : Word) (s : State) : State :=
  if v.toNat ≤ 15 then s.setReader { s.reader with producer := v.toNat } else raiseFactor .format s

/-- Whether a consumer index is taken (R174). -/
def consumerOk (c old producer : Nat) : Bool :=
  decide (c ≤ 63) && decide ((c + 64 - old) % 64 ≤ (producer + 64 - old) % 64)

/-- The event consumer index is taken, or ignored with FORMAT (R174). -/
def takeConsumer (v : Word) (s : State) : State :=
  if consumerOk v.toNat s.evw.consumer s.evw.producer then
    s.setEvw { s.evw with consumer := v.toNat }
  else raiseFactor .format s

/-! ### Settings (R175, R176) -/

/-- A word of the settings record replaces that word of the staging copy (R175). -/
def takeSettingsWord (i : Nat) (v : Word) (s : State) : State :=
  s.setSettings { s.settings with staging := s.settings.staging.set i v }

/-- Whether a commit is refused BUSY (R175, case 1). -/
def commitBusy (s : State) : Bool :=
  !s.settings.firstCommit &&
    (s.meter.state != .vacant || s.emerg.state != .quiet || !s.uplink.entries.isEmpty ||
      (findJob s).isSome)

/-- The receiver at an accepted commit (R63). -/
def Receiver.commit (r : Receiver) : Receiver :=
  { r.hunt with bufA := .free, bufB := .free, dedupe := [], badRun := 0, linkPoor := false }

/-- The link restarts by the supervisor state the commit finds (R99). -/
def restartLink (tag : Half) (s : State) : State :=
  match s.link.state with
  | .offline => if s.settings.accepted.cab = 0 then s else enterPowerOn .commit tag s
  | .powerOnWait => enterPowerOn .commit tag s
  | .powerOff | .failed => s
  | _ => enterListen s

/-- The settings of the staging copy are accepted, with the clock set (R176). -/
def adoptSettings (s : State) : State :=
  let n := settingsOf s.settings.staging
  let t := s.setSettings { s.settings with
    accepted := n, firstCommit := s.settings.firstCommit && n.cab == 0 }
  if n.clockSet = 0 then t else t.setClock n.clockSet

/-- An accepted commit is applied to every block that reads the settings (R63, R89, R99, R121, R176). -/
def acceptCommit (tag : Half) (s : State) : State :=
  let t := adoptSettings s
  let u := (t.setRx t.rx.commit).setLink { t.link.idle with seqCounter := 0 }
  tripTest (closeOpen .settings (restartLink tag u))

/-- Every commit sets the last result, the result stale mark and the pending report (R176). -/
def recordCommit (tag : Half) (outcome : CommitOutcome) (field : Nat) (s : State) : State :=
  let t := s.setSettings { s.settings with
    result := { tag := tag, outcome := outcome, field := field } }
  setSettingsReport tag (.settingsTaken outcome field)
    (t.setEvw { t.evw with resultStale := true })

/-- A commit is judged: busy, then ranges, else accepted (R175). The reports of an accepted commit, LINK_STATE and then OFFER_CLOSED(SETTINGS), are produced before its SETTINGS_TAKEN, which is the model's order (log entry 22). -/
def judgeCommit (tag : Half) (s : State) : State :=
  if commitBusy s then recordCommit tag .busy 0 s
  else
    match firstBadField s.settings.firstCommit s.settings.staging with
    | some n => recordCommit tag .range n s
    | none => recordCommit tag .accepted 0 (acceptCommit tag s)

/-- A full-word write to the settings commit word; its low 16 bits are the tag (R175). -/
def takeCommit (v : Word) (s : State) : State := placeHeld (judgeCommit (v.setWidth 16) s)

/-! ### Position (R177) -/

/-- A word of the position record replaces that word of the staging copy. -/
def takePositionWord (i : Nat) (v : Word) (s : State) : State :=
  s.setPosition { s.position with staging := s.position.staging.set i v }

/-- A full-word write to the position commit word (R177). -/
def takePosition (s : State) : State :=
  match positionOf s.position.staging with
  | some p => s.setPosition { s.position with record := some p, fixAge := 0 }
  | none => raiseFactor .format s

/-! ### Attention (R178) -/

/-- A full-word write to the attention word clears the factors written as 1 whose conditions are absent (R178). -/
def writeAttention (v : Word) (s : State) : State :=
  s.setAttn { s.attn with
    factors := s.attn.factors &&& ~~~(v.setWidth 9 &&& ~~~(conditions s)) }

/-- A full-word write to the attention enable word replaces the enables (R178). -/
def writeEnables (v : Word) (s : State) : State := s.setAttn { s.attn with enables := v.setWidth 9 }

/-! ### The value of a snooped full-word write goes to its owner (R161, Table 36) -/

/-- The owner of a snooped word takes its value, at the completion of the memory write (R161). -/
def snoopTake (off : Nat) (v : Word) (s : State) : State :=
  if off < 0x003C then takeSettingsWord (off / 4) v s
  else if off = 0x003C then takeCommit v s
  else if off = 0x0040 then takeProducer v s
  else if off = 0x004C then takeConsumer v s
  else if 0x0060 ≤ off ∧ off < 0x006C then takePositionWord ((off - 0x0060) / 4) v s
  else if off = 0x006C then takePosition s
  else if off = 0x0074 then writeEnables v s
  else s

/-- A snooped write reaches memory with its lanes; a full-word value is taken, a partial write sets FORMAT (R161). -/
def snoopedWrite (off : Nat) (lanes : BitVec 4) (v : Word) (s : State) : State :=
  let t := s.setMem (Memory.writeLanes s.mem (baseOf s + off) lanes v)
  if lanes = fullLanes then snoopTake off v t else raiseFactor .format t

/-- A write that needs the terminal area served (R168). -/
def whenOpen (f : State → State) (s : State) : State := if areaOpen s then f s else s

/-- REQUEST_PRODUCER_INDEX_WRITE (R170). -/
def execRequestProducerIndexWrite (v : Word) (s : State) : Out :=
  .next (whenOpen (snoopedWrite 0x0040 fullLanes v) s)

/-- EVENT_CONSUMER_INDEX_WRITE (R174). -/
def execEventConsumerIndexWrite (v : Word) (s : State) : Out :=
  .next (whenOpen (snoopedWrite 0x004C fullLanes v) s)

/-- SETTINGS_COMMIT (R175). -/
def execSettingsCommit (v : Word) (s : State) : Out :=
  .next (whenOpen (snoopedWrite 0x003C fullLanes v) s)

/-- POSITION_COMMIT (R177). -/
def execPositionCommit (v : Word) (s : State) : Out :=
  .next (whenOpen (snoopedWrite 0x006C fullLanes v) s)

/-- ATTENTION_ENABLE_WRITE (R178). -/
def execAttentionEnableWrite (v : Word) (s : State) : Out :=
  .next (whenOpen (snoopedWrite 0x0074 fullLanes v) s)

/-- ATTENTION_WORD_WRITE (R163, R178): memory is unchanged. -/
def execAttentionWordWrite (v : Word) (s : State) : Out := .next (whenOpen (writeAttention v) s)

/-- The word offset of a byte offset (R158). -/
def wordOffset (off : Half) : Nat := off.toNat / 4 * 4

/-- SNOOPED_WORD_WRITE (R161); an offset that is not snooped is no such command (log entry 3). -/
def execSnoopedWordWrite (off : Half) (lanes : BitVec 4) (v : Word) (s : State) : Out :=
  .next (whenOpen (fun t =>
    if treatment (wordOffset off) = .snoop then snoopedWrite (wordOffset off) lanes v t else t) s)

/-! ### Guarded words and the snapshot (R162, R164) -/

/-- A discarded write is counted and sets GUARD (R162). -/
def guardViolation (s : State) : State :=
  raiseFactor .guard
    (s.setPath { s.path with guardCount := satAdd Config.max16 s.path.guardCount 1 })

/-- GUARD_VIOLATION (R162): the write is full or partial, its value is discarded. -/
def execGuardViolation (off : Half) (_lanes : BitVec 4) (_v : Word) (s : State) : Out :=
  .next (whenOpen (fun t =>
    if treatment (wordOffset off) = .guard ∨ treatment (wordOffset off) = .liveZone
    then guardViolation t else t) s)

/-- A snapshot is latched (R164). -/
def latch (s : State) : State := s.setPath { s.path with snapshot := snapshotWords s }

/-- The answer to a read completed without the port. -/
def answerWith (w : Word) (s : State) : State := s.setPath { s.path with answer := some w }

/-- A word of the snapshot in force. -/
def snapshotWord (i : Nat) (s : State) : Word := s.path.snapshot.getD i 0

/-- A read of word 0 of the live meter zone (R164). -/
def latchAndAnswer (s : State) : State :=
  let t := latch s
  answerWith (snapshotWord 0 t) t

/-- SNAPSHOT_LATCH (R164). -/
def execSnapshotLatch (s : State) : Out := .next (whenOpen latchAndAnswer s)

end Sys2Proof.Machine
end

