-- ==== Sys2Proof/Machine/Path.lean ====
section
/-! DEFINITION. The path switch and the port arbiter: a processor access arrives, is granted the port, completes (spec/09 R158 to R166). -/

namespace Sys2Proof.Machine

/-! ### The port arbiter (R166) -/

/-- The agent has a word ready (R166): an initial write, or a task of its list. -/
def agentReady (s : State) : Bool :=
  s.phase = .running &&
    match s.agent.initial with
    | .notBegun => false
    | .writing left => !left.isEmpty
    | .done => !s.agent.tasks.isEmpty

/-- The processor's access waits for the port. -/
def processorWaits (s : State) : Bool :=
  match s.path.inHand with
  | some h => h.stage == .waiting
  | none => false

/-- The stage of the access in hand. -/
def setStage (st : AccessStage) (p : Path) : Path :=
  { p with inHand := p.inHand.map (fun h => { h with stage := st }) }

/-- The access in hand is granted the port. -/
def grantProcessor (passed : Nat) (s : State) : State :=
  s.setPath { setStage .onPort s.path with port := .processor, passCount := passed }

/-- An agent word is granted the port, and the pass count becomes 0. -/
def grantAgent (s : State) : State := s.setPath { s.path with port := .agent, passCount := 0 }

/-- The free port is granted (R166). -/
def arbitrate (s : State) : State :=
  if s.path.port = .free then
    match processorWaits s, agentReady s with
    | true, true =>
      if s.path.passCount < Config.passMax then grantProcessor (s.path.passCount + 1) s
      else grantAgent s
    | true, false => grantProcessor s.path.passCount s
    | false, true => grantAgent s
    | false, false => s
  else s

/-- PORT_GRANT (R166). -/
def execPortGrant (s : State) : Out := .next (arbitrate s)

/-! ### Classification (R159 to R164) -/

def holdAccess (a : Access) (st : AccessStage) (s : State) : State :=
  s.setPath { s.path with inHand := some { access := a, stage := st } }

/-- The access completes at the processor port. -/
def dropAccess (s : State) : State := s.setPath { s.path with inHand := none }

/-- The live attention factors as a word; bits 9 to 31 read 0 (R163, Table 42). -/
def attentionWord (s : State) : Word := s.attn.factors.setWidth 32

/-- An access that does not use the port is completed by the path switch (R160, R162, R163, R164). -/
def completeInside (off : Nat) (a : Access) (s : State) : State :=
  match treatment off with
  | .attention =>
    match a.write with
    | none => answerWith (attentionWord s) s
    | some v => if a.lanes = fullLanes then writeAttention v s else raiseFactor .format s
  | .liveZone =>
    match a.write with
    | none =>
      if off = 0x0100 then latchAndAnswer s else answerWith (snapshotWord ((off - 0x0100) / 4) s) s
    | some _ => guardViolation s
  | _ => guardViolation s

/-- An access in the terminal area is treated by its offset (R159). -/
def treatAccess (off : Nat) (a : Access) (s : State) : State :=
  if usesPort (treatment off) a then holdAccess a .waiting s else completeInside off a (dropAccess s)

/-- An access is classified: held, passed on, or treated (R158, R160, R167, R168). -/
def classify (a : Access) (s : State) : State :=
  if s.phase = .running then
    match s.path.base with
    | some b =>
      match offsetIn b a with
      | some off => if s.agent.initial = .done then treatAccess off a s else holdAccess a .held s
      | none => holdAccess a .waiting s
    | none => holdAccess a .held s
  else holdAccess a .held s

/-- PROCESSOR_ACCESS (R160): the processor presents one access at a time; one that uses the port claims it beside an agent word that is ready (R166; log entry 21). -/
def execProcessorAccess (a : Access) (s : State) : Out :=
  .next (if s.path.inHand.isSome then s
    else
      let t := classify a s
      if processorWaits t then arbitrate t else t)

/-- A held access is classified again at the event that ends its hold (R167, R168). -/
def resumeAccess (s : State) : State :=
  match s.path.inHand with
  | some h => if h.stage = .held then classify h.access s else s
  | none => s

/-! ### The end of an access on the port (R160, R161) -/

/-- What memory does with the access: a read returns the word, a write takes the enabled lanes (R160). -/
def accessMemory (a : Access) (s : State) : State :=
  match a.write with
  | none => answerWith (Memory.readWord s.mem (wordAddr a)) s
  | some v => s.setMem (Memory.writeLanes s.mem (wordAddr a) a.lanes v)

/-- The offset of a snooped write in the area in force. -/
def snoopOffset (a : Access) (s : State) : Option Nat :=
  match s.path.base.bind (fun b => offsetIn b a) with
  | some off => if treatment off = .snoop then some off else none
  | none => none

/-- The value of a snooped write is taken, or FORMAT set for a partial one (R161). -/
def snoopAccess (a : Access) (s : State) : State :=
  match a.write, snoopOffset a s with
  | some v, some off => if a.lanes = fullLanes then snoopTake off v s else raiseFactor .format s
  | _, _ => s

/-- The port becomes free. -/
def freePort (s : State) : State := s.setPath { s.path with port := .free }

/-- The access on the port ends and completes at the processor port (R160, R161). -/
def finishAccess (a : Access) (s : State) : State :=
  snoopAccess a (dropAccess (freePort (accessMemory a s)))

/-- PROCESSOR_ACCESS_COMPLETE (R161): memory returns ready for the processor's access; the free port is granted next, to an access presented back to back or by PORT_GRANT (R166; log entry 21). -/
def execProcessorAccessComplete (s : State) : Out :=
  .next (
    let t := arbitrate s
    match t.path.inHand with
    | some h =>
      if t.path.port = .processor ∧ h.stage = .onPort then finishAccess h.access t else s
    | none => s)

end Sys2Proof.Machine
end

