-- ==== Sys2Proof/Machine/Agent.lean ====
section
/-! DEFINITION. The memory agent: words, tasks, completion reports, the initial writes, and the starts of event and fetch tasks (spec/09 R165, R168; spec/10 R170, R173, R174). -/

namespace Sys2Proof.Machine

/-! ### One agent word (R165) -/

/-- The bytes of a word, lane 0 first. -/
def wordBytes (w : Word) : List Byte := [lane w 0, lane w 1, lane w 2, lane w 3]

def setTasks (ts : List Task) (s : State) : State := s.setAgent { s.agent with tasks := ts }

/-- What a word does to memory, with the values of this moment (R165). -/
def wordToMemory (w : AgentWord) (s : State) : State :=
  match w with
  | .read _ => s
  | .write off v => agentWrite off v s
  | .producer v => agentWrite 0x0048 (w32 v) s
  | .generated => agentWrite 0x0050 s.evw.generated s
  | .lost => agentWrite 0x0054 s.evw.lost s
  | .result => agentWrite 0x005C (resultWord s.settings.result) s

/-- The event is deposited: the producer index advances, the event leaves the queue, EVENT is set (R174). -/
def deposit (v : Nat) (s : State) : State :=
  match s.evw.queue with
  | _ :: es =>
    raiseFactor .event (s.setEvw { s.evw with
      producer := v, queue := es, deposited := s.evw.deposited + 1 })
  | [] => s

/-- What the end of a word does in the part: bytes read, marks written cleared, a deposit (R165, R173, R174). -/
def wordToPart (w : AgentWord) (s : State) : State :=
  match w with
  | .read off =>
    match s.agent.tasks with
    | t :: ts =>
      setTasks ({ t with bytes := t.bytes ++ wordBytes (Memory.readWord s.mem (baseOf s + off)) } :: ts) s
    | [] => s
  | .lost => s.setEvw { s.evw with countersStale := false }
  | .result => s.setEvw { s.evw with resultStale := false }
  | .producer v => deposit v s
  | .write _ _ | .generated => s

/-- The words left once a result word that is not stale is passed over (R165). -/
def wordsAfter (ws : List AgentWord) (s : State) : List AgentWord :=
  if ws = [.result] ∧ s.evw.resultStale = false then [] else ws

/-- The first task takes the words left. -/
def setWords (ws : List AgentWord) (s : State) : State :=
  match s.agent.tasks with
  | t :: ts => setTasks ({ t with words := some ws } :: ts) s
  | [] => s

/-! ### Completion reports (R165) -/

/-- The FETCH has read the request, which is taken at once or kept (R170, step 3). -/
def fetchDone (bs : List Byte) (s : State) : State :=
  takeWork (s.setReader { s.reader with kept := some bs })

/-- The trip-log write is complete (R32); a record that has meanwhile taken its place is written in turn. -/
def tripLogDone (n : Nat) (s : State) : State :=
  match s.trip.logWrite with
  | some t =>
    if t.number = n then s.setTrip { s.trip with logIndex := n, logWrite := none }
    else requestTask .tripLog (s.setTrip { s.trip with logIndex := n })
  | none => s

/-- The black-box write is complete (R152). -/
def boxWriteDone (s : State) : State :=
  match s.emerg.boxMark with
  | .rewrite => requestTask .blackBox (s.setEmerg { s.emerg with boxMark := .pending })
  | .pending | .clear => s.setEmerg { s.emerg with boxMark := .clear }

/-- The requester's completion report. -/
def taskReport (t : Task) (s : State) : State :=
  match t.kind with
  | .fetch _ => fetchDone t.bytes s
  | .index | .event _ => s
  | .tripLog => tripLogDone t.number s
  | .blackBox => boxWriteDone s

/-- The pass count becomes 0 when the list becomes empty (R166). -/
def clearPass (s : State) : State :=
  if s.agent.tasks.isEmpty then s.setPath { s.path with passCount := 0 } else s

/-- The first task leaves the list, its requester is told, and the next begins (R165). -/
def completeTask (s : State) : State :=
  match s.agent.tasks with
  | t :: ts => beginTask (taskReport t (clearPass (setTasks ts s)))
  | [] => s

/-- The first task has no word left. -/
def taskFinished (s : State) : Bool :=
  match s.agent.tasks with
  | t :: _ => t.words == some []
  | [] => false

/-- A deposit frees a place: waiting reports first, then waiting work (R172, R60, R170). -/
def afterWord (w : AgentWord) (s : State) : State :=
  match w with
  | .producer _ => takeWork (placeHeld s)
  | _ => s

/-- A word of the first task ends (R165). -/
def taskWordEnd (w : AgentWord) (ws : List AgentWord) (s : State) : State :=
  let t := wordToPart w (wordToMemory w s)
  let u := afterWord w (setWords (wordsAfter ws t) t)
  if taskFinished u then completeTask u else u

/-! ### The initial writes (R168) -/

/-- The 70 initial writes with the values of the release (R168). -/
def initialWords (s : State) : List (Nat × Word) :=
  [ (0x0044, 0), (0x0048, 0), (0x0050, 0), (0x0054, 0), (0x005C, resultWord s.settings.result),
    (0x0058, w32 s.trip.logIndex) ] ++
  (wordsOf (boxBytes s.emerg.box)).zipIdx.map (fun p => (0x4000 + 4 * p.2, p.1))

/-- The write mark when the initial writes are done (R152, R168). -/
def initialBoxMark (s : State) : State :=
  match s.emerg.boxMark with
  | .rewrite => requestTask .blackBox (s.setEmerg { s.emerg with boxMark := .pending })
  | .pending | .clear => s.setEmerg { s.emerg with boxMark := .clear }

/-- The initial writes are done: a held access is treated, listed tasks begin, waiting requesters request (R168), the trip-log write before the black box, which is the model's order (log entry 22). -/
def initialDone (s : State) : State :=
  let t := beginTask (s.setAgent { s.agent with initial := .done })
  let u := if t.trip.logWrite.isSome then requestTask .tripLog t else t
  resumeAccess (initialBoxMark u)

/-- An initial write ends. -/
def initialWordEnd (off : Nat) (v : Word) (left : List (Nat × Word)) (s : State) : State :=
  let t := (agentWrite off v s).setAgent { s.agent with initial := .writing left }
  if left.isEmpty then initialDone t else t

/-! ### The agent's word ends (R165) -/

/-- The word that is on the port, or would be next, ends. -/
def agentStep (s : State) : State :=
  match s.agent.initial with
  | .writing ((off, v) :: left) => initialWordEnd off v left s
  | .done =>
    match s.agent.tasks with
    | t :: _ =>
      match t.words with
      | some (w :: ws) => taskWordEnd w ws s
      | some [] => completeTask s
      | none => beginTask s
    | [] => s
  | _ => s

/-- AGENT_WORD_END: memory returns ready for an agent word (R165, R166). -/
def execAgentWordEnd (s : State) : Out :=
  .next (
    let t := arbitrate s
    if t.path.port = .agent ∧ agentReady t = true then arbitrate (agentStep (freePort t)) else s)

/-! ### Runs of agent words with the processor quiet (log entry 20) -/

/-- No processor access waits for the port or is on it. -/
def portQuiet (s : State) : Bool :=
  s.path.port != .processor &&
    match s.path.inHand with
    | some h => h.stage == .held
    | none => true

/-- The words left in the first task. -/
def headWords (s : State) : List AgentWord :=
  match s.agent.tasks with
  | t :: _ => t.words.getD []
  | [] => []

/-- Whether the end of the next word completes the first task. -/
def lastWord (s : State) : Bool :=
  match headWords s with
  | [] => true
  | [_] => true
  | [_, .result] => !s.evw.resultStale
  | _ => false

/-- The words of the first task end, up to its completion; at most n of them. -/
def runTask : Nat → State → State
  | 0, s => s
  | n + 1, s => if lastWord s then agentStep s else runTask n (agentStep s)

/-- The next word is the event producer index word. -/
def nextIsProducer (s : State) : Bool :=
  match headWords s with
  | .producer _ :: _ => true
  | _ => false

/-- The words of the first task end, up to the event producer index word; at most n of them. -/
def runToDeposit : Nat → State → State
  | 0, s => s
  | n + 1, s => if nextIsProducer s then agentStep s else runToDeposit n (agentStep s)

/-- The kind of the first task once the agent works on it. -/
def headKind (s : State) : Option TaskKind :=
  if s.phase = .running ∧ s.agent.initial = .done then (s.agent.tasks.head?).map (·.kind) else none

/-- Whether the first task is of a kind and the port is the agent's to use. -/
def headIs (k : TaskKind) (s : State) : Bool := portQuiet s && headKind s == some k

/-- The agent has the port for the words that follow, and leaves it free after them (R166). -/
def withPort (f : State → State) (s : State) : State := freePort (f (grantAgent s))

/-- A longest task has 64 words. -/
def wordFuel : Nat := 70

/-- REQUEST_FETCH_COMPLETE (R170). -/
def execRequestFetchComplete (s : State) : Out :=
  .next (match headKind s with
    | some (.fetch _) => if portQuiet s then withPort (runTask wordFuel) s else s
    | _ => s)

/-- REQUEST_INDEX_COMPLETE (R170). -/
def execRequestIndexComplete (s : State) : Out :=
  .next (if headIs .index s then withPort (runTask wordFuel) s else s)

/-- EVENT_DEPOSITED (R174). -/
def execEventDeposited (s : State) : Out :=
  .next (if headIs (.event true) s && (headWords s).any (fun w => match w with
      | .producer _ => true
      | _ => false)
    then withPort (runToDeposit wordFuel) s else s)

/-- EVENT_TASK_COMPLETE (R173): the words after the deposit end. -/
def execEventTaskComplete (s : State) : Out :=
  .next (match headKind s with
    | some (.event _) => if portQuiet s then withPort (runTask wordFuel) s else s
    | _ => s)

/-- TRIP_LOG_WRITE_COMPLETE (R32). -/
def execTripLogWriteComplete (s : State) : Out :=
  .next (if headIs .tripLog s then withPort (runTask wordFuel) s else s)

/-- BLACK_BOX_WRITE_COMPLETE (R152). -/
def execBlackBoxWriteComplete (s : State) : Out :=
  .next (if headIs .blackBox s then withPort (runTask wordFuel) s else s)

/-- The initial writes left are made. -/
def writeAll : List (Nat × Word) → State → State
  | [], s => s
  | p :: ps, s => writeAll ps (agentWrite p.1 p.2 s)

/-- INITIAL_WRITES_DONE (R168). -/
def execInitialWritesDone (s : State) : Out :=
  .next (match s.agent.initial with
    | .writing left =>
      if portQuiet s then arbitrate (withPort (fun t => initialDone (writeAll left t)) s) else s
    | _ => s)

/-! ### The starts of tasks (R170, R173, R174) -/

/-- Whether the request reader can request a FETCH (R170, steps 1 and 2). -/
def canFetch (s : State) : Bool :=
  s.phase = .running && s.agent.initial = .done && s.reader.consumer != s.reader.producer &&
    s.reader.kept.isNone && !taskListed .index s && twoFree s

/-- REQUEST_FETCH_START (R170). -/
def execRequestFetchStart (s : State) : Out :=
  .next (if canFetch s then requestTask (.fetch s.reader.consumer) s else s)

/-- Whether an event task with an event is due (R174). -/
def depositDue (s : State) : Bool :=
  !s.evw.queue.isEmpty && decide ((s.evw.producer + 64 - s.evw.consumer) % 64 < Config.eventRingMax)

/-- Whether an event task without an event is due (R173). -/
def staleDue (s : State) : Bool := s.evw.countersStale || s.evw.resultStale

/-- The event task requested when one is due: with an event if one can be deposited, stale mark or not, which is the model's choice (R173, R174; log entry 22). -/
def startEventTask (s : State) : State :=
  if s.phase = .running ∧ taskListed (.event true) s = false then
    if depositDue s then requestTask (.event true) s
    else if staleDue s then requestTask (.event false) s
    else s
  else s

/-- EVENT_TASK_START (R173, R174). -/
def execEventTaskStart (s : State) : Out := .next (startEventTask s)

/-- HELD_REPORT_PLACED (R172): one free place goes to the report produced earliest. -/
def execHeldReportPlaced (s : State) : Out := .next (placeOne s)

end Sys2Proof.Machine
end

