-- ==== Sys2Proof/Machine/Resets.lean ====
section
/-! DEFINITION. The resets: power-up, the assertion and the release of RESET, and the straps (spec/09 R158, R167; the reset rules of each chapter). -/

namespace Sys2Proof.Machine

/-! ### Full reset -/

/-- Power applied with the keep-alive supply absent: every block takes its full-reset values; lines, memory and the command queue stay (R1, R27, R64, R65, R90, R123, R136, R138, R167, R175; log entries 8, 9). -/
def fullReset (s : State) : State :=
  { State.reset with pins := s.pins, mem := s.mem, book := { s.book with counted := false },
                     pending := s.pending,
                     emerg := Emergency.reset s.pins.esw }

/-- FULL_RESET (R27). -/
def execFullReset (s : State) : Out := .next (fullReset s)

/-! ### The assertion of RESET -/

/-- The next agent word, if the agent works. -/
def nextAgentWord (s : State) : Option AgentWord :=
  match s.agent.initial with
  | .writing ((off, v) :: _) => some (.write off v)
  | .done => (headWords s).head?
  | _ => none

/-- What is on the memory port at the assertion finishes there; nothing is taken and nothing reported (R167). -/
def finishPort (s : State) : State :=
  match s.path.port with
  | .agent =>
    match nextAgentWord s with
    | some w => wordToMemory w s
    | none => s
  | .processor =>
    match s.path.inHand with
    | some h =>
      match h.access.write with
      | some v => s.setMem (Memory.writeLanes s.mem (wordAddr h.access) h.access.lanes v)
      | none => s
    | none => s
  | .free => s

/-- A TRIP entry already answered takes its trip out of the backlog when the queue is emptied (R35, R42). -/
def settleTrip (s : State) : State :=
  if s.uplink.entries.any (fun e => e.cls == .trip && e.answered) then tripLeaves s else s

/-- The emergency controller at the assertion (R154); a rewrite mark becomes a plain pending one, as the request it stands for ends with the task list (R167; log entry 34). -/
def Emergency.assert (e : Emergency) : Emergency :=
  { e with owed := none, repeatTimer := none, cooldownTimer := none, trackTimer := none,
           boxMark := if e.boxMark = .rewrite then .pending else e.boxMark }

/-- The blocks outside the keep-alive domain at their reset values (R64, R65, R89, R90, R123, R136, R167, R170, R173, R174, R177, R178). -/
def clearBlocks (s : State) : State :=
  { s with phase := .terminalReset, rx := Receiver.reset, link := Link.reset,
           uplink := Uplink.reset, sup := Supervisor.reset, offers := OfferTable.reset,
           pool := Pool.reset, path := Path.reset, agent := Agent.reset, reader := Reader.reset,
           evw := EventWriter.reset, position := PositionShadow.reset, attn := Attention.reset }

/-- RESET is asserted (R167). -/
def assertReset (s : State) : State :=
  let t := settleTrip (finishPort (arbitrate s))
  clearBlocks (t.setEmerg t.emerg.assert)

/-- RESET_ASSERT (R167). -/
def execResetAssert (s : State) : Out := .next (if s.phase = .running then assertReset s else s)

/-! ### The release of a reset -/

/-- The base sampled, and at the end of a full reset the switch armed by the ESW level (R158, R139). -/
def sampleLines (s : State) : State :=
  let t := s.setPath { s.path with base := some (strapBase s.pins) }
  let u := if s.phase = .fullReset then t.setEmerg { t.emerg with armed := s.pins.esw } else t
  u.setPhase .running

/-- The supervisor reads the cab number: OFFLINE or POWER_ON_WAIT, with LINK_STATE (R91, R100; log entry 17). -/
def startSupervisor (s : State) : State :=
  if s.settings.accepted.cab = 0 then
    reportLink .offline .offline .release 0 (s.setLink { s.link with state := .offline })
  else
    reportLink .offline .powerOnWait .release 0
      ((s.setSup { s.sup with ready := some Config.readySeconds }).setLink
        { s.link with state := .powerOnWait })

/-- A RDY already high leaves POWER_ON_WAIT at once (R91). -/
def checkReady (s : State) : State :=
  if s.link.state = .powerOnWait ∧ s.pins.rdy = true then rdyUp s else s

/-- The emergency controller resumes the call (R155); a cooldown of 0 ends at the next tick, which is the model's choice (log entry 30). -/
def resumeCall (s : State) : State :=
  match s.emerg.state with
  | .calling =>
    let t := offerAlarm .call (s.setEmerg { s.emerg with attempt := 1 })
    t.setEmerg { t.emerg with repeatTimer := some t.settings.accepted.repeatInterval }
  | .cooldown => s.setEmerg { s.emerg with cooldownTimer := some s.settings.accepted.cooldown }
  | .tracking => trackNow s
  | .quiet | .exhausted => s

/-- A running holdoff restarts at 60 s (R37). -/
def restartHoldoff (s : State) : State :=
  s.setTrip { s.trip with holdoff := s.trip.holdoff.map (fun _ => Config.holdoffSeconds) }

/-- Each condition factor whose condition is present is set (R178). -/
def presentConditions (s : State) : State :=
  s.setAttn { s.attn with factors := s.attn.factors ||| conditions s }

/-- The initial writes begin (R168). -/
def beginInitial (s : State) : State :=
  s.setAgent { s.agent with initial := .writing (initialWords s) }

/-- RESET is released (R167; order: log entry 16). -/
def releaseReset (s : State) : State :=
  let t := restartHoldoff (latch (startSupervisor (sampleLines s)))
  let u := tripTest (resumeCall (checkReady t))
  arbitrate (placeHeld (resumeAccess (beginInitial (presentConditions u))))

/-- RESET_RELEASE (R167). -/
def execResetRelease (s : State) : Out :=
  .next (if s.phase = .running then s else releaseReset s)

/-- STRAP_CHANGE: the levels that the next release samples (R158, R169). -/
def execStrapChange (base1 base0 : Bool) (s : State) : Out :=
  .next (s.setPins { s.pins with base1 := base1, base0 := base0 })

end Sys2Proof.Machine
end

