-- ==== Sys2Proof/Machine/Time.lean ====
section
/-! DEFINITION. The second tick of the keep-alive time base: the meter's second, the clock, the fix age, the timers in seconds and what ends with them (spec/01 R16; spec/05 R90; log entries 4, 15). -/

namespace Sys2Proof.Machine

/-! ### Counting -/

/-- The terminal clock and the time base (R27; wrap: log entry 10). -/
def tickClock (s : State) : State := (s.setClock (s.clock + 1)).setSecs (s.secs + 1)

/-- The fix age (R177); held while a reset holds. -/
def tickFix (s : State) : State :=
  if s.phase = .running then
    s.setPosition { s.position with fixAge := satAdd Config.max16 s.position.fixAge 1 }
  else s

/-- Every count of a tick; the timers' are already taken where a timer's end row came first (log entry 4). -/
def countTick (s : State) : State := markTick false (openTick (tickFix (tickClock s)))

/-! ### Ends (log entry 15) -/

/-- The supervisor's timers that have run out (R91 to R96): healthy first. -/
def endSup (s : State) : State :=
  whenDue (·.sup.powerOff) powerOffEnd
    (whenDue (·.sup.ready) readyEnd
      (whenDue (·.sup.stuckBusy) stuckBusyEnd (whenDue (·.sup.healthy) healthyEnd s)))

/-- The windows of the first n entries that have run out (R110). -/
def endWindows : Nat → State → State
  | 0, s => s
  | n + 1, s => whenDue (remainingOf n) (windowEnd n) (endWindows n s)

/-- The award wait that has run out (R114). -/
def endAward (s : State) : State :=
  whenDue awardRemaining awardWaitEnd s

/-- The contention clock has certainly passed the dwell (R87; log entry 24). -/
def endDwell (s : State) : State :=
  match s.link.clock with
  | some n =>
    if s.link.state = .contend ∧ s.settings.accepted.dwell < n ∧ s.link.dwellPassed = false
    then dwellEnd s else s
  | none => s

/-- The emergency controller's timers that have run out (R143, R144, R146, R148). -/
def endEmerg (s : State) : State :=
  whenDue (·.emerg.graceTimer) graceEnd
    (whenDue trackLeft trackNow
      (whenDue cooldownLeft nextRound (whenDue repeatLeft repeatEnd s)))

/-- Every timer that has run out at this tick. -/
def endTimers (s : State) : State :=
  endEmerg (endDwell (whenDue (·.trip.holdoff) holdoffEnd
    (endAward (endWindows Config.tableSize (endSup s)))))

/-- The second tick (R16, R90, R110, R114, R138). -/
def secondTick (s : State) : State := placeHeld (endTimers (countTick (meterTick s)))

/-- SECOND_TICK (R16): the ticks start at the end of a full reset (R1). -/
def execSecondTick (s : State) : Out :=
  .next (if s.phase = .fullReset then s else secondTick s)

end Sys2Proof.Machine
end

