-- ==== Sys2Proof/Machine/Dispatch.lean ====
section
/-! DEFINITION. One arm for each command: its meaning. -/

namespace Sys2Proof.Machine

/-- The effect of a command on everything but the queue. -/
def exec (i : Instr) (s : State) : Host.Outcome State Fault Refusal :=
  match i with
  | .fullReset => Sys2Proof.Machine.execFullReset s
  | .resetAssert => Sys2Proof.Machine.execResetAssert s
  | .resetRelease => Sys2Proof.Machine.execResetRelease s
  | .initialWritesDone => Sys2Proof.Machine.execInitialWritesDone s
  | .odoPulse => Sys2Proof.Machine.execOdoPulse s
  | .secondTick => Sys2Proof.Machine.execSecondTick s
  | .holdoffEnd => Sys2Proof.Machine.execHoldoffEnd s
  | .tripEnqueue => Sys2Proof.Machine.execTripEnqueue s
  | .tariff f => Sys2Proof.Machine.execTariff f s
  | .meterHire tag slot => Sys2Proof.Machine.execMeterHire tag slot s
  | .meterStop tag => Sys2Proof.Machine.execMeterStop tag s
  | .meterResume tag => Sys2Proof.Machine.execMeterResume tag s
  | .meterExtra tag amount code => Sys2Proof.Machine.execMeterExtra tag amount code s
  | .meterClear tag => Sys2Proof.Machine.execMeterClear tag s
  | .tariffSelect tag slot => Sys2Proof.Machine.execTariffSelect tag slot s
  | .shiftClose tag => Sys2Proof.Machine.execShiftClose tag s
  | .dutySet tag value => Sys2Proof.Machine.execDutySet tag value s
  | .accept tag id => Sys2Proof.Machine.execAccept tag id s
  | .decline tag id => Sys2Proof.Machine.execDecline tag id s
  | .sendText tag canned text => Sys2Proof.Machine.execSendText tag canned text s
  | .alarmRaise tag => Sys2Proof.Machine.execAlarmRaise tag s
  | .alarmCancel tag => Sys2Proof.Machine.execAlarmCancel tag s
  | .blackboxClear tag => Sys2Proof.Machine.execBlackboxClear tag s
  | .linkRestart tag => Sys2Proof.Machine.execLinkRestart tag s
  | .requestUnknown tag code => Sys2Proof.Machine.execRequestUnknown tag code s
  | .requestProducerIndexWrite value => Sys2Proof.Machine.execRequestProducerIndexWrite value s
  | .requestFetchStart => Sys2Proof.Machine.execRequestFetchStart s
  | .requestFetchComplete => Sys2Proof.Machine.execRequestFetchComplete s
  | .requestIndexComplete => Sys2Proof.Machine.execRequestIndexComplete s
  | .eventConsumerIndexWrite value => Sys2Proof.Machine.execEventConsumerIndexWrite value s
  | .eventTaskStart => Sys2Proof.Machine.execEventTaskStart s
  | .eventDeposited => Sys2Proof.Machine.execEventDeposited s
  | .eventTaskComplete => Sys2Proof.Machine.execEventTaskComplete s
  | .heldReportPlaced => Sys2Proof.Machine.execHeldReportPlaced s
  | .tripLogWriteComplete => Sys2Proof.Machine.execTripLogWriteComplete s
  | .blackBoxWriteComplete => Sys2Proof.Machine.execBlackBoxWriteComplete s
  | .agentWordEnd => Sys2Proof.Machine.execAgentWordEnd s
  | .portGrant => Sys2Proof.Machine.execPortGrant s
  | .processorAccess a => Sys2Proof.Machine.execProcessorAccess a s
  | .processorAccessComplete => Sys2Proof.Machine.execProcessorAccessComplete s
  | .snoopedWordWrite offset lanes value => Sys2Proof.Machine.execSnoopedWordWrite offset lanes value s
  | .guardViolation offset lanes value => Sys2Proof.Machine.execGuardViolation offset lanes value s
  | .snapshotLatch => Sys2Proof.Machine.execSnapshotLatch s
  | .attentionWordWrite value => Sys2Proof.Machine.execAttentionWordWrite value s
  | .attentionEnableWrite value => Sys2Proof.Machine.execAttentionEnableWrite value s
  | .settingsCommit value => Sys2Proof.Machine.execSettingsCommit value s
  | .positionCommit value => Sys2Proof.Machine.execPositionCommit value s
  | .rxdCharacter bits parity stop1 stop2 => Sys2Proof.Machine.execRxdCharacter bits parity stop1 stop2 s
  | .gapLimitEnd => Sys2Proof.Machine.execGapLimitEnd s
  | .syncHalfPauseEnd => Sys2Proof.Machine.execSyncHalfPauseEnd s
  | .offer f => Sys2Proof.Machine.execOffer f s
  | .award f => Sys2Proof.Machine.execAward f s
  | .reject f => Sys2Proof.Machine.execReject f s
  | .withdraw f => Sys2Proof.Machine.execWithdraw f s
  | .text f => Sys2Proof.Machine.execText f s
  | .alarmAck f => Sys2Proof.Machine.execAlarmAck f s
  | .alarmEnd f => Sys2Proof.Machine.execAlarmEnd f s
  | .ack f => Sys2Proof.Machine.execAck f s
  | .poll f => Sys2Proof.Machine.execPoll f s
  | .channel f => Sys2Proof.Machine.execChannel f s
  | .channelChangeApply => Sys2Proof.Machine.execChannelChangeApply s
  | .cdRise => Sys2Proof.Machine.execCdRise s
  | .cdFall => Sys2Proof.Machine.execCdFall s
  | .slotEnd => Sys2Proof.Machine.execSlotEnd s
  | .congestionDwellEnd => Sys2Proof.Machine.execCongestionDwellEnd s
  | .keyupDelayEnd => Sys2Proof.Machine.execKeyupDelayEnd s
  | .transmissionEnd => Sys2Proof.Machine.execTransmissionEnd s
  | .tailEnd => Sys2Proof.Machine.execTailEnd s
  | .turnaroundEnd => Sys2Proof.Machine.execTurnaroundEnd s
  | .settleEnd => Sys2Proof.Machine.execSettleEnd s
  | .ackTimerEnd seq => Sys2Proof.Machine.execAckTimerEnd seq s
  | .rdyRise => Sys2Proof.Machine.execRdyRise s
  | .rdyFall => Sys2Proof.Machine.execRdyFall s
  | .readyTimerEnd => Sys2Proof.Machine.execReadyTimerEnd s
  | .stuckBusyTimerEnd => Sys2Proof.Machine.execStuckBusyTimerEnd s
  | .powerOffTimerEnd => Sys2Proof.Machine.execPowerOffTimerEnd s
  | .healthyTimerEnd => Sys2Proof.Machine.execHealthyTimerEnd s
  | .offerWindowEnd entry => Sys2Proof.Machine.execOfferWindowEnd entry s
  | .awardWaitEnd => Sys2Proof.Machine.execAwardWaitEnd s
  | .eswFall => Sys2Proof.Machine.execEswFall s
  | .eswRise => Sys2Proof.Machine.execEswRise s
  | .holdTimerEnd => Sys2Proof.Machine.execHoldTimerEnd s
  | .repeatTimerEnd => Sys2Proof.Machine.execRepeatTimerEnd s
  | .cooldownEnd => Sys2Proof.Machine.execCooldownEnd s
  | .trackingTimerEnd => Sys2Proof.Machine.execTrackingTimerEnd s
  | .graceTimerEnd => Sys2Proof.Machine.execGraceTimerEnd s
  | .alertPulseEnd => Sys2Proof.Machine.execAlertPulseEnd s
  | .strapChange base1 base0 => Sys2Proof.Machine.execStrapChange base1 base0 s

end Sys2Proof.Machine
end

