-- ==== Sys2Proof/Safety.lean ====
section
/-! DEFINITION. The device laws of the spec as predicates of a state, in the terms the statements use. -/

namespace Sys2Proof.Machine

/-- Memory keeps its canonical form. -/
def MemoryLaw (s : State) : Prop := Memory.wf s.mem = true

/-- The count of R173: generated = deposited + waiting + lost, modulo 2^32; and the queue holds at most 16 events (R172). -/
def EventLaw (s : State) : Prop :=
  s.evw.generated = s.evw.deposited + BitVec.ofNat 32 s.evw.queue.length + s.evw.lost ∧
    s.evw.queue.length ≤ 16

/-- The device law on the queue (R80): at most 12 entries, the caps of Table 20, no sequence number twice. -/
def QueueLaw (s : State) : Prop :=
  s.uplink.entries.length ≤ 12 ∧ (∀ c : UpClass, countClass c s.uplink.entries ≤ c.cap) ∧
    (s.uplink.entries.map (·.seq)).Nodup

/-- A tariff record whose fields are in the ranges of Table 6. -/
def TariffLaw (t : Tariff) : Prop := t.valid = true

/-- The live trip values read 0 (R1). -/
def Meter.blank (m : Meter) : Prop :=
  m.fare = 0 ∧ m.fareCap = false ∧ m.extras = 0 ∧ m.acc = 0 ∧ m.hiredPulses = 0 ∧ m.elapsed = 0 ∧
    m.holdSecs = 0 ∧ m.peak = 0

/-- What R1 says of the meter at all times: the active copy is present while HIRED or HOLD, a pending change only with it, the live trip values 0 in VACANT, every item in its range. -/
def MeterLaw (s : State) : Prop :=
  (s.meter.active.isSome = true ↔ s.meter.state ≠ .vacant) ∧
  (s.meter.change.isSome = true → s.meter.active.isSome = true) ∧
  (s.meter.state = .vacant → s.meter.blank) ∧
  s.meter.fare ≤ 9999999 ∧ s.meter.extras ≤ 99999 ∧ s.meter.acc < 1048576 ∧
  s.meter.slots.length = 4 ∧
  (∀ t, some t ∈ s.meter.slots → TariffLaw t) ∧
  (∀ a, s.meter.active = some a → TariffLaw a.tariff) ∧
  (s.trip.openTrip.isSome = true ↔ s.meter.state ≠ .vacant)

/-- Everything outside the radio side, the offers, the texts, the held reports, the event queue and the attention unit is unchanged. -/
def RestKept (s t : State) : Prop :=
  t.phase = s.phase ∧ t.clock = s.clock ∧ t.secs = s.secs ∧ t.meter = s.meter ∧
    t.trip.openTrip = s.trip.openTrip ∧ t.trip.next = s.trip.next ∧ t.trip.shift = s.trip.shift ∧
    t.trip.logWrite = s.trip.logWrite ∧ t.trip.logIndex = s.trip.logIndex ∧
    t.settings.accepted = s.settings.accepted ∧ t.settings.result = s.settings.result ∧
    t.path = s.path ∧ t.agent = s.agent ∧ t.reader = s.reader ∧ t.position = s.position ∧
    t.mem = s.mem ∧ t.emerg.box = s.emerg.box

/-- The memory side is unchanged: memory, path, agent, reader. -/
def MemorySideKept (s t : State) : Prop :=
  t.mem = s.mem ∧ t.path = s.path ∧ t.agent = s.agent ∧ t.reader = s.reader

/-- The event a holder of a report would place now. -/
def heldEvent (s : State) (src : HeldSource) : Option Event :=
  match src with
  | .offer i => ((s.offers.entries.getD i none).bind (·.held)).map (·.event)
  | .slot i => ((s.pool.slots.getD i none).bind (·.held)).map (·.event)
  | .trip => s.trip.reports.head?.map (·.event)
  | .emergency => s.emerg.report.map (fun r => r.event s.emerg.lastPlaced)
  | .settings => s.settings.report.map (·.event)

/-! ### Leaving LISTEN or CONTEND -/

/-- From s to v RXD becomes ignored, and what the deframer holds is given up (R45): a frame in assembly is bad, a skipped frame is an overrun, a sync pair half read is dropped without a count. -/
def LeftReceiving (s v : State) : Prop :=
  (s.rx.deframer = .header ∨ s.rx.deframer = .body ∨ s.rx.deframer = .check → v = badFrame s) ∧
  (s.rx.deframer = .skip →
    v = s.setRx { s.rx.hunt with overrun := min (s.rx.overrun + 1) 65535 }) ∧
  (s.rx.deframer = .hunt ∨ s.rx.deframer = .syncHalf → v = s.setRx s.rx.hunt)

/-- From s to t the link enters KEYUP for its target: RXD becomes ignored, the stuck-busy timer, the slot timer and the contention clock stop, the keyup delay runs (R45, R70, R92). -/
def EntersKeyup (s t : State) : Prop :=
  ∃ v, LeftReceiving s v ∧ t = (v.setSup { s.sup with stuckBusy := none }).setLink { s.link with
    state := .keyup, slotTimer := none, clock := none, dwellPassed := false,
    keyed := s.link.target, phaseTimer := some s.settings.accepted.keyupDelay }

/-- From s to t the link enters SETTLE on channel c: RXD becomes ignored, the stuck-busy timer stops, the settle time of 250 ms runs (R45, R74, R92). -/
def EntersSettle (c : Nat) (s t : State) : Prop :=
  ∃ v, LeftReceiving s v ∧ t = (v.setSup { s.sup with stuckBusy := none }).setLink { s.link with
    state := .settle, channel := c, pendingChannel := none, target := none, backoff := 0,
    slotTimer := none, clock := none, dwellPassed := false, keyed := none,
    phaseTimer := some 250, tx := [] }

/-- From s to t the link gives up contention, keying, transmission and its timers; in LISTEN and CONTEND RXD becomes ignored too (R45, R75, R94). -/
def GivesUp (s t : State) : Prop :=
  ∃ v, (s.link.state = .listen ∨ s.link.state = .contend → LeftReceiving s v) ∧
    (s.link.state ≠ .listen → s.link.state ≠ .contend → v = s) ∧
    t = v.setLink { s.link with
      target := none, backoff := 0, slotTimer := none, clock := none, dwellPassed := false,
      keyed := none, phaseTimer := none, tx := [] }

/-! ### The offer table, the message pool and the queue together -/

/-- The offer entry at an index, if it is not FREE. -/
def offerAt (i : Nat) (s : State) : Option Offer := s.offers.entries.getD i none

/-- The pool slot at an index, if it is in use. -/
def slotAt (i : Nat) (s : State) : Option Slot := s.pool.slots.getD i none

/-- At most one offer entry is BID_SENT or AWARDED (R111). -/
def JobLaw (s : State) : Prop :=
  ∀ i j o p, offerAt i s = some o → offerAt j s = some p → o.job = true → p.job = true → i = j

/-- No offer entry is OPEN outside QUIET (R121). -/
def OpenLaw (s : State) : Prop :=
  s.emerg.state ≠ .quiet → ∀ i o, offerAt i s = some o → o.state ≠ .open

/-- A BID is in the queue exactly while an offer entry in BID_SENT has its sequence number (R113). -/
def BidLaw (s : State) : Prop :=
  (∀ e ∈ s.uplink.entries, e.cls = .bid →
    ∃ i o, e.ref = .offer i ∧ offerAt i s = some o ∧ o.state = .bidSent ∧ o.bidSeq = some e.seq) ∧
  (∀ i o q, offerAt i s = some o → o.bidSeq = some q →
    o.state = .bidSent ∧ ∃ e ∈ s.uplink.entries, e.cls = .bid ∧ e.ref = .offer i ∧ e.seq = q)

/-- A pool slot is in use exactly while a TEXT entry refers to it or it holds a report (R126). -/
def SlotLaw (s : State) : Prop :=
  (∀ e ∈ s.uplink.entries, e.cls = .text →
    ∃ i x, e.ref = .slot i ∧ slotAt i s = some x ∧ x.ref = some e.seq) ∧
  (∀ i x, slotAt i s = some x → x.held ≠ none ∨ x.ref ≠ none) ∧
  (∀ i x q, slotAt i s = some x → x.ref = some q →
    ∃ e ∈ s.uplink.entries, e.cls = .text ∧ e.ref = .slot i ∧ e.seq = q)

/-- Outside normal running no offer entry and no pool slot is in use (R123, R136). -/
def RestLaw (s : State) : Prop :=
  s.phase ≠ .running → ∀ i, offerAt i s = none ∧ slotAt i s = none

/-- The laws of the offer table and the message pool, which carry over a step together. -/
def BooksLaw (s : State) : Prop :=
  JobLaw s ∧ OpenLaw s ∧ BidLaw s ∧ SlotLaw s ∧ RestLaw s

/-! ### The agent's tasks -/

/-- Whether a word of a task is the event producer index word. -/
def AgentWord.isProducer : AgentWord → Bool
  | .producer _ => true
  | _ => false

/-- Whether a word of a task is the settings result word. -/
def AgentWord.isResult : AgentWord → Bool
  | .result => true
  | _ => false

/-- Of the words left to a task at most one is the event producer index word, and only in an event task that deposits, and at most one is the settings result word (R165, R173, R174). -/
def TaskLaw (s : State) : Prop :=
  ∀ t ∈ s.agent.tasks, ∀ ws, t.words = some ws →
    ws.countP AgentWord.isProducer ≤ (if t.kind = .event true then 1 else 0) ∧
      ws.countP AgentWord.isResult ≤ 1

/-! ### The live fare and the black box across a step -/

/-- From s to t the fare of a hiring does not fall, and its active copy changes only at a step boundary taken in HIRED with a change pending (R18). -/
def FareLaw (s t : State) : Prop :=
  s.meter.state ≠ .vacant → t.meter.state ≠ .vacant →
    s.meter.fare ≤ t.meter.fare ∧
    (t.meter.active = s.meter.active ∨
      (s.meter.state = .hired ∧ s.meter.change ≠ none ∧ ∀ a, s.meter.active = some a →
        t.meter.fare = min (s.meter.fare + a.tariff.stepAmount) 9999999))

/-- From s to t a captured black box stays as it is, or is emptied (R153). -/
def BoxLaw (s t : State) : Prop :=
  ∀ b, s.emerg.box = some b → t.emerg.box = some b ∨ t.emerg.box = none

end Sys2Proof.Machine
end

