-- ==== Sys2Proof/Certificates/Slice0/Obligations.lean ====
section
/-! DEFINITION. The statements for the provers: one Prop each, from the numbered rules of the spec; OBLIGATIONS.json lists them. -/

open Sys2Proof Sys2Proof.Machine

/-! ### The queue, the resets and the straps -/

/-- A step runs the command at the front of the queue on the state with the queue's rest; on an empty queue the block idles. The queue of commands and the idling are the model's (log entry 1). -/
def Obligations.StepRunsTheFrontCommandOrIdles : Prop :=
  (∀ (c : Instr) (rest : List Instr) (s : State),
    s.pending = c :: rest → step s = exec c (s.setPending rest)) ∧
  (∀ s : State, s.pending = [] → step s = .next s)

/-- Every command answers a next state and leaves the queue of commands as it was: the queue is the model's (log entry 1), and so is that a command which cannot occur in the state it finds answers too (log entry 3). -/
def Obligations.EveryCommandCompletesAndKeepsTheQueue : Prop :=
  ∀ (c : Instr) (s : State), ∃ t, exec c s = .next t ∧ t.pending = s.pending

/-- FULL_RESET gives every block its full-reset values, each written out. The levels of the input lines, memory, the model's counts and the queue of commands stay and no tick is at hand, the switch is armed by the level of ESW, the link reads OFFLINE until the release, an emptied position copy is three words of 0 and NO_COMMIT carries tag and field 0: the model's choices (log entries 4, 8, 9, 19, 31). -/
def Obligations.FullResetGivesTheFullResetValues : Prop :=
  (∀ s : State, exec .fullReset s = .next
    { State.reset with pins := s.pins, mem := s.mem,
                       book := { s.book with counted := false }, pending := s.pending,
                       emerg := { State.reset.emerg with armed := s.pins.esw } }) ∧
  State.reset.phase = .fullReset ∧ State.reset.clock = 0 ∧ State.reset.secs = 0 ∧
  State.reset.meter = {
    state := .vacant, fare := 0, fareCap := false, extras := 0, acc := 0, hiredPulses := 0,
    elapsed := 0, holdSecs := 0, active := none, change := none,
    slots := [none, none, none, none], secondCount := 0, rejectMark := false,
    pulseFault := false, peak := 0 } ∧
  State.reset.trip = {
    next := 1, openTrip := none, logWrite := none, logIndex := 0, backlog := [],
    holdoff := none, reports := [],
    shift := { trips := 0, fareTotal := 0, extrasTotal := 0, hiredPulses := 0, totalPulses := 0,
               rejectedPulses := 0, unreported := 0, start := 0 } } ∧
  State.reset.rx = {
    deframer := .hunt, stored := [], charBad := false, skipped := 0, skipLength := 0,
    bufA := .free, bufB := .free, nextOrder := 0, badRun := 0, linkPoor := false, totalBad := 0,
    overrun := 0, unknown := 0, dedupe := [], recent := [] } ∧
  State.reset.link = {
    state := .offline, target := none, backoff := 0, slotTimer := none, clock := none,
    dwellPassed := false, keyed := none, phaseTimer := none, channel := 0,
    pendingChannel := none, seqCounter := 0, tx := [] } ∧
  State.reset.uplink = { entries := [], dropped := 0, unmatched := 0, nextTime := 0 } ∧
  State.reset.sup = {
    cycles := 0, override := false, ready := none, powerOff := none, stuckBusy := none,
    healthy := none } ∧
  State.reset.offers = {
    entries := [none, none, none, none, none, none, none, none], driverDuty := .offDuty,
    suppressed := 0, malformed := 0, overflow := 0, nextAdmit := 0 } ∧
  State.reset.pool = {
    slots := [none, none, none, none, none, none, none, none], malformed := 0 } ∧
  State.reset.emerg = {
    state := .quiet, round := 0, attempt := 0, trackCount := 0, holdTimer := none, armed := true,
    repeatTimer := none, cooldownTimer := none, trackTimer := none, graceTimer := none,
    owed := none, keyedCount := 0, lastSent := 0, ignored := 0, report := none,
    lastPlaced := .quiet, box := none, boxMark := .clear } ∧
  State.reset.path = {
    base := none, snapshot := [], guardCount := 0, inHand := none, answer := none,
    port := .free, passCount := 0 } ∧
  State.reset.agent = { tasks := [], initial := .notBegun } ∧
  State.reset.reader = { consumer := 0, producer := 0, kept := none } ∧
  State.reset.evw = {
    queue := [], generated := 0, lost := 0, deposited := 0, countersStale := false,
    resultStale := false, producer := 0, consumer := 0 } ∧
  State.reset.settings = {
    accepted := {
      cab := 0, zones := [], bitRate := .b9600, parity := .none, twoStops := false,
      msbFirst := false, keyupDelay := 40, tail := 10, turnaround := 20, slotTime := 25,
      backoffMin := 2, backoffMax := 6, attempts := 5, ackTimeout := 1500, seqMax := 255,
      badThreshold := 8, busyLimit := 20, powerOffTime := 2, awardWait := 15, maxPulses := 400,
      dwell := 3, holdTime := 2000, repeatInterval := 5, roundsLimit := 3, cooldown := 60,
      trackInterval := 30, grace := 10, clockSet := 0 },
    staging := [0, 0, 0, 0, 0, 0, 0, 0, 0, 0, 0, 0, 0, 0, 0], firstCommit := true,
    result := { tag := 0, outcome := .noCommit, field := 0 }, report := none } ∧
  State.reset.position = { record := none, staging := [0, 0, 0], fixAge := 0 } ∧
  State.reset.attn = { factors := 0, enables := 0, alertEnd := none }

/-- RESET_ASSERT: the keep-alive blocks keep their state but for what their chapters stop, the other blocks take their reset values, and what is on the memory port finishes there: a processor's access, an initial write, or the first task's word of whichever kind, of which only a read leaves memory alone. That the assertion grants a free port first is the model's choice (log entry 21). That a black box write to be written again is pending then is the model's reading (log entry 34). -/
def Obligations.TerminalResetKeepsTheKeepAliveBlocks : Prop :=
  ∀ s : State, s.phase = .running → ∃ t, exec .resetAssert s = .next t ∧
    t.phase = .terminalReset ∧ t.meter = s.meter ∧ t.clock = s.clock ∧ t.secs = s.secs ∧
    t.settings = s.settings ∧ t.pins = s.pins ∧
    t.trip = { s.trip with
      backlog := if s.uplink.entries.any (fun e => e.cls == .trip && e.answered)
        then s.trip.backlog.drop 1 else s.trip.backlog } ∧
    t.emerg = { s.emerg with
      owed := none, repeatTimer := none, cooldownTimer := none, trackTimer := none,
      boxMark := if s.emerg.boxMark = .rewrite then .pending else s.emerg.boxMark } ∧
    t.rx = State.reset.rx ∧ t.link = State.reset.link ∧ t.uplink = State.reset.uplink ∧
    t.sup = State.reset.sup ∧ t.offers = State.reset.offers ∧ t.pool = State.reset.pool ∧
    t.path = State.reset.path ∧ t.agent = State.reset.agent ∧ t.reader = State.reset.reader ∧
    t.evw = State.reset.evw ∧ t.position = State.reset.position ∧ t.attn = State.reset.attn ∧
    (∀ u, u = arbitrate s →
      (s.path.port ≠ .free → u = s) ∧
      (s.path.port = .free → processorWaits s = false → agentReady s = false → u = s) ∧
      (u.path.port = .free → t.mem = s.mem) ∧
      (u.path.port = .processor →
        (u.path.inHand = none → t.mem = s.mem) ∧
        (∀ h, u.path.inHand = some h →
          (h.access.write = none → t.mem = s.mem) ∧
          (∀ v, h.access.write = some v → t.mem =
            Memory.writeLanes s.mem (h.access.addr.toNat / 4 * 4) h.access.lanes v))) ∧
      (u.path.port = .agent →
        (s.agent.initial = .notBegun ∨ s.agent.initial = .writing [] → t.mem = s.mem) ∧
        (∀ off v left, s.agent.initial = .writing ((off, v) :: left) →
          t.mem = Memory.writeLanes s.mem (baseOf s + off) 0xF v) ∧
        (s.agent.initial = .done →
          (headWords s = [] → t.mem = s.mem) ∧
          (∀ w ws, headWords s = w :: ws →
            (∀ off, w = .read off → t.mem = s.mem) ∧
            (∀ off v, w = .write off v →
              t.mem = Memory.writeLanes s.mem (baseOf s + off) 0xF v) ∧
            (∀ n, w = .producer n →
              t.mem = Memory.writeLanes s.mem (baseOf s + 0x0048) 0xF (BitVec.ofNat 32 n)) ∧
            (w = .generated →
              t.mem = Memory.writeLanes s.mem (baseOf s + 0x0050) 0xF s.evw.generated) ∧
            (w = .lost → t.mem = Memory.writeLanes s.mem (baseOf s + 0x0054) 0xF s.evw.lost) ∧
            (w = .result → t.mem = Memory.writeLanes s.mem (baseOf s + 0x005C) 0xF
              (resultWord s.settings.result)))))) ∧
    (baseOf s = s.path.base.getD 0) ∧
    (∀ x xs, s.agent.tasks = x :: xs → headWords s = x.words.getD []) ∧
    (s.agent.tasks = [] → headWords s = [])

/-- RESET_RELEASE: the base is sampled, the supervisor reads the cab number and reports LINK_STATE, the release snapshot is latched with the retained values, a running holdoff restarts, a RDY already high enters LISTEN, the call resumes, R34 is tested, each present condition sets its factor, the 70 initial writes begin; meter, clock, memory and settings are unchanged. Their order, the state left that LINK_STATE carries, the end of a cooldown of 0, the grant of the port and the cause and tag of the LINK_STATE of a RDY already high are the model's choices (log entries 16, 17, 21, 30, 37). -/
def Obligations.ReleaseStartsTheBlocks : Prop :=
  ∀ s : State, s.phase ≠ .running → ∃ (z a b h c d t : State) (ws : List (Nat × Word)),
    ws = [(0x0044, 0), (0x0048, 0), (0x0050, 0), (0x0054, 0),
        (0x005C, resultWord s.settings.result), (0x0058, w32 s.trip.logIndex)] ++
      (wordsOf (boxBytes s.emerg.box)).zipIdx.map (fun p => (0x4000 + 4 * p.2, p.1)) ∧
    z = ((s.setPath { s.path with base := some (strapBase s.pins) }).setEmerg
      (if s.phase = .fullReset then { s.emerg with armed := s.pins.esw } else s.emerg)).setPhase
        .running ∧
    (s.settings.accepted.cab = 0 → a = produce 0
      (.linkState .offline .offline .release s.sup.cycles s.sup.override)
      (z.setLink { s.link with state := .offline })) ∧
    (s.settings.accepted.cab ≠ 0 → a = produce 0
      (.linkState .offline .powerOnWait .release s.sup.cycles s.sup.override)
      ((z.setSup { s.sup with ready := some 5 }).setLink { s.link with state := .powerOnWait })) ∧
    b = a.setPath { a.path with snapshot := snapshotWords a } ∧
    h = b.setTrip { b.trip with holdoff := s.trip.holdoff.map (fun _ => 60) } ∧
    (s.settings.accepted.cab = 0 ∨ s.pins.rdy = false → c = h) ∧
    (s.settings.accepted.cab ≠ 0 → s.pins.rdy = true → c = enterListen (produce 0
      (.linkState .powerOnWait .listen .rdy s.sup.cycles s.sup.override)
      (h.setSup { h.sup with ready := none, healthy := some 60 }))) ∧
    (s.emerg.state = .quiet ∨ s.emerg.state = .exhausted → d = c) ∧
    (s.emerg.state = .calling → ∃ v,
      v = offerAlarm .call (c.setEmerg { c.emerg with attempt := 1 }) ∧
      d = v.setEmerg { v.emerg with repeatTimer := some s.settings.accepted.repeatInterval }) ∧
    (s.emerg.state = .cooldown →
      d = c.setEmerg { c.emerg with cooldownTimer := some s.settings.accepted.cooldown }) ∧
    (s.emerg.state = .tracking → ∃ v,
      v = offerAlarm .tracking (c.setEmerg { c.emerg with
        trackCount := min (c.emerg.trackCount + 1) 65535 }) ∧
      d = v.setEmerg { v.emerg with trackTimer := some s.settings.accepted.trackInterval }) ∧
    (∃ w, w = (tripTest d).setAttn { (tripTest d).attn with
        factors := (tripTest d).attn.factors ||| conditions (tripTest d) } ∧
      t = arbitrate (placeHeld (resumeAccess (w.setAgent { w.agent with initial := .writing ws })))) ∧
    exec .resetRelease s = .next t ∧ t.phase = .running ∧
    t.path.base = some (strapBase s.pins) ∧
    t.meter = s.meter ∧ t.clock = s.clock ∧ t.secs = s.secs ∧ t.mem = s.mem ∧
    t.settings.accepted = s.settings.accepted ∧ t.trip.openTrip = s.trip.openTrip ∧
    t.trip.shift = s.trip.shift ∧ t.trip.next = s.trip.next ∧ t.emerg.box = s.emerg.box ∧
    (s.settings.accepted.cab = 0 → t.link.state = .offline) ∧
    (s.settings.accepted.cab ≠ 0 → s.pins.rdy = false →
      t.link.state = .powerOnWait ∧ t.sup.ready = some 5) ∧
    (s.settings.accepted.cab ≠ 0 → s.pins.rdy = true →
      channelAccess t.link.state = true ∧ t.sup.ready = none ∧ t.sup.healthy = some 60)

/-- The output lines in the terms of the state: PTT, RPWR, CHSEL, ATTN, ALERT and TXD with the form of its characters; STRAP_CHANGE sets the levels the next release samples and changes nothing else, and the four bases of R158. -/
def Obligations.TheLinesFollowTheState : Prop :=
  (∀ s : State,
    (ptt s = true ↔ s.link.state = .keyup ∨ s.link.state = .sending ∨ s.link.state = .tail) ∧
    (rpwr s = true ↔ s.link.state = .powerOnWait ∨ s.link.state = .listen ∨
      s.link.state = .contend ∨ s.link.state = .keyup ∨ s.link.state = .sending ∨
      s.link.state = .tail ∨ s.link.state = .turnaround ∨ s.link.state = .settle) ∧
    (rpwr s = false → ptt s = false) ∧
    chsel s = s.link.channel ∧
    (attnLine s = true ↔ ∃ i, i < 9 ∧ s.attn.factors.getLsbD i = true ∧
      s.attn.enables.getLsbD i = true) ∧
    (alertLine s = true ↔ ∃ e, s.attn.alertEnd = some e) ∧
    (∀ n, s.link.state ≠ .sending → txdLine n s = true) ∧
    (∀ n, s.link.state = .sending → txdLine n s =
      (s.link.tx.flatMap (charBits s.settings.accepted)).getD n true)) ∧
  (∀ (st : Settings) (b : Byte), ∃ data : List Bool, ∃ p : Bool,
    charBits st b = [false] ++ data ++ (if st.parity = .none then [] else [p]) ++
      (if st.twoStops = true then [true, true] else [true]) ∧
    data.length = 8 ∧
    (∀ i, i < 8 → data.getD i false =
      b.getLsbD (if st.msbFirst = true then 7 - i else i)) ∧
    (st.parity = .even → (data ++ [p]).countP id % 2 = 0) ∧
    (st.parity = .odd → (data ++ [p]).countP id % 2 = 1)) ∧
  (∀ (b1 b0 : Bool) (s : State), exec (.strapChange b1 b0) s =
    .next (s.setPins { s.pins with base1 := b1, base0 := b0 })) ∧
  (∀ p : Pins, p.base1 = false → p.base0 = false → strapBase p = 0x3F0000) ∧
  (∀ p : Pins, p.base1 = false → p.base0 = true → strapBase p = 0x7F0000) ∧
  (∀ p : Pins, p.base1 = true → p.base0 = false → strapBase p = 0xBF0000) ∧
  (∀ p : Pins, p.base1 = true → p.base0 = true → strapBase p = 0xFF0000)

/-- INITIAL_WRITES_DONE with the port quiet runs the writes left, which is the model's choice (log entry 20): they reach memory in order, and the terminal area is served from then on. The end of the initial writes, by this row or by an agent word, begins a listed task, requests a waiting trip-log write, clears the black box's write mark or requests its rewrite, and treats a held access as a fresh one; their order is the model's choice (log entry 22). -/
def Obligations.InitialWritesReachMemory : Prop :=
  (∀ (s : State) (left : List (Nat × Word)),
    s.agent.initial = .writing left → portQuiet s = true →
    ∃ t g, exec .initialWritesDone s = .next t ∧
      g = (s.setMem (left.foldl
        (fun m p => Memory.writeLanes m (baseOf s + p.1) 0xF p.2) s.mem)).setPath
          { s.path with port := .agent, passCount := 0 } ∧
      t = arbitrate ((initialDone g).setPath { (initialDone g).path with port := .free }) ∧
      t.agent.initial = .done ∧ t.mem = g.mem ∧
      t.path.base = s.path.base ∧ t.meter = s.meter ∧ t.trip = s.trip ∧ t.clock = s.clock ∧
      t.link = s.link ∧ t.uplink = s.uplink ∧ t.offers = s.offers ∧ t.pool = s.pool ∧
      t.evw = s.evw ∧ t.settings = s.settings ∧ t.emerg.box = s.emerg.box) ∧
  (∀ s : State, ∃ a b c : State,
    a = beginTask (s.setAgent { s.agent with initial := .done }) ∧
    (s.trip.logWrite = none → b = a) ∧
    (s.trip.logWrite ≠ none → b = requestTask .tripLog a) ∧
    (s.emerg.boxMark ≠ .rewrite → c = b.setEmerg { b.emerg with boxMark := .clear }) ∧
    (s.emerg.boxMark = .rewrite →
      c = requestTask .blackBox (b.setEmerg { b.emerg with boxMark := .pending })) ∧
    initialDone s = resumeAccess c) ∧
  (∀ s : State,
    (s.path.inHand = none → resumeAccess s = s) ∧
    (∀ h, s.path.inHand = some h → h.stage ≠ .held → resumeAccess s = s) ∧
    (∀ (a : Access) (w u : State), s.path.inHand = some { access := a, stage := .held } →
      w = s.setPath { s.path with inHand := some { access := a, stage := .waiting } } →
      u = s.setPath { s.path with inHand := none } →
      (s.phase ≠ .running ∨ s.path.base = none → resumeAccess s = s) ∧
      (∀ b, s.phase = .running → s.path.base = some b →
        (offsetIn b a = none → resumeAccess s = w) ∧
        (∀ off, offsetIn b a = some off → s.agent.initial ≠ .done → resumeAccess s = s) ∧
        (∀ off, offsetIn b a = some off → s.agent.initial = .done →
          (treatment off = .free ∨ treatment off = .snoop ∨
            treatment off = .guard ∧ a.write = none → resumeAccess s = w) ∧
          (treatment off = .attention → a.write = none → resumeAccess s =
            u.setPath { u.path with answer := some (s.attn.factors.setWidth 32) }) ∧
          (∀ v, treatment off = .attention → a.write = some v →
            (a.lanes = 0xF → resumeAccess s = u.setAttn { s.attn with
              factors := s.attn.factors &&& ~~~(v.setWidth 9 &&& ~~~(conditions s)) }) ∧
            (a.lanes ≠ 0xF → resumeAccess s =
              u.setAttn { s.attn with factors := s.attn.factors ||| 0x004 })) ∧
          (treatment off = .liveZone → a.write = none →
            (off = 0x0100 → resumeAccess s = u.setPath { u.path with
              snapshot := snapshotWords s, answer := some ((snapshotWords s).getD 0 0) }) ∧
            (off ≠ 0x0100 → resumeAccess s = u.setPath { u.path with
              answer := some (s.path.snapshot.getD ((off - 0x0100) / 4) 0) })) ∧
          (treatment off = .guard ∨ treatment off = .liveZone → a.write ≠ none →
            resumeAccess s = (u.setPath { u.path with
              guardCount := min (s.path.guardCount + 1) 65535 }).setAttn
                { s.attn with factors := s.attn.factors ||| 0x008 })))))

/-! ### Events, pulses and ticks -/

/-- Placing an event at once: it joins the end of the queue with its tag and the terminal clock and is counted generated; on a full queue it is dropped, counted generated and lost, and LOST is set; while a reset holds it is discarded uncounted. R172 gives the drop for droppable events; that an event which is none goes the same way on a full queue is the model's choice (log entry 11). Each event's code and payload are those of Table 45, with the packed text of R183; the bytes Table 45 leaves uncoded, the pending slot of METER_STATE with no change pending among them, are the model's choice (log entry 32). -/
def Obligations.EventsPlacedAtOnce : Prop :=
  (∀ (tag : Half) (p : Payload) (s : State),
    (s.phase = .running → s.evw.queue.length < 16 → produce tag p s = s.setEvw { s.evw with
      queue := s.evw.queue ++ [{ tag := tag, time := s.clock, payload := p }],
      generated := s.evw.generated + 1 }) ∧
    (s.phase = .running → 16 ≤ s.evw.queue.length → produce tag p s =
      (s.setEvw { s.evw with generated := s.evw.generated + 1, lost := s.evw.lost + 1,
                             countersStale := true }).setAttn
        { s.attn with factors := s.attn.factors ||| 0x002#9 }) ∧
    (s.phase ≠ .running → produce tag p s = s)) ∧
  (∀ (c : Byte) (r : Reason), (Payload.refused c r).code = 0x41 ∧
    (Payload.refused c r).bytes = [c] ++ bytesLE 1 r.code) ∧
  (∀ (id : Word) (z : Half) (k : OfferKind) (w sc : Nat) (x : List Byte) (t : Bool),
    (Payload.offerNew id z k w sc x t).code = 0x42 ∧ (Payload.offerNew id z k w sc x t).bytes =
      bytesLE 4 id.toNat ++ bytesLE 2 z.toNat ++ bytesLE 1 k.code ++ bytesLE 1 w ++ bytesLE 1 sc ++
        bytesLE 1 (x.length + if t then 128 else 0) ++ x) ∧
  (∀ (id : Word) (z : Half) (k : OfferKind) (d : Bool) (x : List Byte) (t : Bool),
    (Payload.offerAwarded id z k d x t).code = 0x43 ∧ (Payload.offerAwarded id z k d x t).bytes =
      bytesLE 4 id.toNat ++ bytesLE 2 z.toNat ++ bytesLE 1 k.code ++ bytesLE 1 (if d then 1 else 0) ++
        bytesLE 1 (x.length + if t then 128 else 0) ++ x) ∧
  (∀ (id : Word) (r : ClosingReason) (n : ReleaseNote),
    (Payload.offerClosed id r n).code = 0x44 ∧ (Payload.offerClosed id r n).bytes =
      bytesLE 4 id.toNat ++ bytesLE 1 r.code ++ bytesLE 1 n.code) ∧
  (∀ (id : Word) (c : LateCase) (n : ReleaseNote),
    (Payload.lateAward id c n).code = 0x45 ∧ (Payload.lateAward id c n).bytes =
      bytesLE 4 id.toNat ++ bytesLE 1 c.code ++ bytesLE 1 n.code) ∧
  (∀ id : Word, (Payload.jobCancelled id).code = 0x46 ∧
    (Payload.jobCancelled id).bytes = bytesLE 4 id.toNat) ∧
  (∀ (sc : Nat) (u t : Bool) (q : Byte) (a : Half) (c : Byte) (n : Nat) (d : Word) (x : List Byte),
    (Payload.textIn sc u t q a c n d x).code = 0x47 ∧ (Payload.textIn sc u t q a c n d x).bytes =
      bytesLE 1 (sc + (if u then 4 else 0) + if t then 8 else 0) ++ [q] ++ bytesLE 2 a.toNat ++ [c] ++
        bytesLE 1 n ++ bytesLE 4 d.toNat ++ bytesLE 1 x.length ++ pack7 x) ∧
  (∀ (r : AckResult) (f : FailReason) (i q n : Nat),
    (Payload.textDelivered r i q n).code = 0x48 ∧ (Payload.textDelivered r i q n).bytes =
      bytesLE 1 r.code ++ bytesLE 1 i ++ bytesLE 1 q ++ bytesLE 1 n ∧
    (Payload.textFailed f i q n).code = 0x49 ∧ (Payload.textFailed f i q n).bytes =
      bytesLE 1 f.code ++ bytesLE 1 i ++ bytesLE 1 q ++ bytesLE 1 n) ∧
  (∀ (c : Byte) (x y : MeterState) (i : Option Nat) (p : Option PendingChange) (f e ec rq ad : Nat),
    (Payload.meterState c x y i p f e ec rq ad).code = 0x4A ∧
    (Payload.meterState c x y i p f e ec rq ad).bytes =
      [c] ++ bytesLE 1 x.code ++ bytesLE 1 y.code ++ bytesLE 1 (i.getD 255) ++
        bytesLE 1 ((p.map (·.kind.code)).getD 0) ++ bytesLE 1 ((p.map (·.slot)).getD 0) ++
        bytesLE 4 f ++ bytesLE 4 e ++ bytesLE 1 ec ++ bytesLE 2 rq ++ bytesLE 2 ad) ∧
  (∀ (i v sc : Nat) (r : Bool), (Payload.tariffLoaded i v sc r).code = 0x4B ∧
    (Payload.tariffLoaded i v sc r).bytes =
      bytesLE 1 i ++ bytesLE 2 v ++ bytesLE 1 sc ++ bytesLE 1 (if r then 1 else 0)) ∧
  (∀ (k : PendingKind) (a b c d f : Nat), (Payload.tariffApplied k a b c d f).code = 0x4C ∧
    (Payload.tariffApplied k a b c d f).bytes = bytesLE 1 k.code ++ bytesLE 1 a ++ bytesLE 2 b ++
      bytesLE 1 c ++ bytesLE 2 d ++ bytesLE 4 f) ∧
  (∀ (n f e t : Nat) (g : Byte) (k b : Nat), (Payload.tripClosed n f e t g k b).code = 0x4D ∧
    (Payload.tripClosed n f e t g k b).bytes = bytesLE 4 n ++ bytesLE 4 f ++ bytesLE 4 e ++
      bytesLE 4 t ++ [g] ++ bytesLE 1 k ++ bytesLE 1 b) ∧
  (∀ n b : Nat, (Payload.tripReported n b).code = 0x4E ∧
    (Payload.tripReported n b).bytes = bytesLE 4 n ++ bytesLE 1 b) ∧
  (∀ (x : Shift) (d : Word), (Payload.shiftClosed x d).code = 0x4F ∧
    (Payload.shiftClosed x d).bytes = bytesLE 4 x.trips ++ bytesLE 8 x.fareTotal ++
      bytesLE 8 x.extrasTotal ++ bytesLE 4 x.hiredPulses ++ bytesLE 4 x.totalPulses ++
      bytesLE 4 x.rejectedPulses ++ bytesLE 4 x.unreported ++ bytesLE 4 x.start.toNat ++
      bytesLE 4 d.toNat) ∧
  (∀ (x y z : Duty) (c : DutyCause), (Payload.dutyChanged x y z c).code = 0x50 ∧
    (Payload.dutyChanged x y z c).bytes =
      bytesLE 1 x.code ++ bytesLE 1 y.code ++ bytesLE 1 z.code ++ bytesLE 1 c.code) ∧
  (∀ (x y : LinkState) (c : LinkCause) (n : Nat) (o : Bool),
    (Payload.linkState x y c n o).code = 0x51 ∧ (Payload.linkState x y c n o).bytes =
      bytesLE 1 x.code ++ bytesLE 1 y.code ++ bytesLE 1 c.code ++ bytesLE 1 n ++
        bytesLE 1 (if o then 1 else 0)) ∧
  (∀ (x y : EmState) (c : EmCause) (r n : Nat) (b : Option RaiseSource) (m k : Nat),
    (b = none → k = 0) → (b = some .switch → k = 1) → (b = some .request → k = 3) →
    (Payload.emergencyState x y c r n b m).code = 0x52 ∧
    (Payload.emergencyState x y c r n b m).bytes =
      bytesLE 1 x.code ++ bytesLE 1 y.code ++ bytesLE 1 c.code ++ bytesLE 1 r ++ bytesLE 2 n ++
        bytesLE 1 k ++ bytesLE 1 m) ∧
  (∀ (o : CommitOutcome) (n : Nat), (Payload.settingsTaken o n).code = 0x53 ∧
    (Payload.settingsTaken o n).bytes = bytesLE 1 o.code ++ bytesLE 1 n) ∧
  (∀ n v : Nat, bytesLE 0 v = [] ∧
    bytesLE (n + 1) v = BitVec.ofNat 8 v :: bytesLE n (v / 256)) ∧
  (∀ x : List Byte, (pack7 x).length = (7 * x.length + 7) / 8 ∧
    ∀ i, (byteAt (pack7 x) (i / 8)).getLsbD (i % 8) =
      (decide (i < 7 * x.length) && (byteAt x (i / 7)).getLsbD (i % 7))) ∧
  ([.unknown, .malformed, .outOfRange, .noSuchOffer, .tooLate, .oneJob, .emergency, .wrongState,
    .noTariff, .poolFull, .queueFull, .graceOver, .notFailed, .linkDown] : List Reason).map (·.code) =
      [1, 2, 3, 4, 5, 6, 7, 8, 9, 10, 11, 12, 13, 14] ∧
  ([.expired, .declined, .superseded, .suppressed, .settings, .withdrawn, .taken, .noAward, .link,
    .abandoned, .done] : List ClosingReason).map (·.code) = [1, 2, 3, 4, 5, 6, 7, 8, 9, 10, 11] ∧
  ([.noneOffered, .released, .notReleased] : List ReleaseNote).map (·.code) = [0, 1, 2] ∧
  ([.unknown, .closing, .open, .abandoned] : List LateCase).map (·.code) = [0, 1, 2, 3] ∧
  ([.openCall, .direct] : List OfferKind).map (·.code) = [0, 1] ∧
  ([.taken, .refused] : List AckResult).map (·.code) = [0, 1] ∧
  ([.link, .displaced, .linkDown] : List FailReason).map (·.code) = [1, 2, 3] ∧
  ([.vacant, .hired, .hold] : List MeterState).map (·.code) = [0, 1, 2] ∧
  ([.reload, .select] : List PendingKind).map (·.code) = [1, 2] ∧
  ([.free, .busy, .offDuty] : List Duty).map (·.code) = [0, 1, 2] ∧
  ([.dutySet, .meter, .award, .jobEnd] : List DutyCause).map (·.code) = [0, 1, 2, 3] ∧
  ([.offline, .powerOff, .powerOnWait, .failed, .listen, .contend, .keyup, .sending, .tail,
    .turnaround, .settle] : List LinkState).map (·.code) = [0, 1, 2, 3, 4, 5, 6, 7, 8, 9, 10] ∧
  ([.release, .commit, .rdy, .stuckBusy, .rdyLoss, .readyTimeout, .powerOffEnd, .linkRestart,
    .override] : List LinkCause).map (·.code) = [0, 1, 2, 3, 4, 5, 6, 7, 8] ∧
  ([.quiet, .calling, .cooldown, .exhausted, .tracking] : List EmState).map (·.code) =
    [0, 1, 2, 3, 4] ∧
  ([.switchRaise, .requestRaise, .roundEnd, .cooldownEnd, .alarmAck, .alarmEnd, .cancel,
    .blackboxClear] : List EmCause).map (·.code) = [0, 1, 2, 3, 4, 5, 6, 7] ∧
  ([.noCommit, .accepted, .busy, .range] : List CommitOutcome).map (·.code) = [0, 1, 2, 3]

/-- Held reports: HELD_REPORT_PLACED gives one free place to the report produced earliest, whose holder is relieved of it; placing all that wait fills the free places until none waits or the queue is full, each report counted generated. While a report waits and a place is free, placing all is the row HELD_REPORT_PLACED and then placing all again, so every place goes to the report produced earliest then. With no report, no place, or in a reset nothing changes, where the row HELD_REPORT_PLACED then is the model's choice (log entry 3). -/
def Obligations.HeldReportsTakeTheFreePlacesEarliestFirst : Prop :=
  (∀ s : State,
    (s.phase = .running → s.evw.queue.length < 16 → heldReports s ≠ [] →
      ∃ t x e, exec .heldReportPlaced s = .next t ∧ x ∈ heldReports s ∧
        (∀ y ∈ heldReports s, x.1 ≤ y.1) ∧ heldEvent s x.2 = some e ∧
        t.evw = { s.evw with queue := s.evw.queue ++ [e], generated := s.evw.generated + 1 } ∧
        (∀ i o, x.2 = .offer i → s.offers.entries.getD i none = some o →
          t = (s.setEvw t.evw).setOffers { s.offers with
            entries := s.offers.entries.set i
              (if o.state = .closing then none else some { o with held := none }) }) ∧
        (∀ i o, x.2 = .slot i → s.pool.slots.getD i none = some o →
          t = (s.setEvw t.evw).setPool { s.pool with
            slots := s.pool.slots.set i
              (if o.ref.isNone then none
                else some { o with held := none, attempts := none }) }) ∧
        (x.2 = .trip → t = (s.setEvw t.evw).setTrip { s.trip with
          reports := s.trip.reports.drop 1 }) ∧
        (∀ r, x.2 = .emergency → s.emerg.report = some r →
          t = (s.setEvw t.evw).setEmerg { s.emerg with report := none, lastPlaced := r.now }) ∧
        (x.2 = .settings →
          t = (s.setEvw t.evw).setSettings { s.settings with report := none })) ∧
    (heldReports s = [] ∨ 16 ≤ s.evw.queue.length ∨ s.phase ≠ .running →
      exec .heldReportPlaced s = .next s)) ∧
  (∀ s t : State, exec .heldReportPlaced s = .next t → placeHeld s = placeHeld t) ∧
  (∀ s : State,
    (s.phase = .running → s.evw.queue.length ≤ 16 →
      heldReports (placeHeld s) = [] ∨ (placeHeld s).evw.queue.length = 16) ∧
    (∃ l : List Event, (placeHeld s).evw = { s.evw with
      queue := s.evw.queue ++ l, generated := s.evw.generated + BitVec.ofNat 32 l.length }) ∧
    (heldReports s = [] ∨ 16 ≤ s.evw.queue.length ∨ s.phase ≠ .running → placeHeld s = s) ∧
    (placeHeld s).attn = s.attn ∧ (placeHeld s).rx = s.rx ∧ (placeHeld s).link = s.link ∧
    (placeHeld s).uplink = s.uplink ∧ (placeHeld s).sup = s.sup ∧
    (placeHeld s).trip = { s.trip with reports := (placeHeld s).trip.reports } ∧
    (placeHeld s).offers = { s.offers with entries := (placeHeld s).offers.entries } ∧
    (placeHeld s).pool = { s.pool with slots := (placeHeld s).pool.slots } ∧
    (placeHeld s).emerg = { s.emerg with
      report := (placeHeld s).emerg.report, lastPlaced := (placeHeld s).emerg.lastPlaced } ∧
    (placeHeld s).settings = { s.settings with report := (placeHeld s).settings.report } ∧
    RestKept s (placeHeld s))

/-- ODO_PULSE: a pulse over the limit is rejected; an accepted one in VACANT or HOLD is counted and charges nothing; in HIRED the distance increment joins the accumulator, and at 1,048,576 one step is taken, limited at the fare cap, and a pending change applied with TARIFF_APPLIED. -/
def Obligations.PulsesAreLimitedCountedAndCharged : Prop :=
  (∀ s : State, s.phase ≠ .fullReset →
    (s.settings.accepted.maxPulses ≠ 0 → s.settings.accepted.maxPulses ≤ s.meter.secondCount →
      ∃ a, exec .odoPulse s = .next (((s.setMeter { s.meter with
          rejectMark := true, pulseFault := true }).setTrip { s.trip with
          openTrip := s.trip.openTrip.map (fun r => { r with pulseFault := true }),
          shift := { s.trip.shift with
            rejectedPulses := min (s.trip.shift.rejectedPulses + 1) 4294967295 } }).setAttn a) ∧
        a = { s.attn with factors :=
          if s.phase = .running then s.attn.factors ||| 0x010#9 else s.attn.factors }) ∧
    ((s.settings.accepted.maxPulses = 0 ∨ s.meter.secondCount < s.settings.accepted.maxPulses) →
      s.meter.state ≠ .hired →
      exec .odoPulse s = .next ((s.setMeter { s.meter with
          secondCount := min (s.meter.secondCount + 1) 65535,
          peak := if s.meter.state = .vacant then s.meter.peak
            else max s.meter.peak (min (s.meter.secondCount + 1) 65535) }).setTrip { s.trip with
          shift := { s.trip.shift with
            totalPulses := min (s.trip.shift.totalPulses + 1) 4294967295 } }))) ∧
  (∀ (s : State) (a : ActiveCopy), s.phase ≠ .fullReset → s.meter.state = .hired →
    s.meter.active = some a →
    (s.settings.accepted.maxPulses = 0 ∨ s.meter.secondCount < s.settings.accepted.maxPulses) →
    ∃ t, exec .odoPulse s = .next t ∧ t.meter.state = .hired ∧
      t.meter.secondCount = min (s.meter.secondCount + 1) 65535 ∧
      t.meter.peak = max s.meter.peak (min (s.meter.secondCount + 1) 65535) ∧
      t.meter.hiredPulses = min (s.meter.hiredPulses + 1) 4294967295 ∧
      t.meter.extras = s.meter.extras ∧ t.meter.slots = s.meter.slots ∧
      t.trip.shift = { s.trip.shift with
        totalPulses := min (s.trip.shift.totalPulses + 1) 4294967295 } ∧
      (s.meter.acc + a.tariff.distanceInc < 1048576 →
        t.meter.acc = s.meter.acc + a.tariff.distanceInc ∧ t.meter.fare = s.meter.fare ∧
        t.meter.fareCap = s.meter.fareCap ∧ t.meter.active = s.meter.active ∧
        t.meter.change = s.meter.change ∧ t.trip.openTrip = s.trip.openTrip ∧ t.evw = s.evw ∧
        t.attn = s.attn) ∧
      (1048576 ≤ s.meter.acc + a.tariff.distanceInc →
        t.meter.acc = s.meter.acc + a.tariff.distanceInc - 1048576 ∧
        t.meter.fare = min (s.meter.fare + a.tariff.stepAmount) 9999999 ∧
        (t.meter.fareCap = true ↔
          s.meter.fareCap = true ∨ 9999999 < s.meter.fare + a.tariff.stepAmount) ∧
        (s.meter.change = none → t.meter.active = s.meter.active ∧ t.meter.change = none ∧
          t.evw = s.evw ∧ t.attn = s.attn) ∧
        (∀ c r, s.meter.change = some c → slotTariff s.meter c.slot = some r → ∃ u,
          u = produce 0 (.tariffApplied c.kind c.slot r.version a.slot a.tariff.version
            (min (s.meter.fare + a.tariff.stepAmount) 9999999)) s ∧
          t.meter.active = some { slot := c.slot, tariff := r } ∧ t.meter.change = none ∧
          t.evw = u.evw ∧ t.attn = u.attn)) ∧
      MemorySideKept s t ∧ t.clock = s.clock ∧ t.settings = s.settings ∧ t.position = s.position ∧
      t.rx = s.rx ∧ t.link = s.link ∧ t.uplink = s.uplink ∧ t.sup = s.sup ∧ t.offers = s.offers ∧
      t.pool = s.pool ∧ t.emerg = s.emerg)

/-- Each step, of a pulse or of the time charge at a second tick, is counted in the trip's last segment; an applied change adds a segment, or marks the trip SEGMENTS_TRUNCATED with 6 in the list. -/
def Obligations.StepsAreCountedInTheTripSegments : Prop :=
  ∀ (k : Instr) (inc : Nat) (s : State) (a : ActiveCopy) (r : TripRecord) (g : Segment)
      (gs : List Segment),
    s.phase ≠ .fullReset → s.meter.state = .hired → s.meter.active = some a →
    (k = .odoPulse ∧ inc = a.tariff.distanceInc ∧ (s.settings.accepted.maxPulses = 0 ∨
        s.meter.secondCount < s.settings.accepted.maxPulses)) ∨
      (k = .secondTick ∧ inc = a.tariff.timeInc ∧
        s.meter.secondCount < a.tariff.slowThreshold) →
    1048576 ≤ s.meter.acc + inc → s.trip.openTrip = some r → r.segments = gs ++ [g] →
    ∃ t, exec k s = .next t ∧
      (s.meter.change = none → t.trip.openTrip = some { r with
        segments := gs ++ [{ g with steps := min (g.steps + 1) 4294967295 }] }) ∧
      (∀ c f, s.meter.change = some c → slotTariff s.meter c.slot = some f →
        r.segments.length < 6 → t.trip.openTrip = some { r with
          segments := gs ++ [{ g with steps := min (g.steps + 1) 4294967295 }] ++
            [{ slot := c.slot, version := f.version, steps := 0 }] }) ∧
      (∀ c f, s.meter.change = some c → slotTariff s.meter c.slot = some f →
        6 ≤ r.segments.length → t.trip.openTrip = some { r with
          truncated := true,
          segments := gs ++ [{ g with steps := min (g.steps + 1) 4294967295 }] })

/-- SECOND_TICK at the fare meter: the time charge with its step, the fare cap and an applied change with TARIFF_APPLIED, the seconds, the settling of PULSE_FAULT and the new second; then the counts and ends of the tick. The clock grows by one and wraps, which is the model's choice (log entry 10). -/
def Obligations.TickClosesTheMetersSecond : Prop :=
  ∀ s : State, s.phase ≠ .fullReset →
    ∃ u t, exec .secondTick s = .next t ∧ t = placeHeld (endTimers (countTick u)) ∧
      t.clock = s.clock + 1 ∧ t.meter = u.meter ∧ t.trip.openTrip = u.trip.openTrip ∧
      u = (((s.setMeter u.meter).setTrip { s.trip with
        openTrip := u.trip.openTrip }).setEvw u.evw).setAttn u.attn ∧
      u.meter.state = s.meter.state ∧ u.meter.secondCount = 0 ∧ u.meter.rejectMark = false ∧
      u.meter.pulseFault = (s.meter.pulseFault && s.meter.rejectMark) ∧
      u.meter.peak = s.meter.peak ∧ u.meter.extras = s.meter.extras ∧
      u.meter.hiredPulses = s.meter.hiredPulses ∧ u.meter.slots = s.meter.slots ∧
      u.meter.elapsed = (if s.meter.state = .vacant then s.meter.elapsed
        else min (s.meter.elapsed + 1) 4294967295) ∧
      u.meter.holdSecs = (if s.meter.state = .hold then min (s.meter.holdSecs + 1) 4294967295
        else s.meter.holdSecs) ∧
      ((s.meter.state ≠ .hired ∨
          ∃ a, s.meter.active = some a ∧ a.tariff.slowThreshold ≤ s.meter.secondCount) →
        u.meter.acc = s.meter.acc ∧ u.meter.fare = s.meter.fare ∧
        u.meter.fareCap = s.meter.fareCap ∧ u.meter.active = s.meter.active ∧
        u.meter.change = s.meter.change ∧ u.trip = s.trip ∧ u.evw = s.evw ∧ u.attn = s.attn) ∧
      (∀ a, s.meter.state = .hired → s.meter.active = some a →
        s.meter.secondCount < a.tariff.slowThreshold →
        (s.meter.acc + a.tariff.timeInc < 1048576 →
          u.meter.acc = s.meter.acc + a.tariff.timeInc ∧ u.meter.fare = s.meter.fare ∧
          u.meter.fareCap = s.meter.fareCap ∧ u.meter.active = s.meter.active ∧
          u.meter.change = s.meter.change ∧ u.trip = s.trip ∧ u.evw = s.evw ∧
          u.attn = s.attn) ∧
        (1048576 ≤ s.meter.acc + a.tariff.timeInc →
          u.meter.acc = s.meter.acc + a.tariff.timeInc - 1048576 ∧
          u.meter.fare = min (s.meter.fare + a.tariff.stepAmount) 9999999 ∧
          (u.meter.fareCap = true ↔
            s.meter.fareCap = true ∨ 9999999 < s.meter.fare + a.tariff.stepAmount) ∧
          (s.meter.change = none → u.meter.active = s.meter.active ∧ u.meter.change = none ∧
            u.evw = s.evw ∧ u.attn = s.attn) ∧
          (∀ c r, s.meter.change = some c → slotTariff s.meter c.slot = some r → ∃ p,
            p = produce 0 (.tariffApplied c.kind c.slot r.version a.slot a.tariff.version
              (min (s.meter.fare + a.tariff.stepAmount) 9999999)) s ∧
            u.meter.active = some { slot := c.slot, tariff := r } ∧ u.meter.change = none ∧
            u.evw = p.evw ∧ u.attn = p.attn))) ∧
      t.trip.next = s.trip.next ∧ t.trip.shift = s.trip.shift ∧
      t.settings.accepted = s.settings.accepted ∧ t.emerg.box = s.emerg.box ∧
      t.position.record = s.position.record ∧ MemorySideKept s t

/-- The counts of a second tick: the clock and the time base up by one, the fix age up by one while the part is released, each running timer in seconds down by one and the contention clock up by one, unless an end row of the same tick has taken that count already; a tick at which no timer comes to its end and no report waits does no more outside the meter. Where an end row comes after an arrival of its tick, the timers that stand at their full length, which that arrival started, are spared the count. The one count at a tick, the spared timers, the clock's wrap and the contention clock's start between ticks are the model's choices (log entries 4, 10, 24). -/
def Obligations.TickCountsEverySecondsTimer : Prop :=
  (∀ s : State, s.book.counted = false → openTick s = { s with
    book := { s.book with counted := true }
    offers := { s.offers with entries := s.offers.entries.map (fun e =>
      e.map (fun o => { o with remaining := o.remaining.map (· - 1) })) }
    sup := { s.sup with ready := s.sup.ready.map (· - 1), powerOff := s.sup.powerOff.map (· - 1),
                        stuckBusy := s.sup.stuckBusy.map (· - 1),
                        healthy := s.sup.healthy.map (· - 1) }
    emerg := { s.emerg with repeatTimer := s.emerg.repeatTimer.map (· - 1),
                            cooldownTimer := s.emerg.cooldownTimer.map (· - 1),
                            trackTimer := s.emerg.trackTimer.map (· - 1),
                            graceTimer := s.emerg.graceTimer.map (· - 1) }
    trip := { s.trip with holdoff := s.trip.holdoff.map (· - 1) }
    link := { s.link with clock := s.link.clock.map (· + 1) } }) ∧
  (∀ s : State, s.book.counted = true → openTick s = s) ∧
  (∀ s : State, ∃ u, u = openTick { s with
      clock := s.clock + 1
      secs := s.secs + 1
      position := if s.phase = .running
        then { s.position with fixAge := min (s.position.fixAge + 1) 65535 } else s.position } ∧
    countTick s = { u with book := { u.book with counted := false } }) ∧
  (∀ s u : State, u = openTick s → s.phase = .running → s.meter.state ≠ .hired →
    heldReports s = [] →
    (∀ n, u.link.clock = some n → n ≤ s.settings.accepted.dwell) →
    (∀ x, x = u.sup.ready ∨ x = u.sup.powerOff ∨ x = u.sup.stuckBusy ∨ x = u.sup.healthy ∨
      x = u.emerg.repeatTimer ∨ x = u.emerg.cooldownTimer ∨ x = u.emerg.trackTimer ∨
      x = u.emerg.graceTimer ∨ x = u.trip.holdoff → x ≠ some 0) →
    (∀ o, some o ∈ u.offers.entries → o.remaining ≠ some 0) →
    ∃ t, exec .secondTick s = .next t ∧ t = (countTick s).setMeter t.meter) ∧
  (∀ s u t : State, u = openTick s → t = spareSup s u →
    t = (u.setSup t.sup).setLink { u.link with clock := t.link.clock } ∧
    t.sup.cycles = s.sup.cycles ∧ t.sup.override = s.sup.override ∧
    (t.sup.ready = if s.sup.ready = some 5 then some 5 else u.sup.ready) ∧
    (t.sup.powerOff = if s.sup.powerOff = some s.settings.accepted.powerOffTime
      then s.sup.powerOff else u.sup.powerOff) ∧
    (t.sup.stuckBusy = if s.sup.stuckBusy = some s.settings.accepted.busyLimit
      then s.sup.stuckBusy else u.sup.stuckBusy) ∧
    (t.sup.healthy = if s.sup.healthy = some 60 then some 60 else u.sup.healthy) ∧
    (t.link.clock = if s.link.clock = some 0 then some 0 else u.link.clock)) ∧
  (∀ s u t : State, u = openTick s → t = spareCall s u →
    t = u.setEmerg { u.emerg with
      repeatTimer := t.emerg.repeatTimer, cooldownTimer := t.emerg.cooldownTimer,
      trackTimer := t.emerg.trackTimer, graceTimer := t.emerg.graceTimer } ∧
    (t.emerg.repeatTimer = if s.emerg.repeatTimer = some s.settings.accepted.repeatInterval
      then s.emerg.repeatTimer else u.emerg.repeatTimer) ∧
    (t.emerg.cooldownTimer = if s.emerg.cooldownTimer = some s.settings.accepted.cooldown
      then s.emerg.cooldownTimer else u.emerg.cooldownTimer) ∧
    (t.emerg.trackTimer = if s.emerg.trackTimer = some s.settings.accepted.trackInterval
      then s.emerg.trackTimer else u.emerg.trackTimer) ∧
    (t.emerg.graceTimer = if s.emerg.graceTimer = some s.settings.accepted.grace
      then s.emerg.graceTimer else u.emerg.graceTimer)) ∧
  (∀ s u : State,
    (s.sup.override = true → spareRaise s u = spareSup s (spareCall s u)) ∧
    (s.sup.override = false → spareRaise s u = spareCall s u) ∧
    (∃ v, v = spareSup s (spareCall s u) ∧ spareRelease s u = v.setTrip { u.trip with
      holdoff := if s.trip.holdoff = some 60 then some 60 else u.trip.holdoff }))

/-- Timers at a second tick: every timer in seconds that the counts bring to 0 ends at that tick, one after another, in the model's order (log entry 15), and then the held reports take free places; the dwell has surely passed at the tick after its own (log entry 24). A row that names a timer's end takes the tick's count of the timers, if no row of that tick has, and ends that timer where the count leaves it at 0, so a timer the row starts does not count that tick; where the timer is stopped or started anew and another timer stands at its full length, as after an arrival of the same tick that was taken first (a commit, a rise or a fall of RDY, a raise, an ALARM_ACK, a release), it takes that count with the timers started then spared; otherwise it changes nothing: the model's reading (log entry 4). -/
def Obligations.TimersThatRunOutEndAtTheTick : Prop :=
  (∀ s : State, s.phase ≠ .fullReset →
    exec .secondTick s = .next (placeHeld (endTimers (countTick (meterTick s))))) ∧
  (∀ s : State, s.phase = .fullReset → exec .secondTick s = .next s) ∧
  (∀ s : State, ∃ a b c d e f g h i j k : State,
    a = (if s.sup.healthy = some 0 then healthyEnd s else s) ∧
    b = (if a.sup.stuckBusy = some 0 then stuckBusyEnd a else a) ∧
    c = (if b.sup.ready = some 0 then readyEnd b else b) ∧
    d = (if c.sup.powerOff = some 0 then powerOffEnd c else c) ∧
    e = (List.range 8).foldl (fun x n => if remainingOf n x = some 0 then windowEnd n x else x) d ∧
    f = (if awardRemaining e = some 0 then awardWaitEnd e else e) ∧
    g = (if f.trip.holdoff = some 0 then holdoffEnd f else f) ∧
    (∀ n, g.link.clock = some n → g.link.state = .contend → g.settings.accepted.dwell < n →
      g.link.dwellPassed = false → h = dwellEnd g) ∧
    (g.link.clock = none ∨ g.link.state ≠ .contend ∨ g.link.dwellPassed = true ∨
      (∃ n, g.link.clock = some n ∧ n ≤ g.settings.accepted.dwell) → h = g) ∧
    i = (if h.emerg.state = .calling ∧ h.emerg.repeatTimer = some 0 then repeatEnd h else h) ∧
    j = (if i.emerg.state = .cooldown ∧ i.emerg.cooldownTimer = some 0 then nextRound i else i) ∧
    k = (if j.emerg.state = .tracking ∧ j.emerg.trackTimer = some 0 then trackNow j else j) ∧
    endTimers s = (if k.emerg.graceTimer = some 0 then graceEnd k else k)) ∧
  (∀ s u : State, u = openTick s → s.phase = .running →
    (u.sup.healthy = some 0 → exec .healthyTimerEnd s = .next (healthyEnd u)) ∧
    (u.sup.stuckBusy = some 0 → s.link.state = .listen ∨ s.link.state = .contend →
      s.pins.cd = true → exec .stuckBusyTimerEnd s = .next (stuckBusyEnd u)) ∧
    (u.sup.ready = some 0 → s.link.state = .powerOnWait → s.pins.rdy = false →
      exec .readyTimerEnd s = .next (readyEnd u)) ∧
    (u.sup.powerOff = some 0 → s.link.state = .powerOff →
      exec .powerOffTimerEnd s = .next (powerOffEnd u)) ∧
    (∀ i : Fin 8, remainingOf i.val u = some 0 →
      exec (.offerWindowEnd i) s = .next (placeHeld (windowEnd i.val u))) ∧
    (awardRemaining u = some 0 → exec .awardWaitEnd s = .next (placeHeld (awardWaitEnd u))) ∧
    (u.trip.holdoff = some 0 → exec .holdoffEnd s = .next (holdoffEnd u)) ∧
    (u.emerg.repeatTimer = some 0 → s.emerg.state = .calling →
      exec .repeatTimerEnd s = .next (placeHeld (repeatEnd u))) ∧
    (u.emerg.cooldownTimer = some 0 → s.emerg.state = .cooldown →
      exec .cooldownEnd s = .next (placeHeld (nextRound u))) ∧
    (u.emerg.trackTimer = some 0 → s.emerg.state = .tracking →
      exec .trackingTimerEnd s = .next (placeHeld (trackNow u))) ∧
    (u.emerg.graceTimer = some 0 → exec .graceTimerEnd s = .next (graceEnd u))) ∧
  (∀ s u : State, u = openTick s →
    (u.sup.healthy ≠ some 0 → justCycled s = false → exec .healthyTimerEnd s = .next s) ∧
    (u.sup.stuckBusy ≠ some 0 → justWatched s = false → exec .stuckBusyTimerEnd s = .next s) ∧
    (u.sup.ready ≠ some 0 → justRestarted s = false → exec .readyTimerEnd s = .next s) ∧
    (u.sup.powerOff ≠ some 0 → exec .powerOffTimerEnd s = .next s) ∧
    (∀ i : Fin 8, remainingOf i.val u ≠ some 0 → justRaised s = false →
      exec (.offerWindowEnd i) s = .next s) ∧
    (awardRemaining u ≠ some 0 → exec .awardWaitEnd s = .next s) ∧
    (u.trip.holdoff ≠ some 0 → justReleased s = false → exec .holdoffEnd s = .next s) ∧
    (u.emerg.repeatTimer ≠ some 0 → justAnswered s = false → exec .repeatTimerEnd s = .next s) ∧
    (u.emerg.cooldownTimer ≠ some 0 → justAnswered s = false → exec .cooldownEnd s = .next s) ∧
    (u.emerg.trackTimer ≠ some 0 → exec .trackingTimerEnd s = .next s) ∧
    (u.emerg.graceTimer ≠ some 0 → justRaised s = false → exec .graceTimerEnd s = .next s)) ∧
  (∀ s u : State, u = openTick s →
    (justRestarted s = true → exec .readyTimerEnd s = .next (spareSup s u)) ∧
    (u.sup.healthy ≠ some 0 → justCycled s = true →
      exec .healthyTimerEnd s = .next (spareSup s u)) ∧
    (u.sup.stuckBusy ≠ some 0 → justWatched s = true →
      exec .stuckBusyTimerEnd s = .next (spareSup s u)) ∧
    (∀ i : Fin 8, remainingOf i.val u ≠ some 0 → justRaised s = true → s.phase = .running →
      exec (.offerWindowEnd i) s = .next (spareRaise s u)) ∧
    (u.trip.holdoff ≠ some 0 → justReleased s = true →
      exec .holdoffEnd s = .next (spareRelease s u)) ∧
    (justAnswered s = true → s.phase = .running →
      exec .repeatTimerEnd s = .next (spareCall s u) ∧
      exec .cooldownEnd s = .next (spareCall s u)) ∧
    (u.emerg.graceTimer ≠ some 0 → justRaised s = true →
      exec .graceTimerEnd s = .next (spareRaise s u))) ∧
  (∀ s : State,
    (justRestarted s = true ↔ (s.link.state = .powerOnWait ∧ s.sup.ready = some 5) ∨
      (channelAccess s.link.state = true ∧ s.sup.healthy = some 60)) ∧
    (justCycled s = true ↔
      s.link.state = .powerOff ∧ s.sup.powerOff = some s.settings.accepted.powerOffTime) ∧
    (justWatched s = true ↔ justCycled s = true ∨
      ((s.link.state = .listen ∨ s.link.state = .contend) ∧ s.pins.cd = true ∧
        s.sup.stuckBusy = some s.settings.accepted.busyLimit)) ∧
    (justRaised s = true ↔ s.emerg.state = .calling ∧ s.emerg.attempt = 1 ∧
      s.emerg.repeatTimer = some s.settings.accepted.repeatInterval) ∧
    (justAnswered s = true ↔ s.emerg.state = .tracking ∧
      s.emerg.trackTimer = some s.settings.accepted.trackInterval) ∧
    (justReleased s = true ↔ s.phase = .running ∧ s.trip.holdoff = some 60))

/-! ### Reports, the meter, trips and duty -/

/-- Closing the OPEN entries: each becomes CLOSING and holds OFFER_CLOSED with its own tag, the other entries stay; the reports are ordered by admission, which is the model's choice (log entry 22). -/
def Obligations.ClosingTheOpenOffersHoldsAReportForEach : Prop :=
  ∀ (r : ClosingReason) (s : State),
    closeOpen r s = (s.setOffers (closeOpen r s).offers).setBook (closeOpen r s).book ∧
    (closeOpen r s).offers = { s.offers with entries := (closeOpen r s).offers.entries } ∧
    (closeOpen r s).offers.entries.length = s.offers.entries.length ∧
    (∀ (i : Nat) (o : Offer), s.offers.entries[i]? = some (some o) → o.state = .open →
      ∃ n, (closeOpen r s).offers.entries[i]? = some (some { o with
        state := .closing, remaining := none, progress := none, bidSeq := none, deferred := none,
        reason := some r, held := some { order := n, event :=
          { tag := o.tag, time := s.clock, payload := .offerClosed o.id r .noneOffered } } })) ∧
    (∀ (i : Nat) (e : Option Offer), s.offers.entries[i]? = some e → (∀ o, e = some o → o.state ≠ .open) →
      (closeOpen r s).offers.entries[i]? = some e) ∧
    (∀ (i j : Nat) (o p o' p' : Offer) (h k : HeldReport), s.offers.entries[i]? = some (some o) → o.state = .open →
      s.offers.entries[j]? = some (some p) → p.state = .open → o.admitted < p.admitted →
      (closeOpen r s).offers.entries[i]? = some (some o') →
      (closeOpen r s).offers.entries[j]? = some (some p') →
      o'.held = some h → p'.held = some k → h.order < k.order)

/-- A request the meter does not take is refused with the reason of Table 7, and changes nothing else; METER_STOP in HIRED, METER_RESUME in HOLD, METER_EXTRA and TARIFF_SELECT in both change their one meter item and produce METER_STATE with the tag. -/
def Obligations.MeterRequestsAreTakenOrRefusedByTable7 : Prop :=
  (∀ (tag : Half) (s : State), s.phase = .running →
    (∀ slot : Byte, 3 < slot.toNat →
      exec (.meterHire tag slot) s = .next (produce tag (.refused 0x05 .outOfRange) s) ∧
      exec (.tariffSelect tag slot) s = .next (produce tag (.refused 0x0A .outOfRange) s)) ∧
    (∀ slot : Byte, slot.toNat ≤ 3 → s.meter.state ≠ .vacant →
      exec (.meterHire tag slot) s = .next (produce tag (.refused 0x05 .wrongState) s)) ∧
    (∀ slot : Byte, slot.toNat ≤ 3 → s.meter.state = .vacant →
      s.meter.slots.getD slot.toNat none = none →
      exec (.meterHire tag slot) s = .next (produce tag (.refused 0x05 .noTariff) s)) ∧
    (s.meter.state ≠ .hired →
      exec (.meterStop tag) s = .next (produce tag (.refused 0x06 .wrongState) s)) ∧
    (s.meter.state ≠ .hold →
      exec (.meterResume tag) s = .next (produce tag (.refused 0x07 .wrongState) s)) ∧
    (∀ (amount : Half) (code : Byte), amount = 0 ∨ 15 < code.toNat →
      exec (.meterExtra tag amount code) s = .next (produce tag (.refused 0x08 .outOfRange) s)) ∧
    (∀ (amount : Half) (code : Byte), amount ≠ 0 → code.toNat ≤ 15 → s.meter.state = .vacant →
      exec (.meterExtra tag amount code) s = .next (produce tag (.refused 0x08 .wrongState) s)) ∧
    (s.meter.state ≠ .hold →
      exec (.meterClear tag) s = .next (produce tag (.refused 0x09 .wrongState) s)) ∧
    (∀ slot : Byte, slot.toNat ≤ 3 → s.meter.state = .vacant →
      exec (.tariffSelect tag slot) s = .next (produce tag (.refused 0x0A .wrongState) s)) ∧
    (∀ slot : Byte, slot.toNat ≤ 3 → s.meter.state ≠ .vacant →
      s.meter.slots.getD slot.toNat none = none →
      exec (.tariffSelect tag slot) s = .next (produce tag (.refused 0x0A .noTariff) s))) ∧
  (∀ (tag : Half) (s : State), s.phase = .running →
    (s.meter.state = .hired → exec (.meterStop tag) s = .next (produce tag
      (.meterState 0x06 .hired .hold (s.meter.active.map (·.slot)) s.meter.change s.meter.fare
        s.meter.extras 0 0 0) (s.setMeter { s.meter with state := .hold }))) ∧
    (s.meter.state = .hold → exec (.meterResume tag) s = .next (produce tag
      (.meterState 0x07 .hold .hired (s.meter.active.map (·.slot)) s.meter.change s.meter.fare
        s.meter.extras 0 0 0) (s.setMeter { s.meter with state := .hired }))) ∧
    (∀ (amount : Half) (code : Byte), s.meter.state ≠ .vacant → amount ≠ 0 → code.toNat ≤ 15 →
      exec (.meterExtra tag amount code) s = .next (produce tag
        (.meterState 0x08 s.meter.state s.meter.state (s.meter.active.map (·.slot)) s.meter.change
          s.meter.fare (s.meter.extras + min amount.toNat (99999 - s.meter.extras)) code.toNat
          amount.toNat (min amount.toNat (99999 - s.meter.extras)))
        (s.setMeter { s.meter with
          extras := s.meter.extras + min amount.toNat (99999 - s.meter.extras) }))) ∧
    (∀ (slot : Byte) (r : Tariff), s.meter.state ≠ .vacant → slot.toNat ≤ 3 →
      s.meter.slots.getD slot.toNat none = some r →
      exec (.tariffSelect tag slot) s = .next (produce tag
        (.meterState 0x0A s.meter.state s.meter.state (s.meter.active.map (·.slot))
          (some { kind := .select, slot := slot.toNat }) s.meter.fare s.meter.extras 0 0 0)
        (s.setMeter { s.meter with change := some { kind := .select, slot := slot.toNat } }))))

/-- METER_HIRE taken: the held job settles first (an AWARDED one closes DONE and gives the trip its offer id, a bid is abandoned by its progress or, ON_AIR, deferred by the last column of R119), the meter starts, the trip opens, and every consequence follows in order: METER_STATE, DUTY_CHANGED when the duty was not BUSY, the OPEN entries closed SUPERSEDED, the reports placed. -/
def Obligations.HireStartsTheHiringAndOpensTheTrip : Prop :=
  (∀ (tag : Half) (slot : Byte) (r : Tariff) (s : State), s.phase = .running →
    slot.toNat ≤ 3 → s.meter.state = .vacant → s.meter.slots.getD slot.toNat none = some r →
    ∃ z w t, exec (.meterHire tag slot) s = .next t ∧
      (findJob s = none → z = s) ∧
      (∀ i o, findJob s = some (i, o) →
        (o.state = .awarded → z = closeOffer i o .done .noneOffered s) ∧
        (o.state ≠ .awarded → z = hireBid i o s)) ∧
      t.meter = { s.meter with
        state := .hired, active := some { slot := slot.toNat, tariff := r }, change := none,
        acc := 0, fare := r.flagDrop, fareCap := false, extras := 0, hiredPulses := 0,
        elapsed := 0, holdSecs := 0, peak := 0 } ∧
      t.trip.openTrip = some
        { number := s.trip.next,
          offerId := (findJob s).bind (fun p => if p.2.state = .awarded then some p.2.id else none),
          start := s.clock, finish := 0, hiredPulses := 0, holdSecs := 0, fare := 0, extras := 0,
          total := 0, peak := 0, emergency := s.emerg.state ≠ .quiet, pulseFault := false,
          fareCap := false, unreported := false, truncated := false,
          segments := [{ slot := slot.toNat, version := r.version, steps := 0 }] } ∧
      t.trip.next = (if s.trip.next = 4294967295 then 1 else s.trip.next + 1) ∧
      w = produce tag (.meterState 0x05 .vacant .hired (some slot.toNat) none r.flagDrop 0 0 0 0)
        ((z.setMeter t.meter).setTrip { z.trip with
          openTrip := t.trip.openTrip, next := t.trip.next }) ∧
      (effectiveDuty s = .busy → t = placeHeld (tripTest (closeOpen .superseded w))) ∧
      (effectiveDuty s ≠ .busy → t = placeHeld (tripTest (closeOpen .superseded (produce tag
        (.dutyChanged s.offers.driverDuty .busy s.offers.driverDuty .meter) w)))) ∧
      t.trip.shift = s.trip.shift ∧ t.trip.logWrite = s.trip.logWrite ∧
      t.trip.logIndex = s.trip.logIndex ∧ t.clock = s.clock ∧
      t.settings.accepted = s.settings.accepted ∧ t.position = s.position ∧
      t.emerg.box = s.emerg.box ∧ MemorySideKept s t) ∧
  (∀ (i : Nat) (o : Offer) (s : State),
    (o.deferred = none → (∀ q e, o.bidSeq = some q → entryWith q s = some e → e.state ≠ .onAir) →
      ∃ z, z = (match o.bidSeq with | some q => withdrawEntry q s | none => s) ∧
      (o.progress = some .queued → hireBid i o s = closeOffer i o .abandoned .noneOffered z) ∧
      (o.progress = some .awaitAck ∨ o.progress = some .acked → ∃ u n,
        offerRelease o.id z = (u, n) ∧ hireBid i o s = closeOffer i o .abandoned n u)) ∧
    (∀ q, o.bidSeq = some q →
      (o.deferred ≠ none ∨ ∃ e, entryWith q s = some e ∧ e.state = .onAir) → ∃ d,
      (o.deferred = none ∨ o.deferred = some .abandon → d = .abandon) ∧
      (o.deferred = some .award ∨ o.deferred = some .late → d = .late) ∧
      (o.deferred = some .taken → d = .taken) ∧
      hireBid i o s = (s.setUplink { s.uplink with
        entries := s.uplink.entries.map (fun x => if x.seq = q
          then { x with abandon := true } else x) }).setOffers { s.offers with
        entries := s.offers.entries.set i (some { o with
          deferred := some d, remaining := none }) }))

/-- METER_CLEAR in HOLD: the record closes with the meter's values, joins the backlog or is UNREPORTED, enters the shift totals and becomes the log-write record; TRIP_CLOSED joins the pending list, the meter is VACANT with its live values 0, METER_STATE and then the duty's change follow, R34 is tested, the reports are placed. -/
def Obligations.ClearClosesTheTrip : Prop :=
  ∀ (tag : Half) (r : TripRecord) (s : State), s.phase = .running → s.meter.state = .hold →
    s.trip.openTrip = some r →
    ∃ t u v w c, exec (.meterClear tag) s = .next t ∧
      c = { r with
        finish := s.clock, fare := s.meter.fare, extras := s.meter.extras,
        total := s.meter.fare + s.meter.extras, hiredPulses := s.meter.hiredPulses,
        holdSecs := s.meter.holdSecs, peak := s.meter.peak, fareCap := s.meter.fareCap,
        unreported := decide (16 ≤ s.trip.backlog.length) } ∧
      u = s.setTrip { s.trip with
        openTrip := none, logWrite := some c,
        backlog := (if 16 ≤ s.trip.backlog.length then s.trip.backlog
          else s.trip.backlog ++ [c]),
        shift := { s.trip.shift with
          trips := min (s.trip.shift.trips + 1) 4294967295,
          fareTotal := s.trip.shift.fareTotal + s.meter.fare,
          extrasTotal := s.trip.shift.extrasTotal + s.meter.extras,
          hiredPulses := min (s.trip.shift.hiredPulses + s.meter.hiredPulses) 4294967295,
          unreported := if 16 ≤ s.trip.backlog.length
            then min (s.trip.shift.unreported + 1) 4294967295 else s.trip.shift.unreported } } ∧
      (s.agent.initial = .done → v = requestTask .tripLog u) ∧
      (s.agent.initial ≠ .done → v = u) ∧
      w = ((v.setTrip { v.trip with
          reports := s.trip.reports ++ [{ order := s.book.produced, event :=
            { tag := tag, time := s.clock, payload := .tripClosed c.number c.fare c.extras c.total
                (BitVec.ofNat 8 c.flagBits) c.segments.length u.trip.backlog.length } }] }).setBook
          { s.book with produced := s.book.produced + 1 }).setMeter { s.meter with
            state := .vacant, active := none, change := none, fare := 0, fareCap := false,
            extras := 0, acc := 0, hiredPulses := 0, elapsed := 0, holdSecs := 0, peak := 0 } ∧
      t = placeHeld (tripTest (dutyAfter .busy tag .meter (produce tag
        (.meterState 0x09 .hold .vacant none none 0 0 0 0 0) w))) ∧
      (s.agent.initial = .done → taskListed .tripLog t = true) ∧
      t.meter = w.meter ∧ t.trip.openTrip = none ∧ t.trip.logWrite = some c ∧
      t.trip.next = s.trip.next ∧ t.trip.shift = u.trip.shift ∧
      t.trip.backlog = u.trip.backlog ∧ t.trip.logIndex = s.trip.logIndex ∧
      t.trip.holdoff = s.trip.holdoff ∧ t.mem = s.mem ∧ t.path = s.path ∧ t.reader = s.reader ∧
      t.clock = s.clock ∧ t.settings.accepted = s.settings.accepted ∧ t.position = s.position ∧
      t.emerg.box = s.emerg.box

/-- SHIFT_CLOSE: in VACANT SHIFT_CLOSED joins the pending list with the totals as they stood and the clock as the end time, and the totals restart at that clock; in HIRED and HOLD it is refused WRONG_STATE; the request carries no parameters; nothing else of the trip recorder changes but what a report placed relieves it of. -/
def Obligations.ShiftCloseRestartsTheTotals : Prop :=
  ∀ (tag : Half) (s : State), s.phase = .running →
    (s.meter.state = .vacant → ∃ t u, exec (.shiftClose tag) s = .next t ∧
      u = (s.setTrip { s.trip with
        reports := s.trip.reports ++ [{ order := s.book.produced, event :=
          { tag := tag, time := s.clock, payload := .shiftClosed s.trip.shift s.clock } }],
        shift := { trips := 0, fareTotal := 0, extrasTotal := 0, hiredPulses := 0, totalPulses := 0,
                   rejectedPulses := 0, unreported := 0, start := s.clock } }).setBook
        { s.book with produced := s.book.produced + 1 } ∧
      t = placeHeld u ∧ t.trip = { u.trip with reports := t.trip.reports } ∧
      t.meter = s.meter) ∧
    (s.meter.state ≠ .vacant →
      exec (.shiftClose tag) s = .next (produce tag (.refused 0x0B .wrongState) s) ∧
      (produce tag (.refused 0x0B .wrongState) s).trip = s.trip) ∧
    (∀ ps, lengthAgrees 0x0B ps = true ↔ ps = [])

/-- TRIP_ENQUEUE and HOLDOFF_END: the TRIP entry for the oldest trip is offered exactly when R34 holds; the end of the holdoff stops it and tests R34. HOLDOFF_END names an end at the tick at hand, whose count it takes if no row of that tick has; with the holdoff stopped, or not ended by that tick, it changes nothing, but that it takes the count, what a release has just started spared, where the holdoff stands at 60 s: the model's choices (log entries 3, 4). -/
def Obligations.TripEntryFollowsTheBacklogTest : Prop :=
  ∀ s : State,
    (∀ r rest, s.trip.backlog = r :: rest → s.phase = .running →
      countClass .trip s.uplink.entries = 0 → s.uplink.entries.length < 12 →
      s.trip.holdoff = none → s.link.state ≠ .offline → s.link.state ≠ .failed →
      exec .tripEnqueue s =
        .next (offerEntry .trip r.airImage false false (.trip r.number) s).1) ∧
    ((s.trip.backlog = [] ∨ s.phase ≠ .running ∨ countClass .trip s.uplink.entries ≠ 0 ∨
        12 ≤ s.uplink.entries.length ∨ s.trip.holdoff ≠ none ∨ s.link.state = .offline ∨
        s.link.state = .failed) → exec .tripEnqueue s = .next s) ∧
    (∀ u, u = openTick s →
      (u.trip.holdoff = some 0 →
        exec .holdoffEnd s = exec .tripEnqueue (u.setTrip { u.trip with holdoff := none })) ∧
      (u.trip.holdoff ≠ some 0 → justReleased s = false → exec .holdoffEnd s = .next s) ∧
      (u.trip.holdoff ≠ some 0 → justReleased s = true →
        exec .holdoffEnd s = .next (spareRelease s u))) ∧
    (s.trip.holdoff = none → exec .holdoffEnd s = .next s)

/-- TARIFF: a valid body writes the slot, sets RELOAD by R5 and produces TARIFF_LOADED; an invalid one changes no slot. For CAB a new frame is acknowledged "taken" or "refused" and joins the dedupe list. The fields of a valid body stand at their places in it. -/
def Obligations.TariffFramesLoadTheSlot : Prop :=
  ∀ (f : DownFrame) (s : State), s.phase = .running → ∃ u,
    (∀ slot r, tariffBody f.body = some (slot, r) → u = produce 0
      (.tariffLoaded slot r.version (scopeOf f.flags)
        (s.meter.state != .vacant && s.meter.active.map (·.slot) == some slot))
      (s.setMeter { s.meter with
        slots := s.meter.slots.set slot (some r),
        change := if s.meter.state ≠ .vacant ∧ s.meter.active.map (·.slot) = some slot
          then some { kind := .reload, slot := slot } else s.meter.change })) ∧
    (tariffBody f.body = none → u = s) ∧
    (scopeOf f.flags = 2 → exec (.tariff f) s = .next (freeBuffer 0x16 f u)) ∧
    (scopeOf f.flags = 0 → dedupeFind f.seq s = none → ∀ r,
      r = (if (tariffBody f.body).isSome then AckResult.taken else AckResult.refused) →
      exec (.tariff f) s = .next (freeBuffer 0x16 f (dedupeAdd f.seq r
        (offerAck 0x16 f.seq r u)))) ∧
    (∀ slot r, tariffBody f.body = some (slot, r) ↔
      f.body.length = 16 ∧ slot = (byteAt f.body 0).toNat ∧ slot ≤ 3 ∧
      r.version = natBE (slice f.body 1 2) ∧ r.flagDrop = natBE (slice f.body 3 2) ∧
      r.stepAmount = natBE (slice f.body 5 2) ∧ r.distanceInc = natBE (slice f.body 7 4) ∧
      r.timeInc = natBE (slice f.body 11 4) ∧ r.slowThreshold = natBE (slice f.body 15 1) ∧
      r.version ≤ 65535 ∧ r.flagDrop ≤ 65535 ∧ 1 ≤ r.stepAmount ∧ r.stepAmount ≤ 1000 ∧
      r.distanceInc ≤ 1048575 ∧ r.timeInc ≤ 1048575 ∧ r.slowThreshold ≤ 255 ∧
      (0 < r.distanceInc ∨ 0 < r.timeInc))

/-- DUTY_SET: the driver-set duty, DUTY_CHANGED in every case, and the OPEN entries closed when the effective duty is not FREE; a value of no duty is refused. After any other change DUTY_CHANGED follows when the effective duty is another one, then the same closings. -/
def Obligations.DutySetReportsAndCloses : Prop :=
  ∀ (tag : Half) (v : Byte) (d : Duty) (s : State), s.phase = .running →
    (Duty.ofCode v = some d →
      (effectiveDuty (s.setOffers { s.offers with driverDuty := d }) = .free →
        exec (.dutySet tag v) s = .next (placeHeld (produce tag
          (.dutyChanged d .free (effectiveDuty s) .dutySet)
          (s.setOffers { s.offers with driverDuty := d })))) ∧
      (effectiveDuty (s.setOffers { s.offers with driverDuty := d }) ≠ .free →
        exec (.dutySet tag v) s = .next (placeHeld (closeOpen .superseded (produce tag
          (.dutyChanged d (effectiveDuty (s.setOffers { s.offers with driverDuty := d }))
            (effectiveDuty s) .dutySet)
          (s.setOffers { s.offers with driverDuty := d })))))) ∧
    (Duty.ofCode v = none → exec (.dutySet tag v) s =
      .next (produce tag (.refused 0x03 .outOfRange) s)) ∧
    (Duty.ofCode v = none ↔ 2 < v.toNat) ∧
    (effectiveDuty s = .busy ↔ s.meter.state ≠ .vacant ∨ anyAwarded s = true ∨
      s.offers.driverDuty = .busy) ∧
    (effectiveDuty s ≠ .busy → effectiveDuty s = s.offers.driverDuty) ∧
    (∀ (before : Duty) (cause : DutyCause), ∃ t,
      (effectiveDuty s = before → t = s) ∧
      (effectiveDuty s ≠ before → t = produce tag
        (.dutyChanged s.offers.driverDuty (effectiveDuty s) before cause) s) ∧
      (effectiveDuty s = .free → dutyAfter before tag cause s = t) ∧
      (effectiveDuty s ≠ .free → dutyAfter before tag cause s = closeOpen .superseded t))

/-! ### The uplink queue and the link -/

/-- An owner's offer is answered by the first matching case; an admitted entry takes the first free number and its place by priority, and the link acts at once; ALARM and BID displace the last candidate of a full queue, whose owner is told. The last clauses are the rows of Table 20: cap, priority and whether an ACK is needed. The two answers FULL that R80 and R82 rule out are the model's choice (log entry 25). -/
def Obligations.EntriesAreAdmittedByCapNumberAndPlace : Prop :=
  (∀ (cls : UpClass) (body : List Byte) (tr ca : Bool) (ref : OwnerRef) (s : State),
    (cls ≠ .alarm → s.link.state = .offline ∨ s.link.state = .failed →
      offerEntry cls body tr ca ref s = (s, .linkDown)) ∧
    ((cls = .alarm ∨ s.link.state ≠ .offline ∧ s.link.state ≠ .failed) →
      (cls.cap ≤ countClass cls s.uplink.entries →
        offerEntry cls body tr ca ref s = (s, .full)) ∧
      (countClass cls s.uplink.entries < cls.cap → 12 ≤ s.uplink.entries.length →
        cls ≠ .alarm → cls ≠ .bid → offerEntry cls body tr ca ref s = (s, .full)) ∧
      (countClass cls s.uplink.entries < cls.cap → s.uplink.entries.length < 12 →
        offerEntry cls body tr ca ref s = insertNew cls body tr ca ref s) ∧
      (countClass cls s.uplink.entries < cls.cap → 12 ≤ s.uplink.entries.length →
        cls = .alarm ∨ cls = .bid →
        (∀ e, displaced s.uplink.entries = some e → offerEntry cls body tr ca ref s =
          insertNew cls body tr ca ref (tellDisplaced e (removeEntry e.seq s))) ∧
        (displaced s.uplink.entries = none →
          offerEntry cls body tr ca ref s = (s, .full)))) ∧
    (∀ q, allocSeq s.link.seqCounter s.settings.accepted.seqMax s.uplink.entries = some q →
      insertNew cls body tr ca ref s =
        (linkReact ((s.setUplink { s.uplink with
          nextTime := s.uplink.nextTime + 1,
          entries := insertEntry
            { cls := cls, seq := q, body := body, tracking := tr, cancelled := ca, ref := ref,
              attempts := 0, state := .queued, answered := false, abandon := false,
              ackTimer := none, time := s.uplink.nextTime } s.uplink.entries }).setLink
          { s.link with seqCounter := (q + 1) % (s.settings.accepted.seqMax + 1) }),
         .admitted q)) ∧
    (allocSeq s.link.seqCounter s.settings.accepted.seqMax s.uplink.entries = none →
      insertNew cls body tr ca ref s = (s, .full))) ∧
  (∀ (e : Entry) (s : State),
    (e.cls = .status ∨ e.cls = .ack → tellDisplaced e s = s.setUplink { s.uplink with
      dropped := min (s.uplink.dropped + 1) 65535 }) ∧
    (∀ i x, e.cls = .text → e.ref = .slot i → s.pool.slots.getD i none = some x →
      tellDisplaced e s = (s.setPool { s.pool with slots := s.pool.slots.set i (some { x with
        ref := none, attempts := some e.attempts,
        held := some { order := s.book.produced, event :=
          { tag := x.tag, time := s.clock,
            payload := .textFailed .displaced i e.seq e.attempts } } }) }).setBook
        { s.book with produced := s.book.produced + 1 }) ∧
    (e.cls = .trip → tellDisplaced e s = s) ∧
    removeEntry e.seq s = (s.setUplink { s.uplink with
      entries := s.uplink.entries.filter (fun x => x.seq != e.seq) }).setLink { s.link with
        target := if s.link.target = some e.seq then none else s.link.target,
        keyed := if s.link.keyed = some e.seq then none else s.link.keyed }) ∧
  (∀ (c m q : Nat) (es : List Entry), allocSeq c m es = some q →
    ∃ k, k < 16 ∧ q = (c + k) % (m + 1) ∧ seqUsed q es = false ∧
      ∀ j, j < k → seqUsed ((c + j) % (m + 1)) es = true) ∧
  (∀ (c m : Nat) (es : List Entry), 15 ≤ m → es.length < 16 → allocSeq c m es ≠ none) ∧
  (∀ (e : Entry) (es : List Entry), ∃ a b, es = a ++ b ∧ insertEntry e es = a ++ e :: b ∧
    (∀ x ∈ a, x.cls.priority ≤ e.cls.priority) ∧
    (∀ x ∈ b.head?, e.cls.priority < x.cls.priority)) ∧
  (∀ (e : Entry) (es : List Entry), displaced es = some e →
    ∃ a b, es = a ++ e :: b ∧ e.state ≠ .onAir ∧
      (e.cls = .text ∨ e.cls = .trip ∨ e.cls = .status ∨ e.cls = .ack) ∧
      ∀ x ∈ b, x.state = .onAir ∨ x.cls = .alarm ∨ x.cls = .bid ∨ x.cls = .release) ∧
  (UpClass.cap .alarm = 1 ∧ UpClass.priority .alarm = 0 ∧ UpClass.needsAck .alarm = false) ∧
  (UpClass.cap .bid = 1 ∧ UpClass.priority .bid = 1 ∧ UpClass.needsAck .bid = true) ∧
  (UpClass.cap .release = 2 ∧ UpClass.priority .release = 1 ∧ UpClass.needsAck .release = true) ∧
  (UpClass.cap .ack = 4 ∧ UpClass.priority .ack = 2 ∧ UpClass.needsAck .ack = false) ∧
  (UpClass.cap .status = 1 ∧ UpClass.priority .status = 3 ∧ UpClass.needsAck .status = false) ∧
  (UpClass.cap .trip = 1 ∧ UpClass.priority .trip = 4 ∧ UpClass.needsAck .trip = true) ∧
  (UpClass.cap .text = 8 ∧ UpClass.priority .text = 5 ∧ UpClass.needsAck .text = true)

/-- The link's answer to a change of the queue: in LISTEN a pending channel that may be applied, else a contention for the first QUEUED entry with a draw in the range of R67; in CONTEND preemption, a new target, or with no QUEUED entry back to LISTEN, where a pending channel that may be applied is applied. Whatever takes the link out of LISTEN or CONTEND gives up what the deframer holds (R45) and stops the busy timer (R92). The draw itself is a free value (log entry 5). -/
def Obligations.TheLinkContendsForTheFirstQueuedEntry : Prop :=
  ∀ s : State,
    (s.link.state ≠ .listen → s.link.state ≠ .contend → linkReact s = s) ∧
    (s.link.state = .listen → noFrameInAssembly s = true → ∀ c, s.link.pendingChannel = some c →
      linkReact s = applyChannel s ∧ EntersSettle c s (applyChannel s)) ∧
    (s.link.state = .listen → s.link.pendingChannel = none ∨ noFrameInAssembly s = false →
      (firstQueued s = none → linkReact s = s) ∧
      (∀ e, firstQueued s = some e → linkReact s =
        drawFor e (s.setLink { s.link with clock := some 0, dwellPassed := false }))) ∧
    (s.link.state = .contend → ∀ t, queuedTarget s = some t →
      (∀ e, firstQueued s = some e → e.cls.priority < t.cls.priority →
        linkReact s = congestFactor (drawFor e s)) ∧
      (∀ e, firstQueued s = some e → t.cls.priority ≤ e.cls.priority →
        linkReact s = congestFactor s)) ∧
    (s.link.state = .contend → queuedTarget s = none →
      (∀ e, firstQueued s = some e → linkReact s = congestFactor
        (drawFor e (s.setLink { s.link with clock := some 0, dwellPassed := false })))) ∧
    (s.link.state = .contend → queuedTarget s = none → firstQueued s = none → ∃ u,
      u = s.setLink { s.link with
        state := .listen, target := none, backoff := 0, slotTimer := none, clock := none,
        dwellPassed := false, keyed := none, phaseTimer := none, tx := [] } ∧
      (s.link.pendingChannel = none ∨ noFrameInAssembly s = false → linkReact s = u) ∧
      (s.link.pendingChannel ≠ none → noFrameInAssembly s = true →
        linkReact s = applyChannel u)) ∧
    (∀ e : Entry, ∃ n, (e.cls = .alarm → n < 2) ∧
      (e.cls ≠ .alarm → n < 2 ^ min (s.settings.accepted.backoffMin + e.attempts)
        s.settings.accepted.backoffMax) ∧
      (s.pins.cd = true → drawFor e s = countDrawn (s.setLink { s.link with
        state := .contend, target := some e.seq, backoff := n, slotTimer := none })) ∧
      (s.pins.cd = false → n ≠ 0 → drawFor e s = countDrawn (s.setLink { s.link with
        state := .contend, target := some e.seq, backoff := n,
        slotTimer := some s.settings.accepted.slotTime })) ∧
      (s.pins.cd = false → n = 0 → EntersKeyup (countDrawn (s.setLink { s.link with
        state := .contend, target := some e.seq, backoff := 0,
        slotTimer := some s.settings.accepted.slotTime })) (drawFor e s)))

/-- A frame handed over: a duplicate is acknowledged again with the held result and not handed to its owner; with a scope its class does not allow it is discarded and counted, for each class and each such scope, where the row is commanded with such a frame (log entry 14); the buffer that held the frame becomes FREE. -/
def Obligations.RepeatedFramesAreAckedAndNotHandedOver : Prop :=
  ∀ (f : DownFrame) (s : State), s.phase = .running →
    (scopeOf f.flags = 0 → ∀ r, dedupeFind f.seq s = some r →
      exec (.award f) s = .next (placeHeld (tripTest (freeBuffer 0x13 f
        (offerAck 0x13 f.seq r s)))) ∧
      exec (.withdraw f) s = .next (placeHeld (tripTest (freeBuffer 0x12 f
        (offerAck 0x12 f.seq r s)))) ∧
      exec (.alarmEnd f) s = .next (placeHeld (tripTest (freeBuffer 0x18 f
        (offerAck 0x18 f.seq r s)))) ∧
      exec (.text f) s = .next (freeBuffer 0x15 f (offerAck 0x15 f.seq r s)) ∧
      exec (.tariff f) s = .next (freeBuffer 0x16 f (offerAck 0x16 f.seq r s))) ∧
    (∀ t, t = s.setRx { s.rx with unknown := min (s.rx.unknown + 1) 65535 } →
      (scopeAllowed .offer (scopeOf f.flags) = false →
        exec (.offer f) s = .next (freeBuffer 0x11 f t)) ∧
      (scopeAllowed .withdraw (scopeOf f.flags) = false →
        exec (.withdraw f) s = .next (placeHeld (tripTest (freeBuffer 0x12 f t)))) ∧
      (scopeAllowed .award (scopeOf f.flags) = false →
        exec (.award f) s = .next (placeHeld (tripTest (freeBuffer 0x13 f t)))) ∧
      (scopeAllowed .reject (scopeOf f.flags) = false →
        exec (.reject f) s = .next (placeHeld (tripTest (freeBuffer 0x14 f t)))) ∧
      (scopeAllowed .text (scopeOf f.flags) = false →
        exec (.text f) s = .next (freeBuffer 0x15 f t)) ∧
      (scopeAllowed .tariff (scopeOf f.flags) = false →
        exec (.tariff f) s = .next (freeBuffer 0x16 f t)) ∧
      (scopeAllowed .alarmAck (scopeOf f.flags) = false →
        exec (.alarmAck f) s = .next (placeHeld (tripTest (freeBuffer 0x17 f t)))) ∧
      (scopeAllowed .alarmEnd (scopeOf f.flags) = false →
        exec (.alarmEnd f) s = .next (placeHeld (tripTest (freeBuffer 0x18 f t)))) ∧
      (scopeAllowed .ack (scopeOf f.flags) = false →
        exec (.ack f) s = .next (placeHeld (freeBuffer 0x19 f t))) ∧
      (scopeAllowed .poll (scopeOf f.flags) = false →
        exec (.poll f) s = .next (freeBuffer 0x1A f t)) ∧
      (scopeAllowed .channel (scopeOf f.flags) = false →
        exec (.channel f) s = .next (freeBuffer 0x1B f t))) ∧
    (∀ c n, s.rx.bufA = .ready c f n → (∀ m, s.rx.bufB ≠ .ready c f m) →
      freeBuffer c f s = s.setRx { s.rx with bufA := .free }) ∧
    (∀ c n, s.rx.bufB = .ready c f n → (∀ m, s.rx.bufA ≠ .ready c f m) →
      freeBuffer c f s = s.setRx { s.rx with bufB := .free }) ∧
    (∀ c, (∀ n, s.rx.bufA ≠ .ready c f n) → (∀ n, s.rx.bufB ≠ .ready c f n) →
      freeBuffer c f s = s) ∧
    (∀ c q r, offerAck c q r s =
      (if (offerEntry .ack ([c, q] ++ b1 r.code ++ [0]) false false .none s).2.ok
        then (offerEntry .ack ([c, q] ++ b1 r.code ++ [0]) false false .none s).1
        else countDropped (offerEntry .ack ([c, q] ++ b1 r.code ++ [0]) false false .none s).1))

/-- ACK: the matching entry leaves the queue at once, or is marked answered while ON_AIR, and its owner acts at once in either case; with no match only the unmatched count grows. An ACK body is four bytes, class acknowledged, sequence, result 0 or 1 and a reserved byte that is ignored (Table 48, R180, R185), and nothing matches where no entry of that class and sequence is one that needs an ACK and is not answered yet (R84). That a body whose result byte names no code matches nothing is the model's reading (R180, log entry 26). -/
def Obligations.AckFramesEndTheMatchingEntry : Prop :=
  (∀ (f : DownFrame) (s : State), s.phase = .running → scopeOf f.flags = 0 →
    ((ackBody f.body).bind (fun x => ackMatch x.1 x.2.1 s) = none →
      exec (.ack f) s = .next (placeHeld (freeBuffer 0x19 f (s.setUplink { s.uplink with
        unmatched := min (s.uplink.unmatched + 1) 65535 })))) ∧
    (∀ c q r e, ackBody f.body = some (c, q, r) → ackMatch c q s = some e →
      e ∈ s.uplink.entries ∧ e.cls.code = c ∧ e.seq = q ∧ e.answered = false ∧
        (e.cls = .bid ∨ e.cls = .release ∨ e.cls = .trip ∨ e.cls = .text)) ∧
    (∀ c q r e, ackBody f.body = some (c, q, r) → ackMatch c q s = some e → e.state ≠ .onAir →
      (e.cls = .release → exec (.ack f) s = .next (placeHeld (freeBuffer 0x19 f
        (leaveQueue q s)))) ∧
      (∀ n, e.cls = .trip → e.ref = .trip n → exec (.ack f) s = .next (placeHeld (freeBuffer 0x19 f
        (leaveQueue q ((s.setTrip { s.trip with
          backlog := s.trip.backlog.drop 1,
          reports := s.trip.reports ++ [{ order := s.book.produced, event :=
            { tag := 0, time := s.clock,
              payload := .tripReported n (s.trip.backlog.length - 1) } }] }).setBook
          { s.book with produced := s.book.produced + 1 }))))) ∧
      (∀ i x, e.cls = .text → e.ref = .slot i → s.pool.slots.getD i none = some x →
        exec (.ack f) s = .next (placeHeld (freeBuffer 0x19 f (leaveQueue q
          ((s.setPool { s.pool with slots := s.pool.slots.set i (some { x with
            ref := none, attempts := some e.attempts,
            held := some { order := s.book.produced, event :=
              { tag := x.tag, time := s.clock,
                payload := .textDelivered r i q e.attempts } } }) }).setBook
          { s.book with produced := s.book.produced + 1 }))))) ∧
      (∀ i o, e.cls = .bid → e.ref = .offer i → s.offers.entries.getD i none = some o →
        o.deferred = none → exec (.ack f) s = .next (placeHeld (freeBuffer 0x19 f (leaveQueue q
          (s.setOffers { s.offers with entries := s.offers.entries.set i (some { o with
            progress := some .acked, remaining := some s.settings.accepted.awardWait,
            bidSeq := none }) }))))) ) ∧
    (∀ c q r e, ackBody f.body = some (c, q, r) → ackMatch c q s = some e → e.state = .onAir →
      ∃ v, v = s.setUplink { s.uplink with
        entries := s.uplink.entries.map (fun x => if x.seq = q
          then { x with answered := true } else x) } ∧
      (e.cls = .release → exec (.ack f) s = .next (placeHeld (freeBuffer 0x19 f v))) ∧
      (∀ n, e.cls = .trip → e.ref = .trip n → exec (.ack f) s = .next (placeHeld (freeBuffer 0x19 f
        ((v.setTrip { s.trip with
          reports := s.trip.reports ++ [{ order := s.book.produced, event :=
            { tag := 0, time := s.clock,
              payload := .tripReported n (s.trip.backlog.length - 1) } }] }).setBook
          { s.book with produced := s.book.produced + 1 })))) ∧
      (∀ i x, e.cls = .text → e.ref = .slot i → s.pool.slots.getD i none = some x →
        exec (.ack f) s = .next (placeHeld (freeBuffer 0x19 f
          ((v.setPool { s.pool with slots := s.pool.slots.set i (some { x with
            attempts := some e.attempts,
            held := some { order := s.book.produced, event :=
              { tag := x.tag, time := s.clock,
                payload := .textDelivered r i q e.attempts } } }) }).setBook
          { s.book with produced := s.book.produced + 1 })))) ∧
      (∀ i o, e.cls = .bid → e.ref = .offer i → s.offers.entries.getD i none = some o →
        (o.deferred = none → exec (.ack f) s = .next (placeHeld (freeBuffer 0x19 f
          (v.setOffers { s.offers with entries := s.offers.entries.set i (some { o with
            progress := some .acked, remaining := some s.settings.accepted.awardWait }) })))) ∧
        (o.deferred ≠ none → exec (.ack f) s = .next (placeHeld (freeBuffer 0x19 f v)))))) ∧
  (∀ (body : List Byte) (c : Byte) (q : Nat) (r : AckResult), ackBody body = some (c, q, r) ↔
    ∃ p x y : Byte, body = [c, p, x, y] ∧ q = p.toNat ∧
      (x = 0 ∧ r = .taken ∨ x = 1 ∧ r = .refused)) ∧
  (∀ (c : Byte) (q : Nat) (s : State), ackMatch c q s = none ↔ ∀ e ∈ s.uplink.entries,
    e.cls.code = c → e.seq = q → e.answered = false →
      e.cls = .alarm ∨ e.cls = .ack ∨ e.cls = .status)

/-- ACK_TIMER_END: below the attempts per frame the entry is QUEUED again and the link acts; else it leaves with the outcome of its class. That the row changes nothing for an entry that is not AWAIT_ACK is the model's choice (log entry 3). -/
def Obligations.AckTimerEndsRetryOrExhaustTheEntry : Prop :=
  ∀ (q : Byte) (e : Entry) (s : State), entryWith q.toNat s = some e →
    (e.state ≠ .awaitAck → exec (.ackTimerEnd q) s = .next s) ∧
    (e.state = .awaitAck → e.attempts < s.settings.accepted.attempts → e.cls ≠ .bid →
      exec (.ackTimerEnd q) s = .next (linkReact (s.setUplink { s.uplink with
        entries := s.uplink.entries.map (fun x => if x.seq = q.toNat
          then { x with state := .queued, ackTimer := none } else x) }))) ∧
    (∀ i o, e.state = .awaitAck → e.attempts < s.settings.accepted.attempts → e.cls = .bid →
      e.ref = .offer i → s.offers.entries.getD i none = some o → o.deferred = none →
      exec (.ackTimerEnd q) s = .next (linkReact ((s.setUplink { s.uplink with
        entries := s.uplink.entries.map (fun x => if x.seq = q.toNat
          then { x with state := .queued, ackTimer := none } else x) }).setOffers
        { s.offers with
          entries := s.offers.entries.set i (some { o with progress := some .queued }) }))) ∧
    (e.state = .awaitAck → s.settings.accepted.attempts ≤ e.attempts →
      (e.cls = .release → exec (.ackTimerEnd q) s = .next (placeHeld (leaveQueue q.toNat s))) ∧
      (e.cls = .trip → exec (.ackTimerEnd q) s = .next (placeHeld (leaveQueue q.toNat
        (s.setTrip { s.trip with holdoff := some 60 })))) ∧
      (∀ i x, e.cls = .text → e.ref = .slot i → s.pool.slots.getD i none = some x →
        exec (.ackTimerEnd q) s = .next (placeHeld (leaveQueue q.toNat
          ((s.setPool { s.pool with slots := s.pool.slots.set i (some { x with
            ref := none, attempts := some e.attempts,
            held := some { order := s.book.produced, event :=
              { tag := x.tag, time := s.clock,
                payload := .textFailed .link i e.seq e.attempts } } }) }).setBook
          { s.book with produced := s.book.produced + 1 })))) ∧
      (∀ i o, e.cls = .bid → e.ref = .offer i → s.offers.entries.getD i none = some o →
        exec (.ackTimerEnd q) s = .next (placeHeld (leaveQueue q.toNat
          (closeOffer i o .link .noneOffered s))))) ∧
    (leaveQueue q.toNat s = tripTest (takeOut q.toNat s)) ∧
    (takeOut q.toNat s = linkReact ((s.setUplink { s.uplink with
      entries := s.uplink.entries.filter (fun x => x.seq != q.toNat) }).setLink { s.link with
        target := if s.link.target = some q.toNat then none else s.link.target,
        keyed := if s.link.keyed = some q.toNat then none else s.link.keyed }))

/-- POLL offers one STATUS entry, or drops it and counts; CHANNEL sets or clears the pending channel, and the link applies it when it may. That CHANNEL_CHANGE_APPLY changes nothing where the link may not apply one is the model's choice (log entry 3). -/
def Obligations.PollAndChannelFramesReachTheLink : Prop :=
  ∀ (f : DownFrame) (s : State), s.phase = .running →
    (scopeOf f.flags = 0 →
      ((offerEntry .status [] false false .none s).2.ok = true → exec (.poll f) s =
        .next (freeBuffer 0x1A f (offerEntry .status [] false false .none s).1)) ∧
      ((offerEntry .status [] false false .none s).2.ok = false → ∃ t,
        t = (offerEntry .status [] false false .none s).1 ∧ exec (.poll f) s =
        .next (freeBuffer 0x1A f (t.setUplink { t.uplink with
          dropped := min (t.uplink.dropped + 1) 65535 })))) ∧
    (scopeOf f.flags ≤ 2 →
      (∀ c : Byte, f.body = [c] → c.toNat ≤ 3 → exec (.channel f) s =
        .next (freeBuffer 0x1B f (linkReact (s.setLink { s.link with
          pendingChannel := if c.toNat = s.link.channel then none else some c.toNat })))) ∧
      ((f.body.length ≠ 1 ∨ ∃ c : Byte, f.body = [c] ∧ 3 < c.toNat) →
        exec (.channel f) s = .next (freeBuffer 0x1B f s))) ∧
    (s.link.state = .listen → noFrameInAssembly s = true → ∀ c, s.link.pendingChannel = some c →
      ∃ t, exec .channelChangeApply s = .next t ∧ t.link = { s.link with
        state := .settle, channel := c, pendingChannel := none, target := none, backoff := 0,
        slotTimer := none, clock := none, dwellPassed := false, keyed := none,
        phaseTimer := some 250, tx := [] } ∧ t.rx = s.rx.hunt ∧
        t.sup = { s.sup with stuckBusy := none } ∧ EntersSettle c s t ∧ t.uplink = s.uplink ∧
        t.offers = s.offers ∧ t.pool = s.pool ∧ t.emerg = s.emerg ∧ t.evw = s.evw ∧
        RestKept s t) ∧
    (s.link.state ≠ .listen ∨ s.link.pendingChannel = none ∨ noFrameInAssembly s = false →
      exec .channelChangeApply s = .next s)

/-- CD and the slot timer: the count runs down while CD is low, is frozen while it is high, and at 0 with CD low the link keys at once, giving up what the deframer holds (R45) and stopping the busy timer (R92); the busy timer runs from a rise in LISTEN or CONTEND and stops at a fall. CONGESTION_DWELL_END says that the dwell has passed once as many ticks have been counted, which is the model's choice (log entry 24), as is that the row changes nothing before that or with no contention clock running (log entries 3, 24). -/
def Obligations.BackoffRunsWhileTheChannelIsQuiet : Prop :=
  ∀ s : State,
    (s.pins.cd = false → s.link.state = .listen ∨ s.link.state = .contend →
      exec .cdRise s = .next (((s.setPins { s.pins with cd := true }).setSup { s.sup with
        stuckBusy := some s.settings.accepted.busyLimit }).setLink
          { s.link with slotTimer := none })) ∧
    (s.pins.cd = false → s.link.state ≠ .listen → s.link.state ≠ .contend →
      exec .cdRise s = .next (s.setPins { s.pins with cd := true })) ∧
    (s.pins.cd = true → s.link.state ≠ .contend → exec .cdFall s =
      .next ((s.setPins { s.pins with cd := false }).setSup { s.sup with stuckBusy := none })) ∧
    (s.pins.cd = true → s.link.state = .contend → s.link.backoff ≠ 0 → exec .cdFall s =
      .next (((s.setPins { s.pins with cd := false }).setSup { s.sup with
        stuckBusy := none }).setLink { s.link with
          slotTimer := some s.settings.accepted.slotTime })) ∧
    (s.pins.cd = true → s.link.state = .contend → s.link.backoff = 0 →
      ∃ t, exec .cdFall s = .next t ∧
        EntersKeyup ((s.setPins { s.pins with cd := false }).setSup { s.sup with
          stuckBusy := none }) t ∧
        t.link = { s.link with
          state := .keyup, slotTimer := none, clock := none, dwellPassed := false,
          keyed := s.link.target, phaseTimer := some s.settings.accepted.keyupDelay } ∧
        t.sup = { s.sup with stuckBusy := none } ∧
        t.uplink = s.uplink ∧ t.offers = s.offers ∧ t.evw = s.evw ∧ RestKept s t) ∧
    (s.link.state = .contend → s.link.slotTimer.isSome = true → s.pins.cd = false →
      (2 ≤ s.link.backoff → exec .slotEnd s = .next (s.setLink { s.link with
        backoff := s.link.backoff - 1, slotTimer := some s.settings.accepted.slotTime })) ∧
      (s.link.backoff ≤ 1 → ∃ t, exec .slotEnd s = .next t ∧
        EntersKeyup (s.setLink { s.link with
          backoff := 0, slotTimer := some s.settings.accepted.slotTime }) t ∧
        t.link = { s.link with
          state := .keyup, backoff := 0, slotTimer := none, clock := none, dwellPassed := false,
          keyed := s.link.target, phaseTimer := some s.settings.accepted.keyupDelay } ∧
        t.sup = { s.sup with stuckBusy := none } ∧ t.uplink = s.uplink ∧ t.offers = s.offers ∧ t.evw = s.evw ∧ RestKept s t)) ∧
    (∀ n, s.link.state = .contend → s.link.clock = some n → s.settings.accepted.dwell ≤ n →
      ∀ e, s.link.target = some e.seq →
      entryWith e.seq s = some e →
      ∃ t, exec .congestionDwellEnd s = .next t ∧
        t = (s.setLink { s.link with dwellPassed := true }).setAttn t.attn ∧
        t.attn = { s.attn with factors := if s.phase = .running ∧ (e.cls = .bid ∨ e.cls = .alarm)
          then s.attn.factors ||| 0x080#9 else s.attn.factors }) ∧
    (s.link.state ≠ .contend ∨ s.link.clock = none ∨
        (∃ n, s.link.clock = some n ∧ n < s.settings.accepted.dwell) →
      exec .congestionDwellEnd s = .next s)

/-- The end of the keyup delay: the target, or the first QUEUED entry, goes ON_AIR with its attempt counted and its frame's characters on TXD; with none the link enters TURNAROUND. That the target is absent from the keying on is the model's choice (log entry 29). The characters are preamble, sync pair, header, body and CRC, the high byte first (R46, R47, R185), and the bodies are those of Table 48; that the offer-id-present byte of an ALARM is 1 with an id is the model's code (log entry 32). -/
def Obligations.KeyupKeysTheTargetOrTheFirstQueued : Prop :=
  (∀ s : State, s.link.state = .keyup →
    (∀ e, entryToKey s = some e → ∃ t, exec .keyupDelayEnd s = .next t ∧
      t.uplink = { s.uplink with
        entries := s.uplink.entries.map (fun x => if x.seq = e.seq
          then { x with state := .onAir, attempts := x.attempts + 1,
                        body := if x.cls = .status then statusBody s else x.body } else x) } ∧
      t.link = { s.link with
        state := .sending, target := none, backoff := 0, keyed := some e.seq, phaseTimer := none,
        tx := uplinkChars s.settings.accepted.cab
          { e with state := .onAir, attempts := e.attempts + 1,
                   body := if e.cls = .status then statusBody s else e.body } } ∧
      (e.cls = .alarm → t.emerg = { s.emerg with
        keyedCount := min (s.emerg.keyedCount + 1) 65535 } ∧ t.offers = s.offers) ∧
      (∀ i o, e.cls = .bid → e.ref = .offer i → s.offers.entries.getD i none = some o →
        o.deferred = none → t.emerg = s.emerg ∧ t.offers = { s.offers with
          entries := s.offers.entries.set i (some { o with progress := some .onAir }) }) ∧
      (e.cls ≠ .alarm → e.cls ≠ .bid → t.emerg = s.emerg ∧ t.offers = s.offers) ∧
      t.rx = s.rx ∧ t.sup = s.sup ∧ t.pool = s.pool ∧ t.evw = s.evw ∧ t.attn = s.attn ∧
      t.pins = s.pins ∧ RestKept s t) ∧
    (entryToKey s = none → exec .keyupDelayEnd s = .next (s.setLink { s.link with
      state := .turnaround, target := none, backoff := 0, slotTimer := none, clock := none,
      dwellPassed := false, keyed := none, tx := [],
      phaseTimer := some s.settings.accepted.turnaround })) ∧
    (entryToKey s = (match queuedTarget s with | some e => some e | none => firstQueued s))) ∧
  (∀ (cab : Nat) (e : Entry) (m : List Byte) (c : Half),
    m = [match e.cls with
          | .alarm => 0x21 | .bid => 0x22 | .release => 0x23 | .ack => 0x24 | .status => 0x25
          | .trip => 0x26 | .text => 0x27,
        BitVec.ofNat 8 ((if e.tracking then 8 else 0) + if e.cancelled then 16 else 0),
        BitVec.ofNat 8 (cab / 256), BitVec.ofNat 8 cab, BitVec.ofNat 8 e.seq,
        BitVec.ofNat 8 e.body.length] ++ e.body →
    c = crc16 m →
    uplinkChars cab e = [0x55, 0x55, 0x55, 0x55, 0xC3, 0x3C] ++ m ++
      [BitVec.ofNat 8 (c.toNat / 256), BitVec.ofNat 8 c.toNat]) ∧
  crc16 [] = 0xFFFF ∧
  (∀ (m : List Byte) (b : Byte), ∃ r : Nat → Half, r 0 = crc16 m ^^^ (b.setWidth 16 <<< 8) ∧
    (∀ i, r (i + 1) = if (r i).msb then (r i <<< 1) ^^^ 0x1021 else r i <<< 1) ∧
    crc16 (m ++ [b]) = r 8) ∧
  (∀ n v : Nat, bytesBE 0 v = [] ∧
    bytesBE (n + 1) v = bytesBE n (v / 256) ++ [BitVec.ofNat 8 v]) ∧
  (∀ s : State,
    (∀ p, s.position.record = some p → positionBlock s = bytesBE 4 p.latitude.toNat ++
      bytesBE 4 p.longitude.toNat ++ bytesBE 2 p.speed.toNat ++ bytesBE 2 p.heading ++
      [if p.fixValid then 1 else 0] ++ bytesBE 2 s.position.fixAge) ∧
    (s.position.record = none → positionBlock s = List.replicate 15 0) ∧
    statusBody s = bytesBE 1 (effectiveDuty s).code ++ bytesBE 1 s.meter.state.code ++
      bytesBE 4 s.meter.fare ++ bytesBE 1 s.trip.backlog.length ++ bytesBE 1 s.emerg.state.code ++
      positionBlock s ∧
    (∀ (st : EmState) (r n : Nat) (k : AlarmKind),
      k = .call ∧ st = .calling ∧ r = s.emerg.round ∧ n = s.emerg.attempt ∨
        k = .tracking ∧ st = .tracking ∧ r = s.emerg.round ∧ n = s.emerg.trackCount ∨
        k = .cancelled r n ∧ st = .quiet →
      k.body s = bytesBE 1 st.code ++ bytesBE 1 r ++ bytesBE 2 n ++ positionBlock s ++
        bytesBE 1 s.meter.state.code ++ bytesBE 4 s.meter.fare ++
        [if (jobId s).isSome then 1 else 0] ++ bytesBE 4 ((jobId s).getD 0).toNat) ∧
    (∀ id : Word, bidBody id s = bytesBE 4 id.toNat ++ positionBlock s ∧
      releaseBody id = bytesBE 4 id.toNat) ∧
    (∀ (cls seq : Byte) (r : AckResult), ackFrameBody cls seq r = [cls, seq] ++
      bytesBE 1 r.code ++ [0]) ∧
    (∀ (canned : Byte) (x : List Byte), textFrameBody canned x =
      [canned, BitVec.ofNat 8 x.length] ++ x))

/-- TRANSMISSION_END, TAIL_END, TURNAROUND_END and SETTLE_END move the link through TAIL, TURNAROUND and SETTLE to LISTEN; the close of transmission comes at the end of TAIL and treats the entry by its class and marks: an abandoned BID has its deferred outcome applied, an answered entry leaves for good, an ALARM makes way for the offer owed. -/
def Obligations.TransmissionsCloseAndTheLinkListensAgain : Prop :=
  ∀ s : State,
    (s.link.state = .sending → s.settings.accepted.tail ≠ 0 → exec .transmissionEnd s =
      .next (s.setLink { s.link with
        state := .tail, phaseTimer := some s.settings.accepted.tail, tx := [] })) ∧
    (s.link.state = .sending → s.settings.accepted.tail = 0 → exec .transmissionEnd s =
      exec .tailEnd (s.setLink { s.link with state := .tail, phaseTimer := some 0, tx := [] })) ∧
    (s.link.state = .tail → exec .tailEnd s = .next (placeHeld (tripTest
      ((closeTransmission s).setLink { (closeTransmission s).link with
        state := .turnaround,
        phaseTimer := some (closeTransmission s).settings.accepted.turnaround })))) ∧
    (∀ e, keyedEntry s = some e → e.answered = false → e.cls = .release ∨ e.cls = .trip ∨
      e.cls = .text →
      closeTransmission s = (s.setLink { s.link with keyed := none, tx := [] }).setUplink
        { s.uplink with
          entries := s.uplink.entries.map (fun x => if x.seq = e.seq
            then { x with state := .awaitAck, ackTimer := some s.settings.accepted.ackTimeout }
            else x) }) ∧
    (∀ e i o, keyedEntry s = some e → e.answered = false → e.abandon = false → e.cls = .bid →
      e.ref = .offer i → s.offers.entries.getD i none = some o → o.deferred = none →
      closeTransmission s = ((s.setLink { s.link with keyed := none, tx := [] }).setUplink
        { s.uplink with
          entries := s.uplink.entries.map (fun x => if x.seq = e.seq
            then { x with state := .awaitAck, ackTimer := some s.settings.accepted.ackTimeout }
            else x) }
        ).setOffers { s.offers with
          entries := s.offers.entries.set i (some { o with progress := some .awaitAck }) }) ∧
    (∀ e i o, keyedEntry s = some e → e.abandon = true → e.cls = .bid → e.ref = .offer i →
      s.offers.entries.getD i none = some o → ∃ v,
      v = removeEntry e.seq (s.setLink { s.link with keyed := none, tx := [] }) ∧
      (o.deferred = some .award → closeTransmission s = awardEntry i o false o.tag v) ∧
      (o.deferred = some .taken → closeTransmission s = closeOffer i o .taken .noneOffered v) ∧
      (o.deferred = some .abandon → ∃ u n, offerRelease o.id v = (u, n) ∧
        closeTransmission s = closeOffer i o .abandoned n u) ∧
      (o.deferred = some .late → ∃ u n, offerRelease o.id v = (u, n) ∧
        closeTransmission s = closeWith i o none 0 (.lateAward o.id .abandoned n) u)) ∧
    (∀ e i o, keyedEntry s = some e → e.answered = true → e.abandon = false → e.cls = .bid →
      e.ref = .offer i → s.offers.entries.getD i none = some o → closeTransmission s =
      (removeEntry e.seq (s.setLink { s.link with keyed := none, tx := [] })).setOffers
        { s.offers with entries := s.offers.entries.set i (some { o with bidSeq := none }) }) ∧
    (∀ e i x, keyedEntry s = some e → e.answered = true → e.cls = .text → e.ref = .slot i →
      s.pool.slots.getD i none = some x → closeTransmission s =
      (removeEntry e.seq (s.setLink { s.link with keyed := none, tx := [] })).setPool
        { s.pool with
          slots := s.pool.slots.set i (if x.held = none then none
            else some { x with ref := none }) }) ∧
    (∀ e, keyedEntry s = some e → e.answered = false → e.cls = .ack ∨ e.cls = .status →
      closeTransmission s = removeEntry e.seq
        (s.setLink { s.link with keyed := none, tx := [] })) ∧
    (∀ e, keyedEntry s = some e → e.answered = true → e.cls = .trip → closeTransmission s =
      (removeEntry e.seq (s.setLink { s.link with keyed := none, tx := [] })).setTrip
        { s.trip with backlog := s.trip.backlog.drop 1 }) ∧
    (∀ e, keyedEntry s = some e → e.answered = true → e.cls = .release → closeTransmission s =
      removeEntry e.seq (s.setLink { s.link with keyed := none, tx := [] })) ∧
    (∀ e, keyedEntry s = some e → e.cls = .alarm → ∃ v,
      (e.answered = false → v = (removeEntry e.seq
        (s.setLink { s.link with keyed := none, tx := [] })).setEmerg
          { s.emerg with lastSent := s.clock }) ∧
      (e.answered = true →
        v = removeEntry e.seq (s.setLink { s.link with keyed := none, tx := [] })) ∧
      (s.emerg.owed = none → closeTransmission s = v) ∧
      (s.emerg.owed = some .call → closeTransmission s = offerAlarm .call v) ∧
      (s.emerg.owed = some .tracking → closeTransmission s = offerAlarm .tracking v) ∧
      (∀ r a, s.emerg.owed = some (.cancelled r a) →
        closeTransmission s = offerAlarm (.cancelled r a) v)) ∧
    (keyedEntry s = none →
      closeTransmission s = s.setLink { s.link with keyed := none, tx := [] }) ∧
    (∀ e, keyedEntry s = some e ↔ ∃ q, s.link.keyed = some q ∧ entryWith q s = some e ∧
      e.state = .onAir) ∧
    (s.link.state = .turnaround → (∀ c, s.link.pendingChannel = some c → ∃ t,
      exec .turnaroundEnd s = .next t ∧ t.link.state = .settle ∧ t.link.channel = c ∧
        t.link.pendingChannel = none ∧ t.link.phaseTimer = some 250 ∧ t.uplink = s.uplink ∧
        EntersSettle c s t ∧ RestKept s t)) ∧
    (∃ t, t = linkReact (((s.setSup { s.sup with
          stuckBusy := if s.pins.cd then some s.settings.accepted.busyLimit else none }).setRx
            s.rx.hunt).setLink
            { s.link with state := .listen, target := none, backoff := 0, slotTimer := none,
                          clock := none, dwellPassed := false, keyed := none, phaseTimer := none,
                          tx := [] }) ∧
      (s.link.state = .turnaround → s.link.pendingChannel = none →
        exec .turnaroundEnd s = .next t) ∧
      (s.link.state = .settle → exec .settleEnd s = .next t))

/-! ### The radio, offers and texts -/

/-- A fault of the radio (RDY lost in channel access, the ready timer, the busy timer): the link's work is given up by the state left, with the frame in assembly where that is LISTEN or CONTEND (R45), then a power cycle below 3 cycles used with the override mark clear, else FAILED with the queue emptied of all but an ALARM and every owner told, in queue order; LINK_STATE before those outcomes, and before the report of a BID that the close of transmission closes, is the model's order (log entry 22), that the LINK_STATE of FAILED carries the override mark cleared the model's choice (log entry 36), and an end row's tick at hand the model's reading (log entry 4). That READY_TIMER_END and STUCK_BUSY_TIMER_END change nothing where their timer does not run, but for the count of the tick after an arrival that was taken first, is the model's choice (log entries 3, 4). -/
def Obligations.RadioFaultsCyclePowerOrFail : Prop :=
  (∀ (c : Instr) (k : LinkCause) (s v : State),
    (c = .rdyFall ∧ k = .rdyLoss ∧ s.pins.rdy = true ∧ channelAccess s.link.state = true ∧
      v = s.setPins { s.pins with rdy := false }) ∨
    (c = .readyTimerEnd ∧ k = .readyTimeout ∧ s.link.state = .powerOnWait ∧
      s.pins.rdy = false ∧ v = openTick s ∧ v.sup.ready = some 0) ∨
    (c = .stuckBusyTimerEnd ∧ k = .stuckBusy ∧
      (s.link.state = .listen ∨ s.link.state = .contend) ∧
      s.pins.cd = true ∧ v = openTick s ∧ v.sup.stuckBusy = some 0) →
    ∃ l g, l = (if s.link.state = .powerOnWait then .powerOnWait else LinkState.listen) ∧
      (s.link.state = .sending ∨ s.link.state = .tail → GivesUp (closeTransmission v) g) ∧
      (s.link.state ≠ .sending → s.link.state ≠ .tail → GivesUp v g ∧ g.uplink = s.uplink) ∧
      g.sup.cycles = s.sup.cycles ∧ g.sup.override = s.sup.override ∧
      (s.sup.cycles < 3 → s.sup.override = false → exec c s = .next (placeHeld (tripTest (produce 0
        (.linkState l .powerOff k (s.sup.cycles + 1) false)
        ((g.setSup { g.sup with
          cycles := s.sup.cycles + 1, ready := none, stuckBusy := none, healthy := none,
          powerOff := some s.settings.accepted.powerOffTime }).setLink
            { g.link with state := .powerOff }))))) ∧
      (3 ≤ s.sup.cycles ∨ s.sup.override = true → ∃ t, exec c s = .next t ∧
        t = placeHeld (flushQueue (produce 0 (.linkState l .failed k s.sup.cycles false)
          (raiseFactor .linkFailed ((g.setSup { g.sup with
            override := false, ready := none, stuckBusy := none, healthy := none,
            powerOff := none }).setLink { g.link with state := .failed })))) ∧
        t.uplink.entries = g.uplink.entries.filter (fun e => e.cls == .alarm) ∧
        t.link.state = .failed ∧ RestKept s t)) ∧
  (∀ s : State, s.pins.rdy = true → channelAccess s.link.state = false →
    exec .rdyFall s = .next (s.setPins { s.pins with rdy := false })) ∧
  (∀ s : State,
    (s.link.state ≠ .powerOnWait ∨ s.pins.rdy = true ∨ (openTick s).sup.ready ≠ some 0 →
      (justRestarted s = false → exec .readyTimerEnd s = .next s) ∧
      (justRestarted s = true → exec .readyTimerEnd s = .next (spareSup s (openTick s)))) ∧
    (s.pins.cd = false ∨ s.link.state ≠ .listen ∧ s.link.state ≠ .contend ∨
        (openTick s).sup.stuckBusy ≠ some 0 →
      (justWatched s = false → exec .stuckBusyTimerEnd s = .next s) ∧
      (justWatched s = true → exec .stuckBusyTimerEnd s = .next (spareSup s (openTick s))))) ∧
  (∀ s : State,
    (flushQueue s = flushOutcomes (s.uplink.entries.filter (fun e => e.cls != .alarm))
      (s.setUplink { s.uplink with
        entries := s.uplink.entries.filter (fun e => e.cls == .alarm) })) ∧
    (flushOutcomes [] s = s) ∧
    (∀ e es, flushOutcomes (e :: es) s = flushOutcomes es (flushOutcome e s))) ∧
  (∀ (e : Entry) (s : State),
    (e.answered = false →
      (e.cls = .release ∨ e.cls = .ack ∨ e.cls = .status → flushOutcome e s =
        s.setUplink { s.uplink with dropped := min (s.uplink.dropped + 1) 65535 }) ∧
      (e.cls = .trip → flushOutcome e s = s) ∧
      (∀ i o, e.cls = .bid → e.ref = .offer i → s.offers.entries.getD i none = some o →
        flushOutcome e s = closeOffer i o .link .noneOffered s) ∧
      (∀ i x, e.cls = .text → e.ref = .slot i → s.pool.slots.getD i none = some x →
        flushOutcome e s = (s.setPool { s.pool with slots := s.pool.slots.set i (some { x with
          ref := none, attempts := some e.attempts,
          held := some { order := s.book.produced, event :=
            { tag := x.tag, time := s.clock,
              payload := .textFailed .linkDown i e.seq e.attempts } } }) }).setBook
          { s.book with produced := s.book.produced + 1 })) ∧
    (e.answered = true →
      (e.cls = .release → flushOutcome e s = s) ∧
      (e.cls = .trip → flushOutcome e s =
        s.setTrip { s.trip with backlog := s.trip.backlog.drop 1 }) ∧
      (∀ i o, e.cls = .bid → e.ref = .offer i → s.offers.entries.getD i none = some o →
        flushOutcome e s = s.setOffers { s.offers with
          entries := s.offers.entries.set i (some { o with bidSeq := none }) }) ∧
      (∀ i x, e.cls = .text → e.ref = .slot i → s.pool.slots.getD i none = some x →
        flushOutcome e s = s.setPool { s.pool with
          slots := s.pool.slots.set i (if x.held = none then none
            else some { x with ref := none }) })))

/-- The radio comes up: the power-off timer and LINK_RESTART enter POWER_ON_WAIT with the ready timer at 5 s; RDY high, then or at a later rise, enters LISTEN with the healthy timer at 60 s, whose end clears cycles and mark; LINK_RESTART is refused outside FAILED, and REQUEST_UNKNOWN always. An end row takes the count of the tick at hand, if no row of that tick has, and changes nothing where that leaves its timer stopped or running, but that HEALTHY_TIMER_END takes the count, the power-off timer spared, where a fault was taken first: the model's choice (log entries 3, 4). That the LINK_STATE of a RDY already high at the entry carries cause RDY and tag 0 is the model's choice (log entry 37). -/
def Obligations.TheRadioPowersUpThroughTheReadyWait : Prop :=
  (∀ s u : State, u = openTick s → s.link.state = .powerOff → u.sup.powerOff = some 0 →
    ∃ w, w = produce 0
      (.linkState .powerOff .powerOnWait .powerOffEnd s.sup.cycles s.sup.override)
      ((u.setSup { u.sup with ready := some 5, powerOff := none }).setLink
        { u.link with state := .powerOnWait }) ∧
    (s.pins.rdy = false → exec .powerOffTimerEnd s = .next (tripTest w)) ∧
    (s.pins.rdy = true → ∃ v, exec .rdyRise (w.setPins { w.pins with rdy := false }) = .next v ∧
      exec .powerOffTimerEnd s = .next (tripTest v) ∧ channelAccess v.link.state = true)) ∧
  (∀ s : State, s.link.state ≠ .powerOff ∨ (openTick s).sup.powerOff ≠ some 0 →
    exec .powerOffTimerEnd s = .next s) ∧
  (∀ s : State, s.pins.rdy = false → s.link.state = .powerOnWait → ∃ u t,
    exec .rdyRise s = .next t ∧
    u = produce 0 (.linkState .powerOnWait .listen .rdy s.sup.cycles s.sup.override)
      ((s.setPins { s.pins with rdy := true }).setSup { s.sup with
        ready := none, healthy := some 60 }) ∧
    t = linkReact (((u.setSup { u.sup with
          stuckBusy := if s.pins.cd then some s.settings.accepted.busyLimit else none }).setRx
            s.rx.hunt).setLink
            { s.link with state := .listen, target := none, backoff := 0, slotTimer := none,
                          clock := none, dwellPassed := false, keyed := none, phaseTimer := none,
                          tx := [] })) ∧
  (∀ s : State, s.pins.rdy = false → s.link.state ≠ .powerOnWait →
    exec .rdyRise s = .next (s.setPins { s.pins with rdy := true })) ∧
  (∀ s u : State, u = openTick s →
    (u.sup.healthy = some 0 → exec .healthyTimerEnd s =
      .next (u.setSup { u.sup with healthy := none, cycles := 0, override := false })) ∧
    (u.sup.healthy ≠ some 0 → justCycled s = false → exec .healthyTimerEnd s = .next s) ∧
    (u.sup.healthy ≠ some 0 → justCycled s = true →
      exec .healthyTimerEnd s = .next (spareSup s u))) ∧
  (∀ (tag : Half) (s : State), s.phase = .running →
    (s.link.state = .failed → ∃ w, w = produce tag
      (.linkState .failed .powerOnWait .linkRestart 0 s.sup.override)
      ((s.setSup { s.sup with cycles := 0, ready := some 5, powerOff := none }).setLink
        { s.link with state := .powerOnWait }) ∧
      (s.pins.rdy = false → exec (.linkRestart tag) s = .next (tripTest w)) ∧
      (s.pins.rdy = true → ∃ v,
        exec .rdyRise (w.setPins { w.pins with rdy := false }) = .next v ∧
        exec (.linkRestart tag) s = .next (tripTest v) ∧ channelAccess v.link.state = true)) ∧
    (s.link.state ≠ .failed →
      exec (.linkRestart tag) s = .next (produce tag (.refused 0x0F .notFailed) s)) ∧
    (∀ code : Byte, code = 0 ∨ 0x0F < code.toNat →
      exec (.requestUnknown tag code) s = .next (produce tag (.refused code .unknown) s)))

/-- ACCEPT is refused by the first case that holds; taken, the BID's entry is BID_SENT with the number the BID took, its window stopped, and no event. -/
def Obligations.AcceptOffersABidOrIsRefused : Prop :=
  ∀ (tag : Half) (id : Word) (s : State), s.phase = .running →
    (findOffer id s = none →
      exec (.accept tag id) s = .next (produce tag (.refused 0x01 .noSuchOffer) s)) ∧
    (∀ i o, findOffer id s = some (i, o) →
      (o.state = .closing → o.reason = some .expired →
        exec (.accept tag id) s = .next (produce tag (.refused 0x01 .tooLate) s)) ∧
      (¬ (o.state = .closing ∧ o.reason = some .expired) →
        (s.emerg.state ≠ .quiet →
          exec (.accept tag id) s = .next (produce tag (.refused 0x01 .emergency) s)) ∧
        (s.emerg.state = .quiet → o.state ≠ .open →
          exec (.accept tag id) s = .next (produce tag (.refused 0x01 .wrongState) s)) ∧
        (s.emerg.state = .quiet → o.state = .open → findJob s ≠ none →
          exec (.accept tag id) s = .next (produce tag (.refused 0x01 .oneJob) s)) ∧
        (s.emerg.state = .quiet → o.state = .open → findJob s = none →
          (s.link.state = .offline ∨ s.link.state = .failed → exec (.accept tag id) s =
            .next (placeHeld (produce tag (.refused 0x01 .linkDown) s))) ∧
          (∀ q u, offerEntry .bid (bytesBE 4 id.toNat ++ positionBlock s) false false (.offer i) s =
              (u, .admitted q) →
            exec (.accept tag id) s = .next (placeHeld (u.setOffers { s.offers with
              entries := s.offers.entries.set i (some { o with
                state := .bidSent, progress := some .queued, bidSeq := some q, deferred := none,
                tag := tag, remaining := none }) })))))) ∧
    (∀ i o, findOffer id s = some (i, o) → s.offers.entries.getD i none = some o ∧ o.id = id) ∧
    (findOffer id s = none → ∀ o, some o ∈ s.offers.entries → o.id ≠ id)

/-- DECLINE(offer id): refused NO_SUCH_OFFER when no entry holds the id and WRONG_STATE in any state but OPEN, the entry unchanged; an OPEN entry becomes CLOSING(DECLINED) with the DECLINE's tag and holds OFFER_CLOSED, and nothing is sent on air. -/
def Obligations.DeclineClosesAnOpenOfferOrIsRefused : Prop :=
  ∀ (tag : Half) (id : Word) (s : State), s.phase = .running →
    (findOffer id s = none →
      exec (.decline tag id) s = .next (produce tag (.refused 0x02 .noSuchOffer) s)) ∧
    (∀ i o, findOffer id s = some (i, o) →
      (o.state ≠ .open → exec (.decline tag id) s =
        .next (produce tag (.refused 0x02 .wrongState) s)) ∧
      (o.state = .open → ∃ t, exec (.decline tag id) s = .next t ∧
        t = placeHeld ((s.setOffers { s.offers with
          entries := s.offers.entries.set i (some { o with
            state := .closing, tag := tag, remaining := none, progress := none, bidSeq := none,
            deferred := none, reason := some .declined,
            held := some { order := s.book.produced, event :=
              { tag := tag, time := s.clock,
                payload := .offerClosed o.id .declined .noneOffered } } }) }).setBook
          { s.book with produced := s.book.produced + 1 }) ∧
        t.uplink = s.uplink ∧ t.link = s.link)) ∧
    (produce tag (.refused 0x02 .wrongState) s).offers = s.offers

/-- The ends of an offer's two waits: an OPEN entry's window closes it EXPIRED; the award wait of an ACKED bid offers a RELEASE and closes the entry NO_AWARD. That an end row takes the count of the tick at hand, if no row of that tick has, and does nothing where that leaves its timer running, but for the count, what a raise has just started spared, after a raise of the same tick, that it changes nothing for an entry that has no such wait, and that the award wait of a BID still ON_AIR does not end, are the model's choices (log entries 4, 3, 33). -/
def Obligations.OffersCloseOnTheirTimers : Prop :=
  ∀ s v : State, v = openTick s → s.phase = .running →
    (∀ (i : Fin 8) (o : Offer), v.offers.entries.getD i.val none = some o →
      (o.state = .open → o.remaining = some 0 → exec (.offerWindowEnd i) s =
        .next (placeHeld (closeOffer i.val o .expired .noneOffered v))) ∧
      (o.state ≠ .open ∨ o.remaining ≠ some 0 →
        (justRaised s = false → exec (.offerWindowEnd i) s = .next s) ∧
        (justRaised s = true → exec (.offerWindowEnd i) s = .next (spareRaise s v)))) ∧
    (∀ i : Fin 8, v.offers.entries.getD i.val none = none →
      (justRaised s = false → exec (.offerWindowEnd i) s = .next s) ∧
      (justRaised s = true → exec (.offerWindowEnd i) s = .next (spareRaise s v))) ∧
    (∀ i o, findJob v = some (i, o) →
      (o.state = .bidSent → o.progress = some .acked → o.bidSeq = none → o.remaining = some 0 →
        ∃ u m, offerRelease o.id v = (u, m) ∧
          exec .awardWaitEnd s = .next (placeHeld (closeOffer i o .noAward m u))) ∧
      (o.state ≠ .bidSent ∨ o.progress ≠ some .acked ∨ o.bidSeq ≠ none ∨ o.remaining ≠ some 0 →
        exec .awardWaitEnd s = .next s)) ∧
    (findJob v = none → exec .awardWaitEnd s = .next s) ∧
    (∀ (i : Nat) (o : Offer) (r : ClosingReason) (n : ReleaseNote) (u : State),
      closeOffer i o r n u = (u.setOffers { u.offers with
        entries := u.offers.entries.set i (some { o with
          state := .closing, remaining := none, progress := none, bidSeq := none,
          deferred := none, reason := some r, held := some { order := u.book.produced, event :=
            { tag := o.tag, time := u.clock, payload := .offerClosed o.id r n } } }) }).setBook
        { u.book with produced := u.book.produced + 1 }) ∧
    (∀ (id : Word) (u : State), offerRelease id u =
      (if (offerEntry .release (bytesBE 4 id.toNat) false false (.offerId id) u).2.ok
        then ((offerEntry .release (bytesBE 4 id.toNat) false false (.offerId id) u).1, .released)
        else (countDropped (offerEntry .release (bytesBE 4 id.toNat) false false
          (.offerId id) u).1, .notReleased)))

/-- OFFER: suppressed in an emergency, dropped when the duty is not FREE or the id is held, counted malformed or overflowing, else admitted to the lowest free entry with OFFER_NEW and a 500 ms pulse (16,384 periods of the 32.768 kHz base), whose request's time within the second is a free value (log entry 6); a pulse's end becomes the later of the current end and its own. A body is well formed exactly where its layout, length, kind, scope and window are those of R108. -/
def Obligations.OfferFramesAreAdmittedOrDropped : Prop :=
  ∀ (f : DownFrame) (s : State), s.phase = .running → scopeOf f.flags ≤ 2 →
    (s.emerg.state ≠ .quiet → exec (.offer f) s = .next (freeBuffer 0x11 f (s.setOffers
      { s.offers with suppressed := min (s.offers.suppressed + 1) 65535 }))) ∧
    (s.emerg.state = .quiet → effectiveDuty s ≠ .free →
      exec (.offer f) s = .next (freeBuffer 0x11 f s)) ∧
    (s.emerg.state = .quiet → effectiveDuty s = .free →
      (4 ≤ f.body.length → findOffer (BitVec.ofNat 32 (natBE (slice f.body 0 4))) s ≠ none →
        exec (.offer f) s = .next (freeBuffer 0x11 f s)) ∧
      (f.body.length < 4 ∨ findOffer (BitVec.ofNat 32 (natBE (slice f.body 0 4))) s = none →
        (offerBody (scopeOf f.flags) f.body = none → exec (.offer f) s =
          .next (freeBuffer 0x11 f (s.setOffers
            { s.offers with malformed := min (s.offers.malformed + 1) 65535 }))) ∧
        (∀ b, offerBody (scopeOf f.flags) f.body = some b →
          (firstFree 0 s.offers.entries = none → exec (.offer f) s =
            .next (freeBuffer 0x11 f (s.setOffers
              { s.offers with overflow := min (s.offers.overflow + 1) 65535 }))) ∧
          (∀ i, firstFree 0 s.offers.entries = some i → exec (.offer f) s =
            .next (freeBuffer 0x11 f (pulse 16384 (produce 0
              (.offerNew b.id b.zone b.kind b.window (scopeOf f.flags) (b.text.take 64)
                (decide (64 < b.text.length)))
              (s.setOffers { s.offers with
                nextAdmit := s.offers.nextAdmit + 1,
                entries := s.offers.entries.set i (some
                  { state := .open, id := b.id, zone := b.zone, kind := b.kind,
                    text := b.text.take 64, truncated := decide (64 < b.text.length),
                    remaining := some b.window, progress := none, bidSeq := none,
                    deferred := none, tag := 0, reason := none, held := none,
                    admitted := s.offers.nextAdmit }) })))))))) ∧
    (∀ b, offerBody (scopeOf f.flags) f.body = some b ↔
      f.body.length = 9 + (byteAt f.body 8).toNat ∧ (byteAt f.body 8).toNat ≤ 141 ∧
      b.id = BitVec.ofNat 32 (natBE (slice f.body 0 4)) ∧
      b.zone = BitVec.ofNat 16 (natBE (slice f.body 4 2)) ∧
      ((byteAt f.body 6).toNat = 0 ∧ b.kind = .openCall ∨
        (byteAt f.body 6).toNat = 1 ∧ b.kind = .direct ∧ scopeOf f.flags = 0) ∧
      b.window = (byteAt f.body 7).toNat ∧ 5 ≤ b.window ∧ b.window ≤ 120 ∧
      b.text = (f.body.drop 9).map (fun c => c &&& 0x7F)) ∧
    (∀ i, firstFree 0 s.offers.entries = some i → s.offers.entries[i]? = some none ∧
      ∀ j, j < i → ∃ o, s.offers.entries[j]? = some (some o)) ∧
    (∀ (d : Nat) (u : State), ∃ v k, k < 32768 ∧ v = u.setAttn { u.attn with
        alertEnd := some (max (u.attn.alertEnd.getD 0) (32768 * u.secs + k + d)) } ∧
      pulse d u = countDrawn v)

/-- AWARD by the state of the entry: awarded with the BID withdrawn, awarded directly from OPEN, deferred by R119's table while the BID is ON_AIR or abandoned, nothing for AWARDED, and LATE_AWARD with a RELEASE otherwise; acknowledged in every case, with a body of another length than 4 bytes to no other effect. -/
def Obligations.AwardFramesAssignTheJob : Prop :=
  (∀ (f : DownFrame) (s : State), s.phase = .running → scopeOf f.flags = 0 →
    idBody f.body = none → dedupeFind f.seq s = none →
    exec (.award f) s = .next (placeHeld (tripTest (freeBuffer 0x13 f
      (dedupeAdd f.seq .taken (offerAck 0x13 f.seq .taken s)))))) ∧
  (∀ (bs : List Byte) (id : Word),
    idBody bs = some id ↔ bs.length = 4 ∧ id = BitVec.ofNat 32 (natBE bs)) ∧
  (∀ (f : DownFrame) (id : Word) (s : State), s.phase = .running → scopeOf f.flags = 0 →
    idBody f.body = some id → dedupeFind f.seq s = none →
    (∃ u, exec (.award f) s = .next (placeHeld (tripTest (freeBuffer 0x13 f
        (dedupeAdd f.seq .taken (offerAck 0x13 f.seq .taken u))))) ∧
      (findOffer id s = none → ∃ v n, offerRelease id s = (v, n) ∧
        u = produce 0 (.lateAward id .unknown n) v) ∧
      (∀ i o, findOffer id s = some (i, o) →
        (o.state = .awarded → u = s) ∧
        (o.state = .closing → ∃ v n, offerRelease id s = (v, n) ∧
          u = produce 0 (.lateAward id .closing n) v) ∧
        (o.state = .open → directAllowed s = true → u = awardEntry i o true 0 s) ∧
        (o.state = .open → directAllowed s = false → ∃ v n, offerRelease id s = (v, n) ∧
          u = closeWith i o none 0 (.lateAward id .open n) v) ∧
        (o.state = .bidSent → o.bidSeq = none → o.deferred = none →
          u = awardEntry i o false o.tag s) ∧
        (∀ q, o.state = .bidSent → o.bidSeq = some q → o.deferred = none →
          (∀ e, entryWith q s = some e → e.state ≠ .onAir) →
          u = awardEntry i o false o.tag (withdrawEntry q s)) ∧
        (∀ q, o.state = .bidSent → o.bidSeq = some q →
          (o.deferred ≠ none ∨ ∃ e, entryWith q s = some e ∧ e.state = .onAir) → ∃ d,
          (o.deferred = none ∨ o.deferred = some .award ∨ o.deferred = some .taken →
            d = .award) ∧
          (o.deferred = some .abandon ∨ o.deferred = some .late → d = .late) ∧
          u = ((s.setUplink { s.uplink with
            entries := s.uplink.entries.map (fun x => if x.seq = q
              then { x with abandon := true, answered := true } else x) }).setOffers
            { s.offers with
              entries := s.offers.entries.set i (some { o with
                deferred := some d, remaining := none }) })))) ∧
    (∀ (i : Nat) (o : Offer) (r : Option ClosingReason) (tag : Half) (p : Payload) (u : State),
      closeWith i o r tag p u = (u.setOffers { u.offers with
        entries := u.offers.entries.set i (some { o with
          state := .closing, remaining := none, progress := none, bidSeq := none,
          deferred := none, reason := r, held := some { order := u.book.produced, event :=
            { tag := tag, time := u.clock, payload := p } } }) }).setBook
        { u.book with produced := u.book.produced + 1 }) ∧
    (directAllowed s = true ↔ findJob s = none ∧ s.emerg.state = .quiet ∧
      effectiveDuty s = .free) ∧
    (∀ (i : Nat) (o : Offer) (d : Bool) (tag : Half) (u : State), awardEntry i o d tag u =
      dutyAfter (effectiveDuty u) 0 .award (placeHeld ((u.setOffers { u.offers with
        entries := u.offers.entries.set i (some { o with
          state := .awarded, remaining := none, progress := none, bidSeq := none,
          deferred := none, held := some { order := u.book.produced, event :=
            { tag := tag, time := u.clock,
              payload := .offerAwarded o.id o.zone o.kind d o.text o.truncated } } }) }).setBook
        { u.book with produced := u.book.produced + 1 }))))

/-- REJECT and WITHDRAW take an offer away: TAKEN or WITHDRAWN from OPEN, TAKEN with the BID withdrawn from BID_SENT or, with the BID ON_AIR or abandoned, the deferred outcome TAKEN, JOB_CANCELLED from AWARDED on a WITHDRAW; other states and ids are left alone. A WITHDRAW for the CAB is acknowledged and joins the dedupe list. -/
def Obligations.RejectAndWithdrawFramesCloseTheOffer : Prop :=
  ∀ (f : DownFrame) (s : State), s.phase = .running →
    ∀ c : DownClass, (c = .reject ∧ scopeOf f.flags ≤ 1) ∨
        (c = .withdraw ∧ scopeOf f.flags ≤ 2) →
      ∃ u,
        (c = .reject → exec (.reject f) s = .next (placeHeld (tripTest (freeBuffer 0x14 f u)))) ∧
        (c = .withdraw → scopeOf f.flags ≠ 0 →
          exec (.withdraw f) s = .next (placeHeld (tripTest (freeBuffer 0x12 f u)))) ∧
        (c = .withdraw → scopeOf f.flags = 0 → dedupeFind f.seq s = none →
          exec (.withdraw f) s = .next (placeHeld (tripTest (freeBuffer 0x12 f
            (dedupeAdd f.seq .taken (offerAck 0x12 f.seq .taken u)))))) ∧
        (idBody f.body = none → u = s) ∧
        (∀ id, idBody f.body = some id → findOffer id s = none → u = s) ∧
        (∀ id i o, idBody f.body = some id → findOffer id s = some (i, o) →
          (o.state = .closing → u = s) ∧
          (o.state = .awarded → c = .reject → u = s) ∧
          (o.state = .awarded → c = .withdraw → u = dutyAfter (effectiveDuty s) 0 .jobEnd
            (placeHeld (closeWith i o none o.tag (.jobCancelled o.id) s))) ∧
          (o.state = .open → u = closeOffer i o (if c = .reject then .taken else .withdrawn)
            .noneOffered s) ∧
          (o.state = .bidSent → o.bidSeq = none → o.deferred = none →
            u = closeOffer i o .taken .noneOffered s) ∧
          (∀ q, o.state = .bidSent → o.bidSeq = some q → o.deferred = none →
            (∀ e, entryWith q s = some e → e.state ≠ .onAir) →
            u = closeOffer i o .taken .noneOffered (withdrawEntry q s)) ∧
          (∀ q, o.state = .bidSent → o.bidSeq = some q →
            (o.deferred ≠ none ∨ ∃ e, entryWith q s = some e ∧ e.state = .onAir) →
            u = ((s.setUplink { s.uplink with
              entries := s.uplink.entries.map (fun x => if x.seq = q
                then { x with abandon := true, answered := true } else x) }).setOffers
              { s.offers with
                entries := s.offers.entries.set i (some { o with
                  deferred := some .taken, remaining := none }) })))

/-- SEND_TEXT: refused by the first case that holds, else a TEXT entry is offered for the lowest free slot, which holds its reference once it is admitted. -/
def Obligations.SendTextTakesASlotOrIsRefused : Prop :=
  ∀ (tag : Half) (canned : Byte) (text : List Byte) (s : State), s.phase = .running →
    (120 < text.length → exec (.sendText tag canned text) s =
      .next (produce tag (.refused 0x04 .malformed) s)) ∧
    (text.length ≤ 120 → 63 < canned.toNat → exec (.sendText tag canned text) s =
      .next (produce tag (.refused 0x04 .outOfRange) s)) ∧
    (canned = 0 → text = [] → exec (.sendText tag canned text) s =
      .next (produce tag (.refused 0x04 .malformed) s)) ∧
    (text.length ≤ 120 → canned.toNat ≤ 63 → canned ≠ 0 ∨ text ≠ [] →
      (firstFree 0 s.pool.slots = none → exec (.sendText tag canned text) s =
        .next (produce tag (.refused 0x04 .poolFull) s)) ∧
      (∀ i, firstFree 0 s.pool.slots = some i → ∃ body, body =
          [canned] ++ bytesLE 1 text.length ++ text.map (fun b => b &&& 0x7F) ∧
        (∀ u q, offerEntry .text body false false (.slot i) s = (u, .admitted q) →
          exec (.sendText tag canned text) s = .next (u.setPool { u.pool with
            slots := u.pool.slots.set i
              (some { tag := tag, ref := some q, held := none, attempts := none }) })) ∧
        (∀ u, offerEntry .text body false false (.slot i) s = (u, .linkDown) →
          exec (.sendText tag canned text) s =
            .next (produce tag (.refused 0x04 .linkDown) s) ∧ u = s) ∧
        (∀ u, offerEntry .text body false false (.slot i) s = (u, .full) →
          exec (.sendText tag canned text) s =
            .next (produce tag (.refused 0x04 .queueFull) s) ∧ u = s))) ∧
    (∀ i, firstFree 0 s.pool.slots = some i → s.pool.slots[i]? = some none ∧
      ∀ j, j < i → ∃ x, s.pool.slots[j]? = some (some x)) ∧
    (firstFree 0 s.pool.slots = none → ∀ x ∈ s.pool.slots, x ≠ none)

/-- TEXT beyond CAB scope: a good body gives TEXT_IN with at most 120 characters and, when URGENT outside an emergency, a 2 s pulse (65,536 periods); a bad one is counted. For CAB scope the ACK carries "taken" or "refused". A body is good exactly where its layout and length agree, its text has at most 140 characters and it is not code 0 with no text. -/
def Obligations.TextFramesAreReportedOrCounted : Prop :=
  ∀ (f : DownFrame) (s : State), s.phase = .running →
    (∃ u, ownText f s = u ∧
      (textBody f.body = none →
        u = s.setPool { s.pool with malformed := min (s.pool.malformed + 1) 65535 }) ∧
      (∀ canned text, textBody f.body = some (canned, text) → ∃ v,
        v = produce 0 (.textIn (scopeOf f.flags) (urgentOf f.flags) (decide (120 < text.length))
          f.seq f.addr canned text.length f.doneAt (text.take 120)) s ∧
        (urgentOf f.flags = true → s.emerg.state = .quiet → u = pulse 65536 v) ∧
        (urgentOf f.flags = false ∨ s.emerg.state ≠ .quiet → u = v)) ∧
      (scopeOf f.flags = 1 ∨ scopeOf f.flags = 2 →
        exec (.text f) s = .next (freeBuffer 0x15 f u)) ∧
      (scopeOf f.flags = 0 → dedupeFind f.seq s = none → ∀ r,
        r = (if (textBody f.body).isSome then AckResult.taken else AckResult.refused) →
        exec (.text f) s = .next (freeBuffer 0x15 f (dedupeAdd f.seq r
          (offerAck 0x15 f.seq r u))))) ∧
    (∀ canned text, textBody f.body = some (canned, text) ↔
      f.body.length = 2 + (byteAt f.body 1).toNat ∧ (byteAt f.body 1).toNat ≤ 140 ∧
      ((byteAt f.body 0).toNat ≠ 0 ∨ (byteAt f.body 1).toNat ≠ 0) ∧ canned = byteAt f.body 0 ∧
      text = (f.body.drop 2).map (fun b => b &&& 0x7F))

/-! ### The emergency controller -/

/-- ESW edges: a fall of an armed switch starts the hold timer, a rise stops it and arms the switch; in RESET too. The grace timer's end, at the tick at hand, stops it, and ALERT goes low at the pulse's end, once the second at hand reaches it: a pulse that a request has lengthened past that goes on. An edge during a full reset or at the same level, an end whose timer is stopped or not yet reached, which after a raise of the same tick takes the count with what that started spared: the model's choice (log entries 3, 4, 28). -/
def Obligations.TheSwitchIsTimedAndArmed : Prop :=
  ∀ s : State,
    (s.pins.esw = true → s.phase ≠ .fullReset →
      (s.emerg.armed = true → exec .eswFall s = .next ((s.setPins { s.pins with esw := false }).setEmerg
        { s.emerg with holdTimer := some s.settings.accepted.holdTime })) ∧
      (s.emerg.armed = false → exec .eswFall s = .next (s.setPins { s.pins with esw := false }))) ∧
    (s.pins.esw = false → s.phase ≠ .fullReset →
      exec .eswRise s = .next ((s.setPins { s.pins with esw := true }).setEmerg
        { s.emerg with holdTimer := none, armed := true })) ∧
    (s.phase = .fullReset → s.pins.esw = true →
      exec .eswFall s = .next (s.setPins { s.pins with esw := false })) ∧
    (s.phase = .fullReset → s.pins.esw = false →
      exec .eswRise s = .next (s.setPins { s.pins with esw := true })) ∧
    (s.pins.esw = false → exec .eswFall s = .next s) ∧
    (s.pins.esw = true → exec .eswRise s = .next s) ∧
    (∀ u, u = openTick s →
      (u.emerg.graceTimer = some 0 →
        exec .graceTimerEnd s = .next (u.setEmerg { u.emerg with graceTimer := none })) ∧
      (u.emerg.graceTimer ≠ some 0 → justRaised s = false → exec .graceTimerEnd s = .next s) ∧
      (u.emerg.graceTimer ≠ some 0 → justRaised s = true →
        exec .graceTimerEnd s = .next (spareRaise s u))) ∧
    (∀ e, s.attn.alertEnd = some e →
      (e < 32768 * (s.secs + 1) →
        exec .alertPulseEnd s = .next (s.setAttn { s.attn with alertEnd := none })) ∧
      (32768 * (s.secs + 1) ≤ e → exec .alertPulseEnd s = .next s)) ∧
    (s.attn.alertEnd = none → exec .alertPulseEnd s = .next s)

/-- A raise from QUIET captures an EMPTY black box and requests its write, starts round 1 and attempt 1 with the grace, marks the open trip, closes the OPEN offers, overrides a failed radio, offers the ALARM and starts the repeat timer; in EXHAUSTED it starts the next round; elsewhere it is counted. While RESET is asserted nothing is offered. Its reports take the free places at its end (R172), but with an OPEN offer closed they wait, as R124 has a coincident ACCEPT find the entry CLOSING(SUPPRESSED): the model's reading (log entry 2). That HOLD_TIMER_END changes nothing with the hold timer stopped, with ESW high or in a full reset is the model's choice (log entry 3). -/
def Obligations.RaisesStartACallOrAreCounted : Prop :=
  (∀ (c : Instr) (src : RaiseSource) (tag : Half) (cause : EmCause) (s z : State),
    (c = .alarmRaise tag ∧ s.phase = .running ∧ src = .request ∧ cause = .requestRaise ∧ z = s) ∨
    (c = .holdTimerEnd ∧ s.phase ≠ .fullReset ∧ s.emerg.holdTimer.isSome = true ∧
      s.pins.esw = false ∧ src = .switch ∧ cause = .switchRaise ∧ tag = 0 ∧
      z = s.setEmerg { s.emerg with holdTimer := none, armed := false }) →
    (s.emerg.state = .calling ∨ s.emerg.state = .cooldown ∨ s.emerg.state = .tracking →
      exec c s = .next (z.setEmerg { z.emerg with
        ignored := min (z.emerg.ignored + 1) 65535 })) ∧
    (s.emerg.state = .quiet ∨ s.emerg.state = .exhausted → ∃ x y w g,
      g = (if s.settings.accepted.grace = 0 then none else some s.settings.accepted.grace) ∧
      (s.emerg.box ≠ none → x = z) ∧
      (s.emerg.box = none → x = requestBoxWrite (z.setEmerg { z.emerg with
        box := some
          { time := s.clock, source := src, meterState := s.meter.state,
            tripNumber := (s.trip.openTrip.map (·.number)).getD 0, fare := s.meter.fare,
            extras := s.meter.extras, hiredPulses := s.meter.hiredPulses,
            slot := s.meter.active.map (·.slot), position := s.position.record,
            fixAge := fixAgeOf s, jobId := jobId s, link := s.link.state,
            totalBad := s.rx.totalBad, queueLength := s.uplink.entries.length,
            recent := s.rx.recent } })) ∧
      (s.emerg.state = .quiet → y = x.setEmerg { x.emerg with
        state := .calling, round := 1, attempt := 1, trackCount := 0, keyedCount := 0,
        lastSent := 0, owed := none, graceTimer := g }) ∧
      (s.emerg.state = .exhausted → y = z.setEmerg { z.emerg with
        state := .calling, round := min (s.emerg.round + 1) 255, attempt := 1, owed := none,
        graceTimer := g }) ∧
      (s.phase = .running → w = (y.setAttn { s.attn with
          factors := s.attn.factors ||| 0x100#9 }).setTrip { s.trip with
            openTrip := s.trip.openTrip.map (fun r => { r with emergency := true }) } ∧
        ∃ v, v = offerAlarm .call (overrideRadio (closeOpen .suppressed w)) ∧
          ∃ p, p = tripTest (setEmReport cause tag (v.setEmerg { v.emerg with
            repeatTimer := some v.settings.accepted.repeatInterval })) ∧
          ((∃ o, some o ∈ s.offers.entries ∧ o.state = .open) → exec c s = .next p) ∧
          ((∀ o, some o ∈ s.offers.entries → o.state ≠ .open) →
            exec c s = .next (placeHeld p))) ∧
      (s.phase ≠ .running → w = y.setTrip { s.trip with
          openTrip := s.trip.openTrip.map (fun r => { r with emergency := true }) } ∧
        exec c s = .next (setEmReport cause tag w)))) ∧
  (∀ s : State, s.emerg.holdTimer = none ∨ s.pins.esw = true ∨ s.phase = .fullReset →
    exec .holdTimerEnd s = .next s) ∧
  (∀ u : State,
    (u.phase ≠ .running → requestBoxWrite u = u.setEmerg { u.emerg with boxMark := .pending }) ∧
    (u.phase = .running → u.agent.initial ≠ .done ∨ taskListed .blackBox u = true →
      requestBoxWrite u = u.setEmerg { u.emerg with boxMark := .rewrite }) ∧
    (u.phase = .running → u.agent.initial = .done → taskListed .blackBox u = false → ∃ v,
      v = (u.setEmerg { u.emerg with boxMark := .pending }).setAgent { u.agent with
        tasks := u.agent.tasks ++ [{ kind := .blackBox, words := none, bytes := [],
                                     number := 0 }] } ∧
      requestBoxWrite u = beginTask v ∧ (u.agent.tasks ≠ [] → u.agent.tasks.head?.map
        (fun t => t.words.isSome) = some true → beginTask v = v)))

/-- What a raise and its timers do to their neighbours: an ALARM joins the queue, refreshes the waiting one, or is owed while one is ON_AIR; a failed radio is overridden; the pending report takes the current values, counts its changes, and keeps its place, which is the model's choice (log entry 18), as is the LINK_STATE of a RDY already high at the override (cause RDY, tag 0; log entry 37). -/
def Obligations.AlarmOffersAndReportsFollowTheCall : Prop :=
  (∀ (k : AlarmKind) (s : State),
    (∀ e, alarmEntry s = some e → e.state = .onAir →
      offerAlarm k s = s.setEmerg { s.emerg with owed := some k.owed }) ∧
    (∀ e, alarmEntry s = some e → e.state ≠ .onAir →
      offerAlarm k s = (s.setUplink { s.uplink with
        entries := s.uplink.entries.map (fun x => if x.seq = e.seq
          then { x with body := k.body s, tracking := k.isTracking, cancelled := k.isCancelled }
          else x) }).setEmerg { s.emerg with owed := none }) ∧
    (alarmEntry s = none → ∃ v,
      v = (offerEntry .alarm (k.body s) k.isTracking k.isCancelled .none s).1 ∧
      offerAlarm k s = v.setEmerg { s.emerg with owed := none })) ∧
  (∀ s : State, s.link.state ≠ .failed → overrideRadio s = s) ∧
  (∀ s : State, s.link.state = .failed → s.pins.rdy = false →
    ∃ v, v = (s.setSup { s.sup with
        cycles := 2, override := true, ready := some 5, powerOff := none }).setLink { s.link with state := .powerOnWait } ∧
      overrideRadio s = produce 0 (.linkState .failed .powerOnWait .override 2 true) v) ∧
  (∀ s : State, s.link.state = .failed → s.pins.rdy = true → ∃ v w,
    v = produce 0 (.linkState .failed .powerOnWait .override 2 true) ((s.setSup { s.sup with
        cycles := 2, override := true, ready := some 5, powerOff := none }).setLink
          { s.link with state := .powerOnWait }) ∧
    exec .rdyRise (v.setPins { v.pins with rdy := false }) = .next w ∧ overrideRadio s = w) ∧
  (∀ (cause : EmCause) (tag : Half) (s : State), ∃ n,
    setEmReport cause tag s = (s.setEmerg { s.emerg with
      report := some {
        order := n, tag := tag, time := s.clock, now := s.emerg.state, cause := cause,
        round := s.emerg.round,
        count := if s.emerg.state = .tracking then s.emerg.trackCount else s.emerg.attempt,
        captured := s.emerg.box.map (·.source),
        changes := min ((s.emerg.report.map (·.changes)).getD 0 + 1) 255 } }).setBook
      { s.book with produced := s.book.produced + 1 } ∧
    (∀ r, s.emerg.report = some r → n = r.order) ∧
    (s.emerg.report = none → n = s.book.produced))

/-- ALARM_CANCEL within the grace and BLACKBOX_CLEAR in QUIET; refused otherwise. A taken clear empties the copy and requests its write: the mark is pending, or rewrite while a write of it is listed or the initial writes run. -/
def Obligations.CancelAndBlackboxClearOrRefusal : Prop :=
  ∀ (tag : Half) (s : State), s.phase = .running →
    (s.emerg.state = .quiet →
      exec (.alarmCancel tag) s = .next (produce tag (.refused 0x0D .wrongState) s)) ∧
    (s.emerg.state = .tracking ∨ s.emerg.state = .exhausted ∨
        s.emerg.state ≠ .quiet ∧ s.emerg.graceTimer = none →
      exec (.alarmCancel tag) s = .next (produce tag (.refused 0x0D .graceOver) s)) ∧
    (s.emerg.state = .calling ∨ s.emerg.state = .cooldown → s.emerg.graceTimer ≠ none → ∃ v,
      v = offerAlarm (.cancelled s.emerg.round s.emerg.attempt) (s.setEmerg { s.emerg with
        state := .quiet, repeatTimer := none, cooldownTimer := none, graceTimer := none }) ∧
      exec (.alarmCancel tag) s = .next (placeHeld (setEmReport .cancel tag
        (v.setEmerg { v.emerg with round := 0, attempt := 0 })))) ∧
    (s.emerg.state ≠ .quiet →
      exec (.blackboxClear tag) s = .next (produce tag (.refused 0x0E .wrongState) s)) ∧
    (s.emerg.state = .quiet → exec (.blackboxClear tag) s = .next (placeHeld
      (setEmReport .blackboxClear tag
        (requestBoxWrite (s.setEmerg { s.emerg with box := none }))))) ∧
    (s.agent.initial = .done → taskListed .blackBox s = false →
      taskListed .blackBox (requestBoxWrite s) = true ∧
      (requestBoxWrite s).emerg = { s.emerg with boxMark := .pending }) ∧
    (s.agent.initial ≠ .done ∨ taskListed .blackBox s = true →
      requestBoxWrite s = s.setEmerg { s.emerg with boxMark := .rewrite })

/-- The emergency timers: the next attempt, the end of a round by limit and cooldown, the next round, and the tracking report. An end row takes the count of the tick at hand, if no row of that tick has; in another state, or where the count leaves its timer stopped or running, it changes nothing, but that REPEAT_TIMER_END and COOLDOWN_END after an ALARM_ACK of the same tick take the count with the tracking timer spared (R157): the model's choices (log entries 3, 4). -/
def Obligations.EmergencyTimersPaceTheCall : Prop :=
  ∀ s u : State, u = openTick s → s.phase = .running →
    (s.emerg.state = .calling → u.emerg.repeatTimer = some 0 →
      (u.emerg.attempt < 8 → ∃ v,
        v = offerAlarm .call (u.setEmerg { u.emerg with attempt := u.emerg.attempt + 1 }) ∧
        exec .repeatTimerEnd s = .next (placeHeld (v.setEmerg { v.emerg with
          repeatTimer := some v.settings.accepted.repeatInterval }))) ∧
      (8 ≤ u.emerg.attempt →
        (u.settings.accepted.roundsLimit ≠ 0 → u.settings.accepted.roundsLimit ≤ u.emerg.round →
          exec .repeatTimerEnd s = .next (placeHeld (setEmReport .roundEnd 0 (u.setEmerg
            { u.emerg with state := .exhausted, repeatTimer := none })))) ∧
        (u.settings.accepted.roundsLimit = 0 ∨ u.emerg.round < u.settings.accepted.roundsLimit →
          (0 < u.settings.accepted.cooldown → exec .repeatTimerEnd s = .next (placeHeld
            (setEmReport .roundEnd 0 (u.setEmerg { u.emerg with
              state := .cooldown, repeatTimer := none,
              cooldownTimer := some u.settings.accepted.cooldown })))) ∧
          (u.settings.accepted.cooldown = 0 →
            exec .repeatTimerEnd s = .next (placeHeld (nextRound u)))))) ∧
    (s.emerg.state = .cooldown → u.emerg.cooldownTimer = some 0 →
      exec .cooldownEnd s = .next (placeHeld (nextRound u))) ∧
    (∃ v, v = offerAlarm .call (u.setEmerg { u.emerg with
        state := .calling, round := min (u.emerg.round + 1) 255, attempt := 1,
        cooldownTimer := none }) ∧
      nextRound u = setEmReport .cooldownEnd 0 (v.setEmerg { v.emerg with
        repeatTimer := some v.settings.accepted.repeatInterval })) ∧
    (s.emerg.state = .tracking → u.emerg.trackTimer = some 0 → ∃ v,
      v = offerAlarm .tracking (u.setEmerg { u.emerg with
        trackCount := min (u.emerg.trackCount + 1) 65535 }) ∧
      exec .trackingTimerEnd s = .next (placeHeld (v.setEmerg { v.emerg with
        trackTimer := some v.settings.accepted.trackInterval }))) ∧
    (s.emerg.state ≠ .calling ∨ u.emerg.repeatTimer ≠ some 0 → justAnswered s = false →
      exec .repeatTimerEnd s = .next s) ∧
    (s.emerg.state ≠ .cooldown ∨ u.emerg.cooldownTimer ≠ some 0 → justAnswered s = false →
      exec .cooldownEnd s = .next s) ∧
    (justAnswered s = true → exec .repeatTimerEnd s = .next (spareCall s u) ∧
      exec .cooldownEnd s = .next (spareCall s u)) ∧
    (s.emerg.state ≠ .tracking ∨ u.emerg.trackTimer ≠ some 0 →
      exec .trackingTimerEnd s = .next s)

/-- ALARM_ACK withdraws the ALARM and starts TRACKING; ALARM_END withdraws it and returns to QUIET, and is acknowledged; elsewhere, and with a body, they change nothing of the call; R34 is tested at the end. -/
def Obligations.DispatchAnswersTheCall : Prop :=
  ∀ (f : DownFrame) (s : State), s.phase = .running → scopeOf f.flags = 0 →
    (f.body = [] → s.emerg.state = .calling ∨ s.emerg.state = .cooldown ∨
        s.emerg.state = .exhausted → ∃ v, v = withdrawAlarm s ∧
      exec (.alarmAck f) s = .next (placeHeld (tripTest (freeBuffer 0x17 f (setEmReport .alarmAck 0
        (v.setEmerg { v.emerg with
          state := .tracking, trackCount := 0, owed := none, repeatTimer := none,
          cooldownTimer := none, trackTimer := some v.settings.accepted.trackInterval })))))) ∧
    (f.body ≠ [] ∨ s.emerg.state = .quiet ∨ s.emerg.state = .tracking →
      exec (.alarmAck f) s = .next (placeHeld (tripTest (freeBuffer 0x17 f s)))) ∧
    (dedupeFind f.seq s = none →
      (f.body = [] → s.emerg.state ≠ .quiet → ∃ v, v = withdrawAlarm s ∧
        exec (.alarmEnd f) s = .next (placeHeld (tripTest (freeBuffer 0x18 f (dedupeAdd f.seq .taken
          (offerAck 0x18 f.seq .taken (setEmReport .alarmEnd 0 (v.setEmerg { v.emerg with
            state := .quiet, round := 0, attempt := 0, owed := none, repeatTimer := none,
            cooldownTimer := none, trackTimer := none, graceTimer := none })))))))) ∧
      (f.body ≠ [] ∨ s.emerg.state = .quiet →
        exec (.alarmEnd f) s = .next (placeHeld (tripTest (freeBuffer 0x18 f (dedupeAdd f.seq .taken
          (offerAck 0x18 f.seq .taken s))))))) ∧
    (alarmEntry s = none → withdrawAlarm s = s) ∧
    (∀ e, alarmEntry s = some e → withdrawAlarm s = withdrawEntry e.seq s) ∧
    (∀ q e, entryWith q s = some e → e.state ≠ .onAir → withdrawEntry q s = takeOut q s) ∧
    (∀ q e, entryWith q s = some e → e.state = .onAir → withdrawEntry q s =
      s.setUplink { s.uplink with
        entries := s.uplink.entries.map (fun x => if x.seq = q
          then { x with answered := true } else x) }) ∧
    (∀ q r u, dedupeAdd q r u = u.setRx { u.rx with
      dedupe := (if u.rx.dedupe.length < 8 then u.rx.dedupe else u.rx.dedupe.drop 1) ++
        [(q, r)] })

/-! ### The receiver and waiting work -/

/-- RXD outside a frame (R45, R48, R50, R53): ignored outside LISTEN and CONTEND, and where the start bit fell while RXD was ignored, which the row itself says (log entry 27); the search for a sync pair; the claim of a buffer or the start of a skip; the skip and its ends. What waits at a frame's end is then done: a pending channel and a contention before waiting work, in the model's order (log entry 22). SYNC_HALF_PAUSE_END elsewhere changes nothing, the model's choice (log entry 3). -/
def Obligations.TheDeframerHuntsClaimsAndSkips : Prop :=
  ∀ (bits : Byte) (parity stop1 stop2 : Bool) (s : State) (d : Byte) (bad : Bool),
    d = dataByte s.settings.accepted bits →
    bad = charIsBad s.settings.accepted d parity stop1 stop2 →
    (s.link.state ≠ .listen → s.link.state ≠ .contend →
      exec (.rxdCharacter ⟨true, bits⟩ parity stop1 stop2) s = .next s) ∧
    (s.link.state = .listen ∨ s.link.state = .contend →
      (s.rx.deframer = .hunt →
        (bad = false → d = 0xC3 → exec (.rxdCharacter ⟨true, bits⟩ parity stop1 stop2) s =
          .next (s.setRx { s.rx with deframer := .syncHalf })) ∧
        (bad = true ∨ d ≠ 0xC3 → exec (.rxdCharacter ⟨true, bits⟩ parity stop1 stop2) s = .next s)) ∧
      (s.rx.deframer = .syncHalf →
        (bad = true ∨ d ≠ 0xC3 ∧ d ≠ 0x3C → exec (.rxdCharacter ⟨true, bits⟩ parity stop1 stop2) s =
          .next (s.setRx { s.rx with deframer := .hunt })) ∧
        (bad = false → d = 0xC3 → exec (.rxdCharacter ⟨true, bits⟩ parity stop1 stop2) s = .next s) ∧
        (bad = false → d = 0x3C → ∃ r,
          exec (.rxdCharacter ⟨true, bits⟩ parity stop1 stop2) s = .next (s.setRx r) ∧
          (s.rx.bufA = .free → r = { s.rx with
            deframer := .header, bufA := .filling, stored := [], charBad := false,
            skipped := 0, skipLength := 0 }) ∧
          (s.rx.bufA ≠ .free → s.rx.bufB = .free → r = { s.rx with
            deframer := .header, bufB := .filling, stored := [], charBad := false,
            skipped := 0, skipLength := 0 }) ∧
          (s.rx.bufA ≠ .free → s.rx.bufB ≠ .free → r = { s.rx with
            deframer := .skip, stored := [], charBad := false,
            skipped := 0, skipLength := 0 }))) ∧
      (s.rx.deframer = .skip → ∀ k n, k = s.rx.skipped + 1 →
        (k = 6 → n = d.toNat) → (k ≠ 6 → n = s.rx.skipLength) →
        (k = 6 ∧ 150 < n ∨ 6 < k ∧ 8 + n ≤ k → ∃ v,
          v = s.setRx { s.rx.hunt with overrun := min (s.rx.overrun + 1) 65535 } ∧
          exec (.rxdCharacter ⟨true, bits⟩ parity stop1 stop2) s = .next (takeWork (linkReact v))) ∧
        ((k = 6 → n ≤ 150) → (6 < k → k < 8 + n) →
          exec (.rxdCharacter ⟨true, bits⟩ parity stop1 stop2) s =
            .next (s.setRx { s.rx with skipped := k, skipLength := n })))) ∧
    (exec (.rxdCharacter ⟨false, bits⟩ parity stop1 stop2) s = .next s) ∧
    (s.rx.deframer = .syncHalf →
      exec .syncHalfPauseEnd s = .next (s.setRx { s.rx with deframer := .hunt })) ∧
    (s.rx.deframer ≠ .syncHalf → exec .syncHalfPauseEnd s = .next s) ∧
    (s.rx.hunt = { s.rx with
        deframer := .hunt, stored := [], charBad := false, skipped := 0, skipLength := 0,
        bufA := s.rx.hunt.bufA, bufB := s.rx.hunt.bufB } ∧
      (s.rx.bufA = .filling → s.rx.hunt.bufA = .free) ∧
      (s.rx.bufA ≠ .filling → s.rx.hunt.bufA = s.rx.bufA) ∧
      (s.rx.bufB = .filling → s.rx.hunt.bufB = .free) ∧
      (s.rx.bufB ≠ .filling → s.rx.hunt.bufB = s.rx.bufB))

/-- Characters of a frame are stored, a bad one marks the frame, the sixth is checked at once, the frame is judged at its second CRC character (R44, R49, R51); the gap limit ends it (R50). What waits at the frame's end is done in the model's order (log entry 22); GAP_LIMIT_END in HUNT or SYNC_HALF changes nothing, the model's choice (log entry 3). -/
def Obligations.FrameCharactersAreStoredAndJudged : Prop :=
  (∀ (bits : Byte) (parity stop1 stop2 : Bool) (s : State) (d : Byte) (bs : List Byte)
      (b : Bool) (n : Nat),
    s.link.state = .listen ∨ s.link.state = .contend →
    d = dataByte s.settings.accepted bits → bs = s.rx.stored ++ [d] →
    b = (s.rx.charBad || charIsBad s.settings.accepted d parity stop1 stop2) →
    n = (byteAt bs 5).toNat →
    (s.rx.deframer = .header →
      (bs.length < 6 → exec (.rxdCharacter ⟨true, bits⟩ parity stop1 stop2) s =
        .next (s.setRx { s.rx with stored := bs, charBad := b })) ∧
      (6 ≤ bs.length → 150 < n → exec (.rxdCharacter ⟨true, bits⟩ parity stop1 stop2) s =
        .next (takeWork (linkReact (badFrame s)))) ∧
      (6 ≤ bs.length → n = 0 → exec (.rxdCharacter ⟨true, bits⟩ parity stop1 stop2) s =
        .next (s.setRx { s.rx with deframer := .check, stored := bs, charBad := b })) ∧
      (6 ≤ bs.length → 0 < n → n ≤ 150 → exec (.rxdCharacter ⟨true, bits⟩ parity stop1 stop2) s =
        .next (s.setRx { s.rx with deframer := .body, stored := bs, charBad := b }))) ∧
    (s.rx.deframer = .body →
      (bs.length < 6 + n → exec (.rxdCharacter ⟨true, bits⟩ parity stop1 stop2) s =
        .next (s.setRx { s.rx with stored := bs, charBad := b })) ∧
      (6 + n ≤ bs.length → exec (.rxdCharacter ⟨true, bits⟩ parity stop1 stop2) s =
        .next (s.setRx { s.rx with deframer := .check, stored := bs, charBad := b }))) ∧
    (s.rx.deframer = .check →
      (bs.length < 8 + n → exec (.rxdCharacter ⟨true, bits⟩ parity stop1 stop2) s =
        .next (s.setRx { s.rx with stored := bs, charBad := b })) ∧
      (8 + n ≤ bs.length →
        (b = true ∨ crc16 (bs.take (6 + n)) ≠ BitVec.ofNat 16 (natBE (slice bs (6 + n) 2)) →
          exec (.rxdCharacter ⟨true, bits⟩ parity stop1 stop2) s =
            .next (takeWork (linkReact (badFrame s)))) ∧
        (b = false → crc16 (bs.take (6 + n)) = BitVec.ofNat 16 (natBE (slice bs (6 + n) 2)) →
          exec (.rxdCharacter ⟨true, bits⟩ parity stop1 stop2) s =
            .next (takeWork (linkReact (goodFrame (byteAt bs 0)
              { flags := byteAt bs 1, addr := BitVec.ofNat 16 (natBE (slice bs 2 2)),
                seq := byteAt bs 4, body := slice bs 6 n, doneAt := s.clock } s))))))) ∧
  (∀ s : State,
    (s.rx.deframer = .header ∨ s.rx.deframer = .body ∨ s.rx.deframer = .check →
      exec .gapLimitEnd s = .next (linkReact (badFrame s))) ∧
    (s.rx.deframer = .skip → ∃ v,
      v = s.setRx { s.rx.hunt with overrun := min (s.rx.overrun + 1) 65535 } ∧
      exec .gapLimitEnd s = .next (linkReact v)) ∧
    (s.rx.deframer = .hunt ∨ s.rx.deframer = .syncHalf → exec .gapLimitEnd s = .next s))

/-- A bad frame is counted and its buffer freed, and LINK_POOR starts at the threshold; a good one clears the run and LINK_POOR and passes the address filter and the class check; an accepted one fills its buffer and joins the recent list (R51, R55 to R59). -/
def Obligations.BadFramesAreCountedAndGoodOnesFiltered : Prop :=
  (∀ (s : State) (run : Nat), run = min (s.rx.badRun + 1) 255 →
    ∃ u, u = s.setRx { s.rx.hunt with
        badRun := run, linkPoor := s.settings.accepted.badThreshold != 255 &&
          decide (s.settings.accepted.badThreshold ≤ run),
        totalBad := min (s.rx.totalBad + 1) 65535 } ∧
      (s.phase = .running → u.rx.linkPoor = true →
        badFrame s = u.setAttn { s.attn with factors := s.attn.factors ||| 0x020#9 }) ∧
      (s.phase ≠ .running ∨ u.rx.linkPoor = false → badFrame s = u)) ∧
  (∀ (cls : Byte) (f : DownFrame) (s : State),
    (forThisCab s.settings.accepted f.flags f.addr = false →
      goodFrame cls f s = s.setRx { s.rx.hunt with badRun := 0, linkPoor := false }) ∧
    (forThisCab s.settings.accepted f.flags f.addr = true →
      (DownClass.ofCode cls = none → goodFrame cls f s = s.setRx { s.rx.hunt with
        badRun := 0, linkPoor := false, unknown := min (s.rx.unknown + 1) 65535 }) ∧
      (∀ c, DownClass.ofCode cls = some c → scopeAllowed c (scopeOf f.flags) = false →
        goodFrame cls f s = s.setRx { s.rx.hunt with
          badRun := 0, linkPoor := false, unknown := min (s.rx.unknown + 1) 65535 }) ∧
      (∀ c, DownClass.ofCode cls = some c → scopeAllowed c (scopeOf f.flags) = true → ∃ r : Receiver,
        goodFrame cls f s = s.setRx { r with
          badRun := 0, linkPoor := false, deframer := .hunt, stored := [], charBad := false,
          skipped := 0, skipLength := 0, nextOrder := s.rx.nextOrder + 1,
          recent := (if s.rx.recent.length < 4 then s.rx.recent else s.rx.recent.drop 1) ++
            [{ cls := cls, seq := f.seq, doneAt := f.doneAt }] } ∧
        r = { s.rx with bufA := r.bufA, bufB := r.bufB } ∧
        (s.rx.bufA = .filling → r.bufA = .ready cls f s.rx.nextOrder) ∧
        (s.rx.bufA ≠ .filling → r.bufA = s.rx.bufA) ∧
        (s.rx.bufB = .filling → r.bufB = .ready cls f s.rx.nextOrder) ∧
        (s.rx.bufB ≠ .filling → r.bufB = s.rx.bufB)))) ∧
  (∀ (st : Settings) (flags : Byte) (addr : Half),
    (flags.toNat % 4 = 0 → forThisCab st flags addr = (addr.toNat == st.cab)) ∧
    (flags.toNat % 4 = 1 → forThisCab st flags addr = st.zones.contains addr) ∧
    (2 ≤ flags.toNat % 4 → forThisCab st flags addr = true)) ∧
  (∀ c : DownClass, scopeAllowed c 3 = false ∧ DownClass.ofCode c.code = some c ∧
    (scopeAllowed c 0 = true ∧
      (scopeAllowed c 1 = true ↔ c ≠ .award ∧ c ≠ .tariff ∧ c ≠ .alarmAck ∧ c ≠ .alarmEnd ∧
        c ≠ .ack ∧ c ≠ .poll) ∧
      (scopeAllowed c 2 = true ↔ c = .offer ∨ c = .withdraw ∨ c = .text ∨ c = .tariff ∨
        c = .channel)))

/-- Waiting work: the reports that wait take the free places first, and with two places free after that, so that no report waits, the kept request or the first READY frame is taken; which goes first when both wait is open, and the statement holds either way (log entry 7). A kept request is read as Table 44 lays it out, checked, refused or given to its owner, the consumer index moves, and what is held takes its places (R170, R171, R172, R181); a READY frame goes to the owner of its class (R60). -/
def Obligations.KeptRequestsAndReadyFramesAreTaken : Prop :=
  (∀ s u : State, u = placeHeld s →
    (takeWork s = takeOneWork (takeOneWork (takeOneWork s))) ∧
    (s.phase ≠ .running ∨ 15 ≤ u.evw.queue.length → takeOneWork s = u) ∧
    (s.reader.kept = none → firstReady s = none → takeOneWork s = u) ∧
    (s.phase = .running → u.evw.queue.length ≤ 14 → heldReports u = [] ∧
      (∀ b, s.reader.kept = some b → firstReady s = none →
        takeOneWork s = takeRequest b u) ∧
      (∀ x, s.reader.kept = none → firstReady s = some x →
        takeOneWork s = takeFrame x.1 x.2 u) ∧
      (∀ b x, s.reader.kept = some b → firstReady s = some x →
        ∃ v, v = u.setBook { u.book with drawn := u.book.drawn + 1 } ∧
          (takeOneWork s = takeRequest b v ∨ takeOneWork s = takeFrame x.1 x.2 v))) ∧
    (∀ c f n, s.rx.bufA = .ready c f n → (∀ d g m, s.rx.bufB = .ready d g m → n < m) →
      firstReady s = some (c, f)) ∧
    (∀ d g m, s.rx.bufB = .ready d g m → (∀ c f n, s.rx.bufA = .ready c f n → m ≤ n) →
      firstReady s = some (d, g))) ∧
  (∀ (slot : List Byte) (r : RequestRecord) (s : State), r = requestOf slot →
    (∃ v, takeRequest slot s = placeHeld (requestTask .index (v.setReader { v.reader with
        kept := none, consumer := (v.reader.consumer + 1) % 16 })) ∧
      (requestKnown r.code = false → v = produce r.tag (.refused r.code .unknown) s) ∧
      (requestKnown r.code = true →
        124 < r.length ∨ r.params.length ≠ r.length ∨ lengthAgrees r.code r.params = false →
        v = produce r.tag (.refused r.code .malformed) s) ∧
      (requestKnown r.code = true → r.length ≤ 124 → r.params.length = r.length →
        lengthAgrees r.code r.params = true → v = giveRequest r s)) ∧
    r.code = byteAt slot 0 ∧ r.length = (byteAt slot 1).toNat ∧
    r.tag = BitVec.ofNat 16 (natLE (slice slot 2 2)) ∧
    r.params = slice slot 4 (byteAt slot 1).toNat) ∧
  (∀ (code : Byte) (ps : List Byte),
    (requestKnown code = true ↔ 1 ≤ code.toNat ∧ code.toNat ≤ 0x0F) ∧
    (code = 0x01 ∨ code = 0x02 → (lengthAgrees code ps = true ↔ ps.length = 4)) ∧
    (code = 0x03 ∨ code = 0x05 ∨ code = 0x0A → (lengthAgrees code ps = true ↔ ps.length = 1)) ∧
    (code = 0x04 → (lengthAgrees code ps = true ↔ 2 ≤ ps.length ∧
      ps.length = 2 + (byteAt ps 1).toNat ∧ (byteAt ps 1).toNat ≤ 120)) ∧
    (code = 0x08 → (lengthAgrees code ps = true ↔ ps.length = 3)) ∧
    (code = 0x06 ∨ code = 0x07 ∨ code = 0x09 ∨ code = 0x0B ∨ code = 0x0C ∨ code = 0x0D ∨
        code = 0x0E ∨ code = 0x0F → (lengthAgrees code ps = true ↔ ps = []))) ∧
  (∀ (r : RequestRecord) (s : State), s.phase = .running →
    (r.code = 0x01 → exec (.accept r.tag (BitVec.ofNat 32 (natLE (slice r.params 0 4)))) s =
      .next (giveRequest r s)) ∧
    (r.code = 0x02 → exec (.decline r.tag (BitVec.ofNat 32 (natLE (slice r.params 0 4)))) s =
      .next (giveRequest r s)) ∧
    (r.code = 0x03 → exec (.dutySet r.tag (byteAt r.params 0)) s = .next (giveRequest r s)) ∧
    (r.code = 0x04 → exec (.sendText r.tag (byteAt r.params 0) (r.params.drop 2)) s =
      .next (giveRequest r s)) ∧
    (r.code = 0x05 → exec (.meterHire r.tag (byteAt r.params 0)) s = .next (giveRequest r s)) ∧
    (r.code = 0x06 → exec (.meterStop r.tag) s = .next (giveRequest r s)) ∧
    (r.code = 0x07 → exec (.meterResume r.tag) s = .next (giveRequest r s)) ∧
    (r.code = 0x08 → exec (.meterExtra r.tag (BitVec.ofNat 16 (natLE (slice r.params 0 2)))
      (byteAt r.params 2)) s = .next (giveRequest r s)) ∧
    (r.code = 0x09 → exec (.meterClear r.tag) s = .next (giveRequest r s)) ∧
    (r.code = 0x0A → exec (.tariffSelect r.tag (byteAt r.params 0)) s =
      .next (giveRequest r s)) ∧
    (r.code = 0x0B → exec (.shiftClose r.tag) s = .next (giveRequest r s)) ∧
    (r.code = 0x0C → exec (.alarmRaise r.tag) s = .next (giveRequest r s)) ∧
    (r.code = 0x0D → exec (.alarmCancel r.tag) s = .next (giveRequest r s)) ∧
    (r.code = 0x0E → exec (.blackboxClear r.tag) s = .next (giveRequest r s)) ∧
    (r.code = 0x0F → exec (.linkRestart r.tag) s = .next (giveRequest r s))) ∧
  (∀ (f : DownFrame) (s : State), s.phase = .running →
    exec (.offer f) s = .next (takeFrame 0x11 f s) ∧
    exec (.withdraw f) s = .next (takeFrame 0x12 f s) ∧
    exec (.award f) s = .next (takeFrame 0x13 f s) ∧
    exec (.reject f) s = .next (takeFrame 0x14 f s) ∧
    exec (.text f) s = .next (takeFrame 0x15 f s) ∧
    exec (.tariff f) s = .next (takeFrame 0x16 f s) ∧
    exec (.alarmAck f) s = .next (takeFrame 0x17 f s) ∧
    exec (.alarmEnd f) s = .next (takeFrame 0x18 f s) ∧
    exec (.ack f) s = .next (takeFrame 0x19 f s) ∧
    exec (.poll f) s = .next (takeFrame 0x1A f s) ∧
    exec (.channel f) s = .next (takeFrame 0x1B f s))

/-! ### The host's words and the settings -/

/-- The host's words: a full-word write reaches memory and its value is taken (R161, R170, R174, R177, R178), the attention word is cleared without memory (R163), guarded writes are counted (R162), word 0 of the live zone latches a snapshot (R164). The words of a snapshot are those of Tables 13 and 43, where the pending slot of word 0 with no change pending is the model's choice (log entry 32), and the conditions are those of Table 41. While the area is not served these rows name nothing, which is the model's choice (log entry 3). -/
def Obligations.HostWordsAreTakenOrDiscarded : Prop :=
  (∀ (s : State) (v : Word) (b : Nat), s.phase = .running → s.path.base = some b →
    s.agent.initial = .done → ∀ g f : BitVec 9, f = s.attn.factors ||| 0x004 →
    g = s.attn.factors ||| 0x008 →
    (∀ m, m = Memory.writeLanes s.mem (b + 0x0040) 0xF v →
      (v.toNat ≤ 15 → exec (.requestProducerIndexWrite v) s =
        .next ((s.setMem m).setReader { s.reader with producer := v.toNat })) ∧
      (15 < v.toNat → exec (.requestProducerIndexWrite v) s =
        .next ((s.setMem m).setAttn { s.attn with factors := f }))) ∧
    (∀ m, m = Memory.writeLanes s.mem (b + 0x004C) 0xF v →
      (v.toNat ≤ 63 → (v.toNat + 64 - s.evw.consumer) % 64 ≤
          (s.evw.producer + 64 - s.evw.consumer) % 64 →
        exec (.eventConsumerIndexWrite v) s =
          .next ((s.setMem m).setEvw { s.evw with consumer := v.toNat })) ∧
      (63 < v.toNat ∨ (s.evw.producer + 64 - s.evw.consumer) % 64 <
          (v.toNat + 64 - s.evw.consumer) % 64 →
        exec (.eventConsumerIndexWrite v) s =
          .next ((s.setMem m).setAttn { s.attn with factors := f }))) ∧
    (∀ m, m = Memory.writeLanes s.mem (b + 0x0074) 0xF v →
      exec (.attentionEnableWrite v) s =
        .next ((s.setMem m).setAttn { s.attn with enables := v.setWidth 9 })) ∧
    (∀ m, m = Memory.writeLanes s.mem (b + 0x006C) 0xF v →
      (∀ p, positionOf s.position.staging = some p → exec (.positionCommit v) s =
        .next ((s.setMem m).setPosition { s.position with record := some p, fixAge := 0 })) ∧
      (positionOf s.position.staging = none → exec (.positionCommit v) s =
        .next ((s.setMem m).setAttn { s.attn with factors := f }))) ∧
    (exec (.attentionWordWrite v) s = .next (s.setAttn { s.attn with
      factors := s.attn.factors &&& ~~~(v.setWidth 9 &&& ~~~(conditions s)) })) ∧
    (∀ (off : Half) (lanes : BitVec 4) (n : Nat), n = off.toNat / 4 * 4 →
      (∀ m, m = Memory.writeLanes s.mem (b + n) lanes v →
        (n < 0x003C → lanes = 0xF → exec (.snoopedWordWrite off lanes v) s =
          .next ((s.setMem m).setSettings { s.settings with
            staging := s.settings.staging.set (n / 4) v })) ∧
        (0x0060 ≤ n → n < 0x006C → lanes = 0xF → exec (.snoopedWordWrite off lanes v) s =
          .next ((s.setMem m).setPosition { s.position with
            staging := s.position.staging.set ((n - 0x0060) / 4) v })) ∧
        (treatment n = .snoop → lanes ≠ 0xF → exec (.snoopedWordWrite off lanes v) s =
          .next ((s.setMem m).setAttn { s.attn with factors := f }))) ∧
      (treatment n = .guard ∨ treatment n = .liveZone →
        exec (.guardViolation off lanes v) s =
          .next ((s.setPath { s.path with
            guardCount := min (s.path.guardCount + 1) 65535 }).setAttn
              { s.attn with factors := g }))) ∧
    (exec .snapshotLatch s = .next (s.setPath { s.path with
      snapshot := snapshotWords s, answer := some ((snapshotWords s).getD 0 0) })) ∧
    (∀ (ws : List Word) (p : Position), positionOf ws = some p ↔
      -90000000 ≤ (ws.getD 0 0).toInt ∧ (ws.getD 0 0).toInt ≤ 90000000 ∧
      -180000000 ≤ (ws.getD 1 0).toInt ∧ (ws.getD 1 0).toInt ≤ 180000000 ∧
      (ws.getD 2 0).toNat / 2 ^ 16 % 2 ^ 9 ≤ 359 ∧
      p = { latitude := ws.getD 0 0, longitude := ws.getD 1 0,
            speed := BitVec.ofNat 16 ((ws.getD 2 0).toNat / 2 ^ 0 % 2 ^ 16),
            heading := (ws.getD 2 0).toNat / 2 ^ 16 % 2 ^ 9, fixValid := (ws.getD 2 0).msb }) ∧
    (∀ (u : State) (off : Half) (lanes : BitVec 4),
      u.phase ≠ .running ∨ u.path.base = none ∨ u.agent.initial ≠ .done →
      exec (.requestProducerIndexWrite v) u = .next u ∧
      exec (.eventConsumerIndexWrite v) u = .next u ∧ exec (.settingsCommit v) u = .next u ∧
      exec (.positionCommit v) u = .next u ∧ exec (.attentionEnableWrite v) u = .next u ∧
      exec (.attentionWordWrite v) u = .next u ∧
      exec (.snoopedWordWrite off lanes v) u = .next u ∧
      exec (.guardViolation off lanes v) u = .next u ∧ exec .snapshotLatch u = .next u)) ∧
  (∀ (s : State) (p : Nat → Nat → Nat → Nat → Word) (h : Nat → Nat → Word) (w : Nat → Word)
      (j : Option Offer) (c : Bool),
    (∀ x y z u, p x y z u =
      BitVec.ofNat 8 u ++ BitVec.ofNat 8 z ++ BitVec.ofNat 8 y ++ BitVec.ofNat 8 x) →
    (∀ x y, h x y = BitVec.ofNat 16 y ++ BitVec.ofNat 16 x) → (∀ x, w x = BitVec.ofNat 32 x) →
    j = (s.offers.entries.filterMap id).find? (fun o => o.state == .bidSent || o.state == .awarded) →
    (c = true ↔ s.link.state = .contend ∧ s.link.dwellPassed = true ∧ ∃ q e,
      s.link.target = some q ∧ entryWith q s = some e ∧ (e.cls = .bid ∨ e.cls = .alarm)) →
    snapshotWords s =
      [ p s.meter.state.code ((s.meter.active.map (·.slot)).getD 255)
          ((s.meter.change.map (·.kind.code)).getD 0) ((s.meter.change.map (·.slot)).getD 0),
        w (s.meter.fare + (if s.meter.fareCap then 2 ^ 24 else 0) +
          if s.meter.pulseFault then 2 ^ 25 else 0),
        w s.meter.extras, w s.meter.acc, w s.meter.hiredPulses, w s.meter.elapsed,
        h s.meter.peak 0, w ((s.trip.openTrip.map (·.number)).getD 0),
        p s.trip.backlog.length (s.trip.holdoff.getD 0) 0 0, w s.trip.shift.trips,
        w s.trip.shift.fareTotal, w (s.trip.shift.fareTotal / 2 ^ 32),
        w s.trip.shift.extrasTotal, w (s.trip.shift.extrasTotal / 2 ^ 32),
        w s.trip.shift.hiredPulses, w s.trip.shift.totalPulses, w s.trip.shift.rejectedPulses,
        w s.trip.shift.unreported, s.trip.shift.start ] ++
      [ s.clock, h s.path.guardCount 0,
        p (effectiveDuty s).code s.offers.driverDuty.code (s.offers.entries.countP (·.isSome))
          (match j with | none => 0 | some o => if o.state = .bidSent then 1 else 2),
        (match j with | none => 0 | some o => o.id),
        h s.offers.suppressed s.offers.malformed,
        h s.offers.overflow (s.pool.slots.countP (·.isSome)), h s.pool.malformed 0 ] ++
      [ p s.link.state.code s.link.channel (s.link.pendingChannel.getD 255)
          s.uplink.entries.length,
        p s.rx.badRun ((if s.rx.linkPoor then 1 else 0) + if c then 2 else 0) s.sup.cycles
          (if s.sup.override then 1 else 0),
        h s.rx.totalBad s.rx.overrun, h s.rx.unknown s.uplink.dropped, h s.uplink.unmatched 0,
        p s.emerg.state.code s.emerg.round s.emerg.attempt
          ((if s.emerg.graceTimer.isSome then 1 else 0) + if s.emerg.box.isSome then 2 else 0),
        h s.emerg.trackCount s.emerg.ignored, h s.emerg.keyedCount 0, s.emerg.lastSent,
        (match s.emerg.box with | none => 0 | some x => x.time) ] ++ List.replicate 28 0 ∧
    conditions s = (if s.meter.pulseFault then 0x010 else 0) |||
      (if s.rx.linkPoor then 0x020 else 0) ||| (if s.link.state = .failed then 0x040 else 0) |||
      (if c then 0x080 else 0) ||| (if s.emerg.state = .quiet then 0 else 0x100) ∧
    (s.meter.state = .vacant → (∀ o ∈ s.offers.entries.filterMap id, o.state ≠ .awarded) →
      effectiveDuty s = s.offers.driverDuty) ∧
    (s.meter.state ≠ .vacant ∨ (∃ o ∈ s.offers.entries.filterMap id, o.state = .awarded) →
      effectiveDuty s = .busy))

/-- A settings commit is judged BUSY, then RANGE with the least number of a field out of range in the order of Table 40, else accepted and applied to every block that reads the settings; the record's fields stand in its words as Table 42 lays them out. That the clock is set before the other effects, so that LINK_STATE and OFFER_CLOSED carry the new clock, is the model's order (log entry 22). That a LINK_STATE to LISTEN made at once with RDY high has cause RDY and tag 0 is the model's choice (log entry 37). -/
def Obligations.CommitsAreJudgedAndApplied : Prop :=
  (∀ (s t : State) (v : Word) (b : Nat) (tag : Half) (ws : List Word) (n : Settings),
    s.phase = .running → s.path.base = some b → s.agent.initial = .done →
    t = s.setMem (Memory.writeLanes s.mem (b + 0x003C) 0xF v) → tag = v.setWidth 16 →
    ws = s.settings.staging → n = settingsOf ws →
    (s.settings.firstCommit = false →
      s.meter.state ≠ .vacant ∨ s.emerg.state ≠ .quiet ∨ s.uplink.entries ≠ [] ∨
        (findJob s).isSome = true →
      exec (.settingsCommit v) s = .next (placeHeld (recordCommit tag .busy 0 t))) ∧
    (s.settings.firstCommit = true ∨
        s.meter.state = .vacant ∧ s.emerg.state = .quiet ∧ s.uplink.entries = [] ∧
          findJob s = none →
      (∀ k, firstBadField s.settings.firstCommit ws = some k →
        exec (.settingsCommit v) s = .next (placeHeld (recordCommit tag .range k t))) ∧
      (firstBadField s.settings.firstCommit ws = none → ∃ w,
        w = (((t.setSettings { s.settings with
              accepted := n, firstCommit := s.settings.firstCommit && n.cab == 0 }).setClock
            (if n.clockSet = 0 then s.clock else n.clockSet)).setRx { s.rx.hunt with
              bufA := .free, bufB := .free, dedupe := [], badRun := 0, linkPoor := false }).setLink
          { s.link with
            target := none, backoff := 0, slotTimer := none, clock := none, dwellPassed := false,
            keyed := none, phaseTimer := none, tx := [], seqCounter := 0 } ∧
        exec (.settingsCommit v) s =
          .next (placeHeld (recordCommit tag .accepted 0 (tripTest (closeOpen .settings
            (restartLink tag w)))))))) ∧
  (∀ (tag : Half) (o : CommitOutcome) (k : Nat) (s : State), ∃ h : HeldReport,
    recordCommit tag o k s = ((s.setSettings { s.settings with
        result := { tag := tag, outcome := o, field := k }, report := some h }).setEvw
          { s.evw with resultStale := true }).setBook
            { s.book with produced := s.book.produced + 1 } ∧
    h.event = { tag := tag, time := s.clock, payload := .settingsTaken o k } ∧
    (∀ r, s.settings.report = some r → h.order = r.order) ∧
    (s.settings.report = none → h.order = s.book.produced)) ∧
  (∀ (tag : Half) (s : State),
    (s.link.state = .offline → s.settings.accepted.cab = 0 → restartLink tag s = s) ∧
    (s.link.state = .offline → s.settings.accepted.cab ≠ 0 →
      restartLink tag s = enterPowerOn .commit tag s) ∧
    (s.link.state = .powerOnWait → restartLink tag s = enterPowerOn .commit tag s) ∧
    (s.link.state = .powerOff ∨ s.link.state = .failed → restartLink tag s = s) ∧
    (channelAccess s.link.state = true → restartLink tag s = enterListen s)) ∧
  (∀ (first : Bool) (ws : List Word) (n : Settings), n = settingsOf ws → ∃ ok : List Bool,
    ok = [ (decide (1 ≤ n.cab) || first) && decide (n.cab ≤ 65534)
      , decide ((ws.getD 0 0).toNat / 2 ^ 16 % 2 ^ 8 ≤ 8)
      , decide ((ws.getD 5 0).toNat / 2 ^ 0 % 2 ^ 8 ≤ 3)
      , decide ((ws.getD 0 0).toNat / 2 ^ 24 % 2 ^ 2 ≤ 2)
      , true
      , true
      , decide (5 ≤ n.keyupDelay)
      , true
      , true
      , decide (10 ≤ n.slotTime)
      , decide (1 ≤ n.backoffMin) && decide (n.backoffMin ≤ 6)
      , decide (n.backoffMin ≤ n.backoffMax) && decide (n.backoffMax ≤ 6)
      , decide (1 ≤ n.attempts) && decide (n.attempts ≤ 15)
      , decide (100 ≤ n.ackTimeout) && decide (n.ackTimeout ≤ 5000)
      , decide (15 ≤ n.seqMax)
      , decide (1 ≤ n.badThreshold)
      , decide (2 ≤ n.busyLimit) && decide (n.busyLimit ≤ 60)
      , decide (1 ≤ n.powerOffTime) && decide (n.powerOffTime ≤ 30)
      , decide (5 ≤ n.awardWait) && decide (n.awardWait ≤ 60)
      , decide (n.maxPulses ≤ 4000)
      , decide (1 ≤ n.dwell) && decide (n.dwell ≤ 10)
      , decide (500 ≤ n.holdTime) && decide (n.holdTime ≤ 5000) && decide (n.holdTime % 500 = 0)
      , decide (2 ≤ n.repeatInterval) && decide (n.repeatInterval ≤ 60)
      , decide (n.roundsLimit ≤ 15)
      , decide (n.cooldown ≤ 600)
      , decide (10 ≤ n.trackInterval) && decide (n.trackInterval ≤ 300)
      , decide (n.grace ≤ 30)
      , true ] ∧
    (firstBadField first ws = none ↔ ∀ x ∈ ok, x = true) ∧
    (∀ k, firstBadField first ws = some k ↔ 1 ≤ k ∧ ok[k - 1]? = some false ∧
      ∀ j, j < k - 1 → ok[j]? = some true)) ∧
  (∀ ws : List Word, settingsOf ws =
    { cab := (ws.getD 0 0).toNat / 2 ^ 0 % 2 ^ 16
      zones := ((List.range 8).map (fun i => BitVec.ofNat 16
          ((ws.getD (1 + i / 2) 0).toNat / 2 ^ (16 * (i % 2)) % 2 ^ 16))).take
            ((ws.getD 0 0).toNat / 2 ^ 16 % 2 ^ 8)
      bitRate := match (ws.getD 5 0).toNat / 2 ^ 0 % 2 ^ 8 with
        | 0 => .b4800 | 1 => .b9600 | 2 => .b19200 | _ => .b38400
      parity := match (ws.getD 0 0).toNat / 2 ^ 24 % 2 ^ 2 with
        | 1 => .even | 2 => .odd | _ => .none
      twoStops := (ws.getD 0 0).toNat / 2 ^ 26 % 2 ^ 1 == 1
      msbFirst := (ws.getD 0 0).toNat / 2 ^ 27 % 2 ^ 1 == 1
      keyupDelay := (ws.getD 5 0).toNat / 2 ^ 8 % 2 ^ 8
      tail := (ws.getD 5 0).toNat / 2 ^ 16 % 2 ^ 8
      turnaround := (ws.getD 5 0).toNat / 2 ^ 24 % 2 ^ 8
      slotTime := (ws.getD 6 0).toNat / 2 ^ 0 % 2 ^ 8
      backoffMin := (ws.getD 6 0).toNat / 2 ^ 8 % 2 ^ 8
      backoffMax := (ws.getD 6 0).toNat / 2 ^ 16 % 2 ^ 8
      attempts := (ws.getD 6 0).toNat / 2 ^ 24 % 2 ^ 8
      ackTimeout := (ws.getD 7 0).toNat / 2 ^ 0 % 2 ^ 16
      seqMax := (ws.getD 7 0).toNat / 2 ^ 16 % 2 ^ 8
      badThreshold := (ws.getD 7 0).toNat / 2 ^ 24 % 2 ^ 8
      busyLimit := (ws.getD 8 0).toNat / 2 ^ 0 % 2 ^ 8
      powerOffTime := (ws.getD 8 0).toNat / 2 ^ 8 % 2 ^ 8
      awardWait := (ws.getD 8 0).toNat / 2 ^ 16 % 2 ^ 8
      dwell := (ws.getD 8 0).toNat / 2 ^ 24 % 2 ^ 8
      maxPulses := (ws.getD 9 0).toNat / 2 ^ 0 % 2 ^ 16
      holdTime := (ws.getD 9 0).toNat / 2 ^ 16 % 2 ^ 16
      repeatInterval := (ws.getD 10 0).toNat / 2 ^ 0 % 2 ^ 8
      roundsLimit := (ws.getD 10 0).toNat / 2 ^ 8 % 2 ^ 8
      cooldown := (ws.getD 10 0).toNat / 2 ^ 16 % 2 ^ 16
      trackInterval := (ws.getD 11 0).toNat / 2 ^ 0 % 2 ^ 16
      grace := (ws.getD 11 0).toNat / 2 ^ 16 % 2 ^ 8
      clockSet := ws.getD 12 0 })

/-! ### The memory path, the agent and the laws -/

/-- The path switch and the port: an access is held while no base is in force or the area is not served, waits for the port, or is completed inside; the port is granted by R166; a completed access reads or writes memory and a snooped full word is taken (R158 to R168). Which commands grant the free port is the model's choice (log entry 21), and so is that a second access, or a completion with none on the port, changes nothing (log entry 3). -/
def Obligations.ProcessorAccessesTakeThePortOrEndInside : Prop :=
  (∀ (a : Access) (s : State), s.path.inHand ≠ none → exec (.processorAccess a) s = .next s) ∧
  (∀ (a : Access) (s : State), s.path.inHand = none →
    (s.phase ≠ .running ∨ s.path.base = none → exec (.processorAccess a) s =
      .next (s.setPath { s.path with inHand := some { access := a, stage := .held } })) ∧
    (s.phase = .running → ∀ b, s.path.base = some b →
      (∀ off, offsetIn b a = some off → s.agent.initial ≠ .done →
        exec (.processorAccess a) s =
          .next (s.setPath { s.path with inHand := some { access := a, stage := .held } })) ∧
      (offsetIn b a = none ∨
          (∃ off, offsetIn b a = some off ∧ s.agent.initial = .done ∧
            (treatment off = .free ∨ treatment off = .snoop ∨
              treatment off = .guard ∧ a.write = none)) →
        exec (.processorAccess a) s = .next (arbitrate (s.setPath { s.path with
          inHand := some { access := a, stage := .waiting } }))) ∧
      (∀ off, offsetIn b a = some off → s.agent.initial = .done →
        (treatment off = .attention → a.write = none → exec (.processorAccess a) s =
          .next (s.setPath { s.path with answer := some (s.attn.factors.setWidth 32) })) ∧
        (∀ v, treatment off = .attention → a.write = some v →
          (a.lanes = 0xF → exec (.processorAccess a) s = .next (s.setAttn { s.attn with
            factors := s.attn.factors &&& ~~~(v.setWidth 9 &&& ~~~(conditions s)) })) ∧
          (a.lanes ≠ 0xF → exec (.processorAccess a) s =
            .next (s.setAttn { s.attn with factors := s.attn.factors ||| 0x004 }))) ∧
        (treatment off = .liveZone → a.write = none →
          (off = 0x0100 → exec (.processorAccess a) s = .next (s.setPath { s.path with
            snapshot := snapshotWords s, answer := some ((snapshotWords s).getD 0 0) })) ∧
          (off ≠ 0x0100 → exec (.processorAccess a) s = .next (s.setPath { s.path with
            answer := some (s.path.snapshot.getD ((off - 0x0100) / 4) 0) }))) ∧
        (treatment off = .guard ∨ treatment off = .liveZone → a.write ≠ none →
          exec (.processorAccess a) s = .next ((s.setPath { s.path with
            guardCount := min (s.path.guardCount + 1) 65535 }).setAttn
              { s.attn with factors := s.attn.factors ||| 0x008 }))))) ∧
  (∀ s : State, exec .portGrant s = .next (arbitrate s) ∧
    (s.path.port ≠ .free → arbitrate s = s) ∧
    (s.path.port = .free → agentReady s = false → s.path.inHand = none → arbitrate s = s) ∧
    (s.path.port = .free → agentReady s = true → s.path.inHand = none →
      arbitrate s = s.setPath { s.path with port := .agent, passCount := 0 }) ∧
    (∀ h, s.path.port = .free → s.path.inHand = some h → h.stage ≠ .waiting →
      (agentReady s = true →
        arbitrate s = s.setPath { s.path with port := .agent, passCount := 0 }) ∧
      (agentReady s = false → arbitrate s = s)) ∧
    (∀ h, s.path.port = .free → s.path.inHand = some h → h.stage = .waiting →
      (agentReady s = false → arbitrate s = s.setPath { s.path with
        inHand := some { h with stage := .onPort }, port := .processor }) ∧
      (agentReady s = true → s.path.passCount < 8 → arbitrate s = s.setPath { s.path with
        inHand := some { h with stage := .onPort }, port := .processor,
        passCount := s.path.passCount + 1 }) ∧
      (agentReady s = true → 8 ≤ s.path.passCount →
        arbitrate s = s.setPath { s.path with port := .agent, passCount := 0 }))) ∧
  (∀ s t : State, t = arbitrate s →
    (t.path.inHand = none ∨ t.path.port ≠ .processor →
      exec .processorAccessComplete s = .next s) ∧
    (∀ a, t.path.inHand = some { access := a, stage := .onPort } → t.path.port = .processor →
      (a.write = none → exec .processorAccessComplete s =
        .next (t.setPath { t.path with
          inHand := none, port := .free,
          answer := some (Memory.readWord t.mem (a.addr.toNat / 4 * 4)) })) ∧
      (∀ v, a.write = some v → ∃ w,
        w = (t.setMem (Memory.writeLanes t.mem (a.addr.toNat / 4 * 4) a.lanes v)).setPath
          { t.path with inHand := none, port := .free } ∧
        (snoopOffset a t = none → exec .processorAccessComplete s = .next w) ∧
        (∀ off, snoopOffset a t = some off →
          (a.lanes = 0xF → exec .processorAccessComplete s = .next (snoopTake off v w)) ∧
          (a.lanes ≠ 0xF → t.phase = .running → exec .processorAccessComplete s =
            .next (w.setAttn { t.attn with factors := t.attn.factors ||| 0x004 })))))) ∧
  (∀ (v : Word) (off : Nat) (o : Half) (s : State) (b : Nat),
    s.phase = .running → s.path.base = some b → s.agent.initial = .done →
    treatment off = .snoop → o.toNat = off → 4 ∣ off → ∃ w,
      w = s.setMem (Memory.writeLanes s.mem (b + off) 0xF v) ∧
      exec (.snoopedWordWrite o 0xF v) s = .next (snoopTake off v w)) ∧
  (∀ (b : Nat) (a : Access),
    (b ≤ a.addr.toNat → a.addr.toNat < b + 65536 →
      offsetIn b a = some (a.addr.toNat / 4 * 4 - b)) ∧
    (a.addr.toNat < b ∨ b + 65536 ≤ a.addr.toNat → offsetIn b a = none)) ∧
  (∀ off : Nat, 4 ∣ off →
    (off ≤ 0x0040 ∨ off = 0x004C ∨ 0x0060 ≤ off ∧ off ≤ 0x006C ∨ off = 0x0074 →
      treatment off = .snoop) ∧
    (off = 0x0044 ∨ off = 0x0048 ∨ 0x0050 ≤ off ∧ off ≤ 0x005C ∨ 0x1000 ≤ off ∧ off < 0x4100 →
      treatment off = .guard) ∧
    (off = 0x0070 → treatment off = .attention) ∧
    (0x0100 ≤ off ∧ off < 0x0200 → treatment off = .liveZone) ∧
    (0x0078 ≤ off ∧ off < 0x0100 ∨ 0x0200 ≤ off ∧ off < 0x1000 ∨ 0x4100 ≤ off →
      treatment off = .free))

/-- The end of an agent word: an initial write reaches memory; a word of the first task reaches memory or the part with the values of this moment, a deposit advances the producer and lets waiting reports and work take the free place; a task without words left is reported and leaves the list, and the next begins (R165, R166, R168, R173, R174). That the row arbitrates before and after its own effect, and changes nothing without an agent word on the port, is the model's choice (log entries 21, 3). -/
def Obligations.AgentWordsEndOneByOne : Prop :=
  (∀ s t : State, t = arbitrate s →
    (t.path.port ≠ .agent ∨ agentReady t = false → exec .agentWordEnd s = .next s) ∧
    (t.path.port = .agent → agentReady t = true → exec .agentWordEnd s =
      .next (arbitrate (agentStep (t.setPath { t.path with port := .free }))))) ∧
  (∀ (s : State) (off : Nat) (v : Word) (left : List (Nat × Word)),
    s.agent.initial = .writing ((off, v) :: left) → ∃ w,
      w = (s.setMem (Memory.writeLanes s.mem (s.path.base.getD 0 + off) 0xF v)).setAgent
        { s.agent with initial := .writing left } ∧
      (left ≠ [] → agentStep s = w) ∧ (left = [] → agentStep s = initialDone w)) ∧
  (∀ (s : State) (t : Task) (ts : List Task) (w : AgentWord) (ws : List AgentWord),
    s.agent.initial = .done → s.agent.tasks = t :: ts → t.words = some (w :: ws) → ∃ u,
      agentStep s = (if taskFinished u = true then completeTask u else u) ∧
      (∀ off v, w = .write off v → u = (s.setMem
          (Memory.writeLanes s.mem (s.path.base.getD 0 + off) 0xF v)).setAgent
        { s.agent with tasks := { t with words := some (wordsAfter ws s) } :: ts }) ∧
      (∀ off, w = .read off → u = s.setAgent { s.agent with
        tasks := { t with
          words := some (wordsAfter ws s),
          bytes := t.bytes ++ wordBytes (Memory.readWord s.mem (s.path.base.getD 0 + off)) }
            :: ts }) ∧
      (w = .generated → u = (s.setMem (Memory.writeLanes s.mem
          (s.path.base.getD 0 + 0x0050) 0xF s.evw.generated)).setAgent
        { s.agent with tasks := { t with words := some (wordsAfter ws s) } :: ts }) ∧
      (w = .lost → u = ((s.setMem (Memory.writeLanes s.mem
          (s.path.base.getD 0 + 0x0054) 0xF s.evw.lost)).setEvw
            { s.evw with countersStale := false }).setAgent
        { s.agent with tasks := { t with words := some (wordsAfter ws s) } :: ts }) ∧
      (w = .result → ws = [] → u = ((s.setMem (Memory.writeLanes s.mem
          (s.path.base.getD 0 + 0x005C) 0xF (resultWord s.settings.result))).setEvw
            { s.evw with resultStale := false }).setAgent
        { s.agent with tasks := { t with words := some [] } :: ts }) ∧
      (∀ p e es, w = .producer p → s.evw.queue = e :: es → s.phase = .running → ∃ x,
        x = (((s.setMem (Memory.writeLanes s.mem
            (s.path.base.getD 0 + 0x0048) 0xF (BitVec.ofNat 32 p))).setEvw { s.evw with
              producer := p, queue := es, deposited := s.evw.deposited + 1 }).setAttn
                { s.attn with factors := s.attn.factors ||| 0x001 }).setAgent
          { s.agent with tasks := { t with words := some (wordsAfter ws s) } :: ts } ∧
        u = takeWork (placeHeld x))) ∧
  (∀ (ws : List AgentWord) (s : State),
    (ws = [.result] → s.evw.resultStale = false → wordsAfter ws s = []) ∧
    (ws ≠ [.result] ∨ s.evw.resultStale = true → wordsAfter ws s = ws)) ∧
  (∀ (s : State) (t : Task) (ts : List Task), s.agent.tasks = t :: ts → ∃ w,
    w = (s.setAgent { s.agent with tasks := ts }).setPath { s.path with
      passCount := if ts = [] then 0 else s.path.passCount } ∧
    (taskFinished s = true ↔ t.words = some []) ∧
    (∀ n, t.kind = .fetch n → completeTask s =
      beginTask (takeWork (w.setReader { s.reader with kept := some t.bytes }))) ∧
    (t.kind = .index → completeTask s = beginTask w) ∧
    (∀ d, t.kind = .event d → completeTask s = beginTask w) ∧
    (t.kind = .tripLog → ∀ r, s.trip.logWrite = some r → r.number = t.number →
      completeTask s = beginTask (w.setTrip { s.trip with
        logIndex := t.number, logWrite := none })) ∧
    (t.kind = .blackBox → s.emerg.boxMark ≠ .rewrite →
      completeTask s = beginTask (w.setEmerg { s.emerg with boxMark := .clear })) ∧
    (t.kind = .blackBox → s.emerg.boxMark = .rewrite →
      completeTask s = beginTask (requestTask .blackBox
        (w.setEmerg { s.emerg with boxMark := .pending })))) ∧
  (∀ (s : State) (t : Task) (ts : List Task), s.phase = .running → s.agent.initial = .done →
    s.agent.tasks = t :: ts →
    (t.words ≠ none → beginTask s = s) ∧
    (t.words = none → beginTask s = s.setAgent { s.agent with
      tasks := { t with
        words := some (taskWords t.kind s),
        number := (s.trip.logWrite.map (·.number)).getD 0 } :: ts }))

/-- Tasks are requested when they are due and no task of their kind is listed (R165, R170, R173, R174); a row that names a task's end runs the words the first task has left, with the port the agent's to use, which is the model's choice (log entry 20); of a stale mark and a deposit due together the task with the event is requested, its choice too (log entry 22). The words written are the event slot of R182, the trip image of Table 46 and R184, and the black box of Table 47, each little-endian with reserved bytes 0; the position fields of a black box without a position record are the model's reading (log entry 32). -/
def Obligations.TasksStartWhenDueAndRunToTheirEnd : Prop :=
  (∀ s : State,
    (s.phase = .running → s.agent.initial = .done → s.reader.consumer ≠ s.reader.producer →
      s.reader.kept = none → taskListed .index s = false → s.evw.queue.length ≤ 14 →
      exec .requestFetchStart s = .next (requestTask (.fetch s.reader.consumer) s)) ∧
    (s.phase ≠ .running ∨ s.agent.initial ≠ .done ∨ s.reader.consumer = s.reader.producer ∨
        s.reader.kept ≠ none ∨ taskListed .index s = true ∨ 15 ≤ s.evw.queue.length →
      exec .requestFetchStart s = .next s) ∧
    (s.phase = .running → taskListed (.event true) s = false →
      (s.evw.queue ≠ [] → (s.evw.producer + 64 - s.evw.consumer) % 64 < 63 →
        exec .eventTaskStart s = .next (requestTask (.event true) s)) ∧
      (s.evw.queue = [] ∨ 63 ≤ (s.evw.producer + 64 - s.evw.consumer) % 64 →
        (s.evw.countersStale = true ∨ s.evw.resultStale = true →
          exec .eventTaskStart s = .next (requestTask (.event false) s)) ∧
        (s.evw.countersStale = false → s.evw.resultStale = false →
          exec .eventTaskStart s = .next s))) ∧
    (s.phase ≠ .running ∨ taskListed (.event true) s = true →
      exec .eventTaskStart s = .next s)) ∧
  (∀ (k : TaskKind) (s : State),
    (taskListed k s = true → requestTask k s = s) ∧
    (taskListed k s = false → requestTask k s = beginTask (s.setAgent { s.agent with
      tasks := s.agent.tasks ++ [{ kind := k, words := none, bytes := [], number := 0 }] }))) ∧
  (∀ (s g : State) (t : Task) (ts : List Task), s.phase = .running → s.agent.initial = .done →
    s.agent.tasks = t :: ts → s.path.port ≠ .processor →
    (∀ h, s.path.inHand = some h → h.stage = .held) →
    g = s.setPath { s.path with port := .agent, passCount := 0 } →
    (∀ n, t.kind = .fetch n → ∃ v, v = runTask 70 g ∧
      exec .requestFetchComplete s = .next (v.setPath { v.path with port := .free })) ∧
    (t.kind = .index → ∃ v, v = runTask 70 g ∧
      exec .requestIndexComplete s = .next (v.setPath { v.path with port := .free })) ∧
    (∀ d, t.kind = .event d → ∃ v, v = runTask 70 g ∧
      exec .eventTaskComplete s = .next (v.setPath { v.path with port := .free })) ∧
    (∀ p, t.kind = .event true → AgentWord.producer p ∈ t.words.getD [] → ∃ v,
      v = runToDeposit 70 g ∧
      exec .eventDeposited s = .next (v.setPath { v.path with port := .free })) ∧
    (t.kind = .tripLog → ∃ v, v = runTask 70 g ∧
      exec .tripLogWriteComplete s = .next (v.setPath { v.path with port := .free })) ∧
    (t.kind = .blackBox → ∃ v, v = runTask 70 g ∧
      exec .blackBoxWriteComplete s = .next (v.setPath { v.path with port := .free }))) ∧
  (∀ (n : Nat) (s : State),
    (lastWord s = true → runTask (n + 1) s = agentStep s) ∧
    (lastWord s = false → runTask (n + 1) s = runTask n (agentStep s)) ∧
    (nextIsProducer s = true → runToDeposit (n + 1) s = agentStep s) ∧
    (nextIsProducer s = false → runToDeposit (n + 1) s = runToDeposit n (agentStep s))) ∧
  (∀ s : State, s.agent.tasks = [] →
    exec .requestFetchComplete s = .next s ∧ exec .requestIndexComplete s = .next s ∧
    exec .eventDeposited s = .next s ∧ exec .eventTaskComplete s = .next s ∧
    exec .tripLogWriteComplete s = .next s ∧ exec .blackBoxWriteComplete s = .next s) ∧
  (∀ (s : State) (e : Event) (es : List Event) (r : TripRecord) (n : Nat),
    taskWords (.fetch n) s = (List.range 32).map (fun i => .read (0x0800 + 128 * n + 4 * i)) ∧
    taskWords .index s = [.write 0x0044 (BitVec.ofNat 32 s.reader.consumer)] ∧
    (s.evw.queue = e :: es → taskWords (.event true) s =
      writesFrom (0x1000 + 128 * s.evw.producer) (wordsOf e.bytes) ++
        [.producer ((s.evw.producer + 1) % 64), .generated, .lost, .result]) ∧
    taskWords (.event false) s = [.generated, .lost, .result] ∧
    (s.trip.logWrite = some r → taskWords .tripLog s =
      writesFrom (0x3000 + 64 * (r.number % 64)) (wordsOf r.memoryImage) ++
        [.write 0x0058 (BitVec.ofNat 32 r.number)]) ∧
    taskWords .blackBox s = writesFrom 0x4000 (wordsOf (boxBytes s.emerg.box))) ∧
  (∀ (off : Nat) (w : Word) (ws : List Word), writesFrom off [] = [] ∧
    writesFrom off (w :: ws) = .write off w :: writesFrom (off + 4) ws) ∧
  (∀ (x y z u : Byte) (bs : List Byte), wordsOf [] = [] ∧
    wordsOf (x :: y :: z :: u :: bs) = (u ++ z ++ y ++ x) :: wordsOf bs) ∧
  (∀ (e : Event) (bs : List Byte),
    bs = [e.payload.code, BitVec.ofNat 8 e.payload.bytes.length] ++ bytesLE 2 e.tag.toNat ++
      bytesLE 4 e.time.toNat ++ e.payload.bytes →
    e.bytes = bs ++ List.replicate (128 - bs.length) 0) ∧
  (∀ (r : TripRecord) (g : Nat → Segment) (fs : List (Nat × Nat)),
    (∀ k, g k = r.segments.getD k { slot := 0, version := 0, steps := 0 }) →
    fs = [ (4, r.number), (4, (r.offerId.getD 0).toNat), (4, r.start.toNat), (4, r.finish.toNat),
      (4, r.hiredPulses), (4, r.holdSecs),
      (4, r.fare + (if r.emergency then 2 ^ 24 else 0) + (if r.pulseFault then 2 ^ 25 else 0) +
        (if r.fareCap then 2 ^ 26 else 0) + (if r.unreported then 2 ^ 27 else 0) +
        (if r.truncated then 2 ^ 28 else 0) + if r.offerId.isSome then 2 ^ 29 else 0),
      (4, r.extras + r.segments.length * 2 ^ 17 + (g 0).slot * 2 ^ 20 + (g 1).slot * 2 ^ 22 +
        (g 2).slot * 2 ^ 24 + (g 3).slot * 2 ^ 26 + (g 4).slot * 2 ^ 28 + (g 5).slot * 2 ^ 30),
      (2, r.peak), (2, (g 0).version), (2, (g 1).version), (2, (g 2).version), (2, (g 3).version),
      (2, (g 4).version), (2, (g 5).version), (3, min (g 0).steps 16777215),
      (3, min (g 1).steps 16777215), (3, min (g 2).steps 16777215), (3, min (g 3).steps 16777215),
      (3, min (g 4).steps 16777215), (3, min (g 5).steps 16777215) ] →
    r.memoryImage = fs.flatMap (fun f => bytesLE f.1 f.2) ∧
    r.airImage = fs.flatMap (fun f => (bytesLE f.1 f.2).reverse)) ∧
  boxBytes none = 0x01 :: List.replicate 255 0 ∧
  (∀ (b : BlackBox) (bs : List Byte) (la lo sp he fv : Nat),
    (b.position = none → la = 0 ∧ lo = 0 ∧ sp = 0 ∧ he = 0 ∧ fv = 0) →
    (∀ p, b.position = some p → la = p.latitude.toNat ∧ lo = p.longitude.toNat ∧
      sp = p.speed.toNat ∧ he = p.heading ∧ fv = if p.fixValid then 1 else 0) →
    bs = [0x02, match b.source with | .switch => 0 | .request => 1,
        BitVec.ofNat 8 b.meterState.code, BitVec.ofNat 8 (b.slot.getD 255)] ++
      bytesLE 4 b.time.toNat ++ bytesLE 4 b.tripNumber ++ bytesLE 4 b.fare ++ bytesLE 4 b.extras ++
      bytesLE 4 b.hiredPulses ++ bytesLE 4 la ++ bytesLE 4 lo ++ bytesLE 2 sp ++ bytesLE 2 he ++
      bytesLE 2 b.fixAge ++ [BitVec.ofNat 8 fv, BitVec.ofNat 8 b.link.code] ++
      bytesLE 4 (b.jobId.getD 0).toNat ++
      [if b.jobId.isSome then 1 else 0, BitVec.ofNat 8 b.queueLength] ++ bytesLE 2 b.totalBad ++
      [BitVec.ofNat 8 b.recent.length, 0, 0, 0] ++
      b.recent.flatMap (fun r => [r.cls, r.seq, 0, 0] ++ bytesLE 4 r.doneAt.toNat) →
    boxBytes (some b) = bs ++ List.replicate (256 - bs.length) 0)

/-- The device laws at reset: memory is canonical, the count of R173, the queue law of R80, what R1 says of the meter and the laws of the offer table and the message pool hold in the reset state, and the law of the agent's task list. -/
def Obligations.TheDeviceLawsHoldAtReset : Prop :=
  MemoryLaw State.reset ∧ EventLaw State.reset ∧ QueueLaw State.reset ∧ MeterLaw State.reset ∧
    BooksLaw State.reset ∧ TaskLaw State.reset

/-- Every step keeps each of the device laws: the canonical memory, the count of R173 and the 16 places of R172, the queue law of R80, what R1 says of the meter. -/
def Obligations.EveryStepKeepsTheDeviceLaws : Prop :=
  ∀ s t : State, step s = .next t →
    (MemoryLaw s → MemoryLaw t) ∧ (EventLaw s → EventLaw t) ∧ (QueueLaw s → QueueLaw t) ∧
      (MeterLaw s → MeterLaw t)

/-- Every step from a state with the queue law of R80 keeps the laws of the offer table and the message pool: at most one entry is BID_SENT or AWARDED (R111), a BID is in the uplink queue exactly while its entry is BID_SENT with its sequence number (R113), no entry is OPEN outside QUIET (R121), a pool slot is in use exactly while a TEXT entry refers to it or it holds a report (R126), and outside normal running no offer entry and no slot is in use (R123, R136). -/
def Obligations.EveryStepKeepsTheBooks : Prop :=
  ∀ s t : State, step s = .next t → QueueLaw s → BooksLaw s → BooksLaw t

/-- The live fare, the black box and the agent's task list across every step: the fare of a hiring does not fall and its active copy changes only at a step boundary taken with a change pending (R18); a captured black box stays as it is or is emptied (R153); and of the words left to a task at most one is the producer index word, in an event task that deposits, and at most one the result word (R165, R173, R174), so that a row which runs many agent words takes at most one request. The box stays as it is where the command is neither a full reset nor BLACKBOX_CLEAR, no request is in hand, and the command is none of the seven rows at which the agent's words end and a fetched request may be taken. -/
def Obligations.TheFareNeverFallsAndTheBoxStays : Prop :=
  (∀ s t : State, step s = .next t → MeterLaw s → TaskLaw s →
    FareLaw s t ∧ BoxLaw s t ∧ TaskLaw t) ∧
  (∀ (s t : State) (c : Instr) (rest : List Instr), s.pending = c :: rest →
    step s = .next t → MeterLaw s →
    c ≠ .fullReset → (∀ tag, c ≠ .blackboxClear tag) →
    c ∉ [Instr.agentWordEnd, .requestFetchComplete, .requestIndexComplete, .eventDeposited,
      .eventTaskComplete, .tripLogWriteComplete, .blackBoxWriteComplete] →
    s.reader.kept = none → ∀ b, s.emerg.box = some b → t.emerg.box = some b) ∧
  (∀ (b : List Byte) (s : State),
    FareLaw s (takeWork s) ∧ BoxLaw s (takeWork s) ∧
    FareLaw s (fetchDone b s) ∧ BoxLaw s (fetchDone b s))
end

