-- ==== Sys2Proof/Laws/State.lean ====
section
/-! SUPPORT. What each field reads after each update of State: one lemma per field per update, true by rfl. -/

namespace Sys2Proof.Machine.State

@[simp] theorem setPhase_phase (s x) : (State.setPhase s x).phase = x := rfl
@[simp] theorem setPhase_pins (s x) : (State.setPhase s x).pins = s.pins := rfl
@[simp] theorem setPhase_clock (s x) : (State.setPhase s x).clock = s.clock := rfl
@[simp] theorem setPhase_secs (s x) : (State.setPhase s x).secs = s.secs := rfl
@[simp] theorem setPhase_meter (s x) : (State.setPhase s x).meter = s.meter := rfl
@[simp] theorem setPhase_trip (s x) : (State.setPhase s x).trip = s.trip := rfl
@[simp] theorem setPhase_rx (s x) : (State.setPhase s x).rx = s.rx := rfl
@[simp] theorem setPhase_link (s x) : (State.setPhase s x).link = s.link := rfl
@[simp] theorem setPhase_uplink (s x) : (State.setPhase s x).uplink = s.uplink := rfl
@[simp] theorem setPhase_sup (s x) : (State.setPhase s x).sup = s.sup := rfl
@[simp] theorem setPhase_offers (s x) : (State.setPhase s x).offers = s.offers := rfl
@[simp] theorem setPhase_pool (s x) : (State.setPhase s x).pool = s.pool := rfl
@[simp] theorem setPhase_emerg (s x) : (State.setPhase s x).emerg = s.emerg := rfl
@[simp] theorem setPhase_path (s x) : (State.setPhase s x).path = s.path := rfl
@[simp] theorem setPhase_agent (s x) : (State.setPhase s x).agent = s.agent := rfl
@[simp] theorem setPhase_reader (s x) : (State.setPhase s x).reader = s.reader := rfl
@[simp] theorem setPhase_evw (s x) : (State.setPhase s x).evw = s.evw := rfl
@[simp] theorem setPhase_settings (s x) : (State.setPhase s x).settings = s.settings := rfl
@[simp] theorem setPhase_position (s x) : (State.setPhase s x).position = s.position := rfl
@[simp] theorem setPhase_attn (s x) : (State.setPhase s x).attn = s.attn := rfl
@[simp] theorem setPhase_mem (s x) : (State.setPhase s x).mem = s.mem := rfl
@[simp] theorem setPhase_book (s x) : (State.setPhase s x).book = s.book := rfl
@[simp] theorem setPhase_pending (s x) : (State.setPhase s x).pending = s.pending := rfl
@[simp] theorem setPins_phase (s x) : (State.setPins s x).phase = s.phase := rfl
@[simp] theorem setPins_pins (s x) : (State.setPins s x).pins = x := rfl
@[simp] theorem setPins_clock (s x) : (State.setPins s x).clock = s.clock := rfl
@[simp] theorem setPins_secs (s x) : (State.setPins s x).secs = s.secs := rfl
@[simp] theorem setPins_meter (s x) : (State.setPins s x).meter = s.meter := rfl
@[simp] theorem setPins_trip (s x) : (State.setPins s x).trip = s.trip := rfl
@[simp] theorem setPins_rx (s x) : (State.setPins s x).rx = s.rx := rfl
@[simp] theorem setPins_link (s x) : (State.setPins s x).link = s.link := rfl
@[simp] theorem setPins_uplink (s x) : (State.setPins s x).uplink = s.uplink := rfl
@[simp] theorem setPins_sup (s x) : (State.setPins s x).sup = s.sup := rfl
@[simp] theorem setPins_offers (s x) : (State.setPins s x).offers = s.offers := rfl
@[simp] theorem setPins_pool (s x) : (State.setPins s x).pool = s.pool := rfl
@[simp] theorem setPins_emerg (s x) : (State.setPins s x).emerg = s.emerg := rfl
@[simp] theorem setPins_path (s x) : (State.setPins s x).path = s.path := rfl
@[simp] theorem setPins_agent (s x) : (State.setPins s x).agent = s.agent := rfl
@[simp] theorem setPins_reader (s x) : (State.setPins s x).reader = s.reader := rfl
@[simp] theorem setPins_evw (s x) : (State.setPins s x).evw = s.evw := rfl
@[simp] theorem setPins_settings (s x) : (State.setPins s x).settings = s.settings := rfl
@[simp] theorem setPins_position (s x) : (State.setPins s x).position = s.position := rfl
@[simp] theorem setPins_attn (s x) : (State.setPins s x).attn = s.attn := rfl
@[simp] theorem setPins_mem (s x) : (State.setPins s x).mem = s.mem := rfl
@[simp] theorem setPins_book (s x) : (State.setPins s x).book = s.book := rfl
@[simp] theorem setPins_pending (s x) : (State.setPins s x).pending = s.pending := rfl
@[simp] theorem setClock_phase (s x) : (State.setClock s x).phase = s.phase := rfl
@[simp] theorem setClock_pins (s x) : (State.setClock s x).pins = s.pins := rfl
@[simp] theorem setClock_clock (s x) : (State.setClock s x).clock = x := rfl
@[simp] theorem setClock_secs (s x) : (State.setClock s x).secs = s.secs := rfl
@[simp] theorem setClock_meter (s x) : (State.setClock s x).meter = s.meter := rfl
@[simp] theorem setClock_trip (s x) : (State.setClock s x).trip = s.trip := rfl
@[simp] theorem setClock_rx (s x) : (State.setClock s x).rx = s.rx := rfl
@[simp] theorem setClock_link (s x) : (State.setClock s x).link = s.link := rfl
@[simp] theorem setClock_uplink (s x) : (State.setClock s x).uplink = s.uplink := rfl
@[simp] theorem setClock_sup (s x) : (State.setClock s x).sup = s.sup := rfl
@[simp] theorem setClock_offers (s x) : (State.setClock s x).offers = s.offers := rfl
@[simp] theorem setClock_pool (s x) : (State.setClock s x).pool = s.pool := rfl
@[simp] theorem setClock_emerg (s x) : (State.setClock s x).emerg = s.emerg := rfl
@[simp] theorem setClock_path (s x) : (State.setClock s x).path = s.path := rfl
@[simp] theorem setClock_agent (s x) : (State.setClock s x).agent = s.agent := rfl
@[simp] theorem setClock_reader (s x) : (State.setClock s x).reader = s.reader := rfl
@[simp] theorem setClock_evw (s x) : (State.setClock s x).evw = s.evw := rfl
@[simp] theorem setClock_settings (s x) : (State.setClock s x).settings = s.settings := rfl
@[simp] theorem setClock_position (s x) : (State.setClock s x).position = s.position := rfl
@[simp] theorem setClock_attn (s x) : (State.setClock s x).attn = s.attn := rfl
@[simp] theorem setClock_mem (s x) : (State.setClock s x).mem = s.mem := rfl
@[simp] theorem setClock_book (s x) : (State.setClock s x).book = s.book := rfl
@[simp] theorem setClock_pending (s x) : (State.setClock s x).pending = s.pending := rfl
@[simp] theorem setSecs_phase (s x) : (State.setSecs s x).phase = s.phase := rfl
@[simp] theorem setSecs_pins (s x) : (State.setSecs s x).pins = s.pins := rfl
@[simp] theorem setSecs_clock (s x) : (State.setSecs s x).clock = s.clock := rfl
@[simp] theorem setSecs_secs (s x) : (State.setSecs s x).secs = x := rfl
@[simp] theorem setSecs_meter (s x) : (State.setSecs s x).meter = s.meter := rfl
@[simp] theorem setSecs_trip (s x) : (State.setSecs s x).trip = s.trip := rfl
@[simp] theorem setSecs_rx (s x) : (State.setSecs s x).rx = s.rx := rfl
@[simp] theorem setSecs_link (s x) : (State.setSecs s x).link = s.link := rfl
@[simp] theorem setSecs_uplink (s x) : (State.setSecs s x).uplink = s.uplink := rfl
@[simp] theorem setSecs_sup (s x) : (State.setSecs s x).sup = s.sup := rfl
@[simp] theorem setSecs_offers (s x) : (State.setSecs s x).offers = s.offers := rfl
@[simp] theorem setSecs_pool (s x) : (State.setSecs s x).pool = s.pool := rfl
@[simp] theorem setSecs_emerg (s x) : (State.setSecs s x).emerg = s.emerg := rfl
@[simp] theorem setSecs_path (s x) : (State.setSecs s x).path = s.path := rfl
@[simp] theorem setSecs_agent (s x) : (State.setSecs s x).agent = s.agent := rfl
@[simp] theorem setSecs_reader (s x) : (State.setSecs s x).reader = s.reader := rfl
@[simp] theorem setSecs_evw (s x) : (State.setSecs s x).evw = s.evw := rfl
@[simp] theorem setSecs_settings (s x) : (State.setSecs s x).settings = s.settings := rfl
@[simp] theorem setSecs_position (s x) : (State.setSecs s x).position = s.position := rfl
@[simp] theorem setSecs_attn (s x) : (State.setSecs s x).attn = s.attn := rfl
@[simp] theorem setSecs_mem (s x) : (State.setSecs s x).mem = s.mem := rfl
@[simp] theorem setSecs_book (s x) : (State.setSecs s x).book = s.book := rfl
@[simp] theorem setSecs_pending (s x) : (State.setSecs s x).pending = s.pending := rfl
@[simp] theorem setMeter_phase (s x) : (State.setMeter s x).phase = s.phase := rfl
@[simp] theorem setMeter_pins (s x) : (State.setMeter s x).pins = s.pins := rfl
@[simp] theorem setMeter_clock (s x) : (State.setMeter s x).clock = s.clock := rfl
@[simp] theorem setMeter_secs (s x) : (State.setMeter s x).secs = s.secs := rfl
@[simp] theorem setMeter_meter (s x) : (State.setMeter s x).meter = x := rfl
@[simp] theorem setMeter_trip (s x) : (State.setMeter s x).trip = s.trip := rfl
@[simp] theorem setMeter_rx (s x) : (State.setMeter s x).rx = s.rx := rfl
@[simp] theorem setMeter_link (s x) : (State.setMeter s x).link = s.link := rfl
@[simp] theorem setMeter_uplink (s x) : (State.setMeter s x).uplink = s.uplink := rfl
@[simp] theorem setMeter_sup (s x) : (State.setMeter s x).sup = s.sup := rfl
@[simp] theorem setMeter_offers (s x) : (State.setMeter s x).offers = s.offers := rfl
@[simp] theorem setMeter_pool (s x) : (State.setMeter s x).pool = s.pool := rfl
@[simp] theorem setMeter_emerg (s x) : (State.setMeter s x).emerg = s.emerg := rfl
@[simp] theorem setMeter_path (s x) : (State.setMeter s x).path = s.path := rfl
@[simp] theorem setMeter_agent (s x) : (State.setMeter s x).agent = s.agent := rfl
@[simp] theorem setMeter_reader (s x) : (State.setMeter s x).reader = s.reader := rfl
@[simp] theorem setMeter_evw (s x) : (State.setMeter s x).evw = s.evw := rfl
@[simp] theorem setMeter_settings (s x) : (State.setMeter s x).settings = s.settings := rfl
@[simp] theorem setMeter_position (s x) : (State.setMeter s x).position = s.position := rfl
@[simp] theorem setMeter_attn (s x) : (State.setMeter s x).attn = s.attn := rfl
@[simp] theorem setMeter_mem (s x) : (State.setMeter s x).mem = s.mem := rfl
@[simp] theorem setMeter_book (s x) : (State.setMeter s x).book = s.book := rfl
@[simp] theorem setMeter_pending (s x) : (State.setMeter s x).pending = s.pending := rfl
@[simp] theorem setTrip_phase (s x) : (State.setTrip s x).phase = s.phase := rfl
@[simp] theorem setTrip_pins (s x) : (State.setTrip s x).pins = s.pins := rfl
@[simp] theorem setTrip_clock (s x) : (State.setTrip s x).clock = s.clock := rfl
@[simp] theorem setTrip_secs (s x) : (State.setTrip s x).secs = s.secs := rfl
@[simp] theorem setTrip_meter (s x) : (State.setTrip s x).meter = s.meter := rfl
@[simp] theorem setTrip_trip (s x) : (State.setTrip s x).trip = x := rfl
@[simp] theorem setTrip_rx (s x) : (State.setTrip s x).rx = s.rx := rfl
@[simp] theorem setTrip_link (s x) : (State.setTrip s x).link = s.link := rfl
@[simp] theorem setTrip_uplink (s x) : (State.setTrip s x).uplink = s.uplink := rfl
@[simp] theorem setTrip_sup (s x) : (State.setTrip s x).sup = s.sup := rfl
@[simp] theorem setTrip_offers (s x) : (State.setTrip s x).offers = s.offers := rfl
@[simp] theorem setTrip_pool (s x) : (State.setTrip s x).pool = s.pool := rfl
@[simp] theorem setTrip_emerg (s x) : (State.setTrip s x).emerg = s.emerg := rfl
@[simp] theorem setTrip_path (s x) : (State.setTrip s x).path = s.path := rfl
@[simp] theorem setTrip_agent (s x) : (State.setTrip s x).agent = s.agent := rfl
@[simp] theorem setTrip_reader (s x) : (State.setTrip s x).reader = s.reader := rfl
@[simp] theorem setTrip_evw (s x) : (State.setTrip s x).evw = s.evw := rfl
@[simp] theorem setTrip_settings (s x) : (State.setTrip s x).settings = s.settings := rfl
@[simp] theorem setTrip_position (s x) : (State.setTrip s x).position = s.position := rfl
@[simp] theorem setTrip_attn (s x) : (State.setTrip s x).attn = s.attn := rfl
@[simp] theorem setTrip_mem (s x) : (State.setTrip s x).mem = s.mem := rfl
@[simp] theorem setTrip_book (s x) : (State.setTrip s x).book = s.book := rfl
@[simp] theorem setTrip_pending (s x) : (State.setTrip s x).pending = s.pending := rfl
@[simp] theorem setRx_phase (s x) : (State.setRx s x).phase = s.phase := rfl
@[simp] theorem setRx_pins (s x) : (State.setRx s x).pins = s.pins := rfl
@[simp] theorem setRx_clock (s x) : (State.setRx s x).clock = s.clock := rfl
@[simp] theorem setRx_secs (s x) : (State.setRx s x).secs = s.secs := rfl
@[simp] theorem setRx_meter (s x) : (State.setRx s x).meter = s.meter := rfl
@[simp] theorem setRx_trip (s x) : (State.setRx s x).trip = s.trip := rfl
@[simp] theorem setRx_rx (s x) : (State.setRx s x).rx = x := rfl
@[simp] theorem setRx_link (s x) : (State.setRx s x).link = s.link := rfl
@[simp] theorem setRx_uplink (s x) : (State.setRx s x).uplink = s.uplink := rfl
@[simp] theorem setRx_sup (s x) : (State.setRx s x).sup = s.sup := rfl
@[simp] theorem setRx_offers (s x) : (State.setRx s x).offers = s.offers := rfl
@[simp] theorem setRx_pool (s x) : (State.setRx s x).pool = s.pool := rfl
@[simp] theorem setRx_emerg (s x) : (State.setRx s x).emerg = s.emerg := rfl
@[simp] theorem setRx_path (s x) : (State.setRx s x).path = s.path := rfl
@[simp] theorem setRx_agent (s x) : (State.setRx s x).agent = s.agent := rfl
@[simp] theorem setRx_reader (s x) : (State.setRx s x).reader = s.reader := rfl
@[simp] theorem setRx_evw (s x) : (State.setRx s x).evw = s.evw := rfl
@[simp] theorem setRx_settings (s x) : (State.setRx s x).settings = s.settings := rfl
@[simp] theorem setRx_position (s x) : (State.setRx s x).position = s.position := rfl
@[simp] theorem setRx_attn (s x) : (State.setRx s x).attn = s.attn := rfl
@[simp] theorem setRx_mem (s x) : (State.setRx s x).mem = s.mem := rfl
@[simp] theorem setRx_book (s x) : (State.setRx s x).book = s.book := rfl
@[simp] theorem setRx_pending (s x) : (State.setRx s x).pending = s.pending := rfl
@[simp] theorem setLink_phase (s x) : (State.setLink s x).phase = s.phase := rfl
@[simp] theorem setLink_pins (s x) : (State.setLink s x).pins = s.pins := rfl
@[simp] theorem setLink_clock (s x) : (State.setLink s x).clock = s.clock := rfl
@[simp] theorem setLink_secs (s x) : (State.setLink s x).secs = s.secs := rfl
@[simp] theorem setLink_meter (s x) : (State.setLink s x).meter = s.meter := rfl
@[simp] theorem setLink_trip (s x) : (State.setLink s x).trip = s.trip := rfl
@[simp] theorem setLink_rx (s x) : (State.setLink s x).rx = s.rx := rfl
@[simp] theorem setLink_link (s x) : (State.setLink s x).link = x := rfl
@[simp] theorem setLink_uplink (s x) : (State.setLink s x).uplink = s.uplink := rfl
@[simp] theorem setLink_sup (s x) : (State.setLink s x).sup = s.sup := rfl
@[simp] theorem setLink_offers (s x) : (State.setLink s x).offers = s.offers := rfl
@[simp] theorem setLink_pool (s x) : (State.setLink s x).pool = s.pool := rfl
@[simp] theorem setLink_emerg (s x) : (State.setLink s x).emerg = s.emerg := rfl
@[simp] theorem setLink_path (s x) : (State.setLink s x).path = s.path := rfl
@[simp] theorem setLink_agent (s x) : (State.setLink s x).agent = s.agent := rfl
@[simp] theorem setLink_reader (s x) : (State.setLink s x).reader = s.reader := rfl
@[simp] theorem setLink_evw (s x) : (State.setLink s x).evw = s.evw := rfl
@[simp] theorem setLink_settings (s x) : (State.setLink s x).settings = s.settings := rfl
@[simp] theorem setLink_position (s x) : (State.setLink s x).position = s.position := rfl
@[simp] theorem setLink_attn (s x) : (State.setLink s x).attn = s.attn := rfl
@[simp] theorem setLink_mem (s x) : (State.setLink s x).mem = s.mem := rfl
@[simp] theorem setLink_book (s x) : (State.setLink s x).book = s.book := rfl
@[simp] theorem setLink_pending (s x) : (State.setLink s x).pending = s.pending := rfl
@[simp] theorem setUplink_phase (s x) : (State.setUplink s x).phase = s.phase := rfl
@[simp] theorem setUplink_pins (s x) : (State.setUplink s x).pins = s.pins := rfl
@[simp] theorem setUplink_clock (s x) : (State.setUplink s x).clock = s.clock := rfl
@[simp] theorem setUplink_secs (s x) : (State.setUplink s x).secs = s.secs := rfl
@[simp] theorem setUplink_meter (s x) : (State.setUplink s x).meter = s.meter := rfl
@[simp] theorem setUplink_trip (s x) : (State.setUplink s x).trip = s.trip := rfl
@[simp] theorem setUplink_rx (s x) : (State.setUplink s x).rx = s.rx := rfl
@[simp] theorem setUplink_link (s x) : (State.setUplink s x).link = s.link := rfl
@[simp] theorem setUplink_uplink (s x) : (State.setUplink s x).uplink = x := rfl
@[simp] theorem setUplink_sup (s x) : (State.setUplink s x).sup = s.sup := rfl
@[simp] theorem setUplink_offers (s x) : (State.setUplink s x).offers = s.offers := rfl
@[simp] theorem setUplink_pool (s x) : (State.setUplink s x).pool = s.pool := rfl
@[simp] theorem setUplink_emerg (s x) : (State.setUplink s x).emerg = s.emerg := rfl
@[simp] theorem setUplink_path (s x) : (State.setUplink s x).path = s.path := rfl
@[simp] theorem setUplink_agent (s x) : (State.setUplink s x).agent = s.agent := rfl
@[simp] theorem setUplink_reader (s x) : (State.setUplink s x).reader = s.reader := rfl
@[simp] theorem setUplink_evw (s x) : (State.setUplink s x).evw = s.evw := rfl
@[simp] theorem setUplink_settings (s x) : (State.setUplink s x).settings = s.settings := rfl
@[simp] theorem setUplink_position (s x) : (State.setUplink s x).position = s.position := rfl
@[simp] theorem setUplink_attn (s x) : (State.setUplink s x).attn = s.attn := rfl
@[simp] theorem setUplink_mem (s x) : (State.setUplink s x).mem = s.mem := rfl
@[simp] theorem setUplink_book (s x) : (State.setUplink s x).book = s.book := rfl
@[simp] theorem setUplink_pending (s x) : (State.setUplink s x).pending = s.pending := rfl
@[simp] theorem setSup_phase (s x) : (State.setSup s x).phase = s.phase := rfl
@[simp] theorem setSup_pins (s x) : (State.setSup s x).pins = s.pins := rfl
@[simp] theorem setSup_clock (s x) : (State.setSup s x).clock = s.clock := rfl
@[simp] theorem setSup_secs (s x) : (State.setSup s x).secs = s.secs := rfl
@[simp] theorem setSup_meter (s x) : (State.setSup s x).meter = s.meter := rfl
@[simp] theorem setSup_trip (s x) : (State.setSup s x).trip = s.trip := rfl
@[simp] theorem setSup_rx (s x) : (State.setSup s x).rx = s.rx := rfl
@[simp] theorem setSup_link (s x) : (State.setSup s x).link = s.link := rfl
@[simp] theorem setSup_uplink (s x) : (State.setSup s x).uplink = s.uplink := rfl
@[simp] theorem setSup_sup (s x) : (State.setSup s x).sup = x := rfl
@[simp] theorem setSup_offers (s x) : (State.setSup s x).offers = s.offers := rfl
@[simp] theorem setSup_pool (s x) : (State.setSup s x).pool = s.pool := rfl
@[simp] theorem setSup_emerg (s x) : (State.setSup s x).emerg = s.emerg := rfl
@[simp] theorem setSup_path (s x) : (State.setSup s x).path = s.path := rfl
@[simp] theorem setSup_agent (s x) : (State.setSup s x).agent = s.agent := rfl
@[simp] theorem setSup_reader (s x) : (State.setSup s x).reader = s.reader := rfl
@[simp] theorem setSup_evw (s x) : (State.setSup s x).evw = s.evw := rfl
@[simp] theorem setSup_settings (s x) : (State.setSup s x).settings = s.settings := rfl
@[simp] theorem setSup_position (s x) : (State.setSup s x).position = s.position := rfl
@[simp] theorem setSup_attn (s x) : (State.setSup s x).attn = s.attn := rfl
@[simp] theorem setSup_mem (s x) : (State.setSup s x).mem = s.mem := rfl
@[simp] theorem setSup_book (s x) : (State.setSup s x).book = s.book := rfl
@[simp] theorem setSup_pending (s x) : (State.setSup s x).pending = s.pending := rfl
@[simp] theorem setOffers_phase (s x) : (State.setOffers s x).phase = s.phase := rfl
@[simp] theorem setOffers_pins (s x) : (State.setOffers s x).pins = s.pins := rfl
@[simp] theorem setOffers_clock (s x) : (State.setOffers s x).clock = s.clock := rfl
@[simp] theorem setOffers_secs (s x) : (State.setOffers s x).secs = s.secs := rfl
@[simp] theorem setOffers_meter (s x) : (State.setOffers s x).meter = s.meter := rfl
@[simp] theorem setOffers_trip (s x) : (State.setOffers s x).trip = s.trip := rfl
@[simp] theorem setOffers_rx (s x) : (State.setOffers s x).rx = s.rx := rfl
@[simp] theorem setOffers_link (s x) : (State.setOffers s x).link = s.link := rfl
@[simp] theorem setOffers_uplink (s x) : (State.setOffers s x).uplink = s.uplink := rfl
@[simp] theorem setOffers_sup (s x) : (State.setOffers s x).sup = s.sup := rfl
@[simp] theorem setOffers_offers (s x) : (State.setOffers s x).offers = x := rfl
@[simp] theorem setOffers_pool (s x) : (State.setOffers s x).pool = s.pool := rfl
@[simp] theorem setOffers_emerg (s x) : (State.setOffers s x).emerg = s.emerg := rfl
@[simp] theorem setOffers_path (s x) : (State.setOffers s x).path = s.path := rfl
@[simp] theorem setOffers_agent (s x) : (State.setOffers s x).agent = s.agent := rfl
@[simp] theorem setOffers_reader (s x) : (State.setOffers s x).reader = s.reader := rfl
@[simp] theorem setOffers_evw (s x) : (State.setOffers s x).evw = s.evw := rfl
@[simp] theorem setOffers_settings (s x) : (State.setOffers s x).settings = s.settings := rfl
@[simp] theorem setOffers_position (s x) : (State.setOffers s x).position = s.position := rfl
@[simp] theorem setOffers_attn (s x) : (State.setOffers s x).attn = s.attn := rfl
@[simp] theorem setOffers_mem (s x) : (State.setOffers s x).mem = s.mem := rfl
@[simp] theorem setOffers_book (s x) : (State.setOffers s x).book = s.book := rfl
@[simp] theorem setOffers_pending (s x) : (State.setOffers s x).pending = s.pending := rfl
@[simp] theorem setPool_phase (s x) : (State.setPool s x).phase = s.phase := rfl
@[simp] theorem setPool_pins (s x) : (State.setPool s x).pins = s.pins := rfl
@[simp] theorem setPool_clock (s x) : (State.setPool s x).clock = s.clock := rfl
@[simp] theorem setPool_secs (s x) : (State.setPool s x).secs = s.secs := rfl
@[simp] theorem setPool_meter (s x) : (State.setPool s x).meter = s.meter := rfl
@[simp] theorem setPool_trip (s x) : (State.setPool s x).trip = s.trip := rfl
@[simp] theorem setPool_rx (s x) : (State.setPool s x).rx = s.rx := rfl
@[simp] theorem setPool_link (s x) : (State.setPool s x).link = s.link := rfl
@[simp] theorem setPool_uplink (s x) : (State.setPool s x).uplink = s.uplink := rfl
@[simp] theorem setPool_sup (s x) : (State.setPool s x).sup = s.sup := rfl
@[simp] theorem setPool_offers (s x) : (State.setPool s x).offers = s.offers := rfl
@[simp] theorem setPool_pool (s x) : (State.setPool s x).pool = x := rfl
@[simp] theorem setPool_emerg (s x) : (State.setPool s x).emerg = s.emerg := rfl
@[simp] theorem setPool_path (s x) : (State.setPool s x).path = s.path := rfl
@[simp] theorem setPool_agent (s x) : (State.setPool s x).agent = s.agent := rfl
@[simp] theorem setPool_reader (s x) : (State.setPool s x).reader = s.reader := rfl
@[simp] theorem setPool_evw (s x) : (State.setPool s x).evw = s.evw := rfl
@[simp] theorem setPool_settings (s x) : (State.setPool s x).settings = s.settings := rfl
@[simp] theorem setPool_position (s x) : (State.setPool s x).position = s.position := rfl
@[simp] theorem setPool_attn (s x) : (State.setPool s x).attn = s.attn := rfl
@[simp] theorem setPool_mem (s x) : (State.setPool s x).mem = s.mem := rfl
@[simp] theorem setPool_book (s x) : (State.setPool s x).book = s.book := rfl
@[simp] theorem setPool_pending (s x) : (State.setPool s x).pending = s.pending := rfl
@[simp] theorem setEmerg_phase (s x) : (State.setEmerg s x).phase = s.phase := rfl
@[simp] theorem setEmerg_pins (s x) : (State.setEmerg s x).pins = s.pins := rfl
@[simp] theorem setEmerg_clock (s x) : (State.setEmerg s x).clock = s.clock := rfl
@[simp] theorem setEmerg_secs (s x) : (State.setEmerg s x).secs = s.secs := rfl
@[simp] theorem setEmerg_meter (s x) : (State.setEmerg s x).meter = s.meter := rfl
@[simp] theorem setEmerg_trip (s x) : (State.setEmerg s x).trip = s.trip := rfl
@[simp] theorem setEmerg_rx (s x) : (State.setEmerg s x).rx = s.rx := rfl
@[simp] theorem setEmerg_link (s x) : (State.setEmerg s x).link = s.link := rfl
@[simp] theorem setEmerg_uplink (s x) : (State.setEmerg s x).uplink = s.uplink := rfl
@[simp] theorem setEmerg_sup (s x) : (State.setEmerg s x).sup = s.sup := rfl
@[simp] theorem setEmerg_offers (s x) : (State.setEmerg s x).offers = s.offers := rfl
@[simp] theorem setEmerg_pool (s x) : (State.setEmerg s x).pool = s.pool := rfl
@[simp] theorem setEmerg_emerg (s x) : (State.setEmerg s x).emerg = x := rfl
@[simp] theorem setEmerg_path (s x) : (State.setEmerg s x).path = s.path := rfl
@[simp] theorem setEmerg_agent (s x) : (State.setEmerg s x).agent = s.agent := rfl
@[simp] theorem setEmerg_reader (s x) : (State.setEmerg s x).reader = s.reader := rfl
@[simp] theorem setEmerg_evw (s x) : (State.setEmerg s x).evw = s.evw := rfl
@[simp] theorem setEmerg_settings (s x) : (State.setEmerg s x).settings = s.settings := rfl
@[simp] theorem setEmerg_position (s x) : (State.setEmerg s x).position = s.position := rfl
@[simp] theorem setEmerg_attn (s x) : (State.setEmerg s x).attn = s.attn := rfl
@[simp] theorem setEmerg_mem (s x) : (State.setEmerg s x).mem = s.mem := rfl
@[simp] theorem setEmerg_book (s x) : (State.setEmerg s x).book = s.book := rfl
@[simp] theorem setEmerg_pending (s x) : (State.setEmerg s x).pending = s.pending := rfl
@[simp] theorem setPath_phase (s x) : (State.setPath s x).phase = s.phase := rfl
@[simp] theorem setPath_pins (s x) : (State.setPath s x).pins = s.pins := rfl
@[simp] theorem setPath_clock (s x) : (State.setPath s x).clock = s.clock := rfl
@[simp] theorem setPath_secs (s x) : (State.setPath s x).secs = s.secs := rfl
@[simp] theorem setPath_meter (s x) : (State.setPath s x).meter = s.meter := rfl
@[simp] theorem setPath_trip (s x) : (State.setPath s x).trip = s.trip := rfl
@[simp] theorem setPath_rx (s x) : (State.setPath s x).rx = s.rx := rfl
@[simp] theorem setPath_link (s x) : (State.setPath s x).link = s.link := rfl
@[simp] theorem setPath_uplink (s x) : (State.setPath s x).uplink = s.uplink := rfl
@[simp] theorem setPath_sup (s x) : (State.setPath s x).sup = s.sup := rfl
@[simp] theorem setPath_offers (s x) : (State.setPath s x).offers = s.offers := rfl
@[simp] theorem setPath_pool (s x) : (State.setPath s x).pool = s.pool := rfl
@[simp] theorem setPath_emerg (s x) : (State.setPath s x).emerg = s.emerg := rfl
@[simp] theorem setPath_path (s x) : (State.setPath s x).path = x := rfl
@[simp] theorem setPath_agent (s x) : (State.setPath s x).agent = s.agent := rfl
@[simp] theorem setPath_reader (s x) : (State.setPath s x).reader = s.reader := rfl
@[simp] theorem setPath_evw (s x) : (State.setPath s x).evw = s.evw := rfl
@[simp] theorem setPath_settings (s x) : (State.setPath s x).settings = s.settings := rfl
@[simp] theorem setPath_position (s x) : (State.setPath s x).position = s.position := rfl
@[simp] theorem setPath_attn (s x) : (State.setPath s x).attn = s.attn := rfl
@[simp] theorem setPath_mem (s x) : (State.setPath s x).mem = s.mem := rfl
@[simp] theorem setPath_book (s x) : (State.setPath s x).book = s.book := rfl
@[simp] theorem setPath_pending (s x) : (State.setPath s x).pending = s.pending := rfl
@[simp] theorem setAgent_phase (s x) : (State.setAgent s x).phase = s.phase := rfl
@[simp] theorem setAgent_pins (s x) : (State.setAgent s x).pins = s.pins := rfl
@[simp] theorem setAgent_clock (s x) : (State.setAgent s x).clock = s.clock := rfl
@[simp] theorem setAgent_secs (s x) : (State.setAgent s x).secs = s.secs := rfl
@[simp] theorem setAgent_meter (s x) : (State.setAgent s x).meter = s.meter := rfl
@[simp] theorem setAgent_trip (s x) : (State.setAgent s x).trip = s.trip := rfl
@[simp] theorem setAgent_rx (s x) : (State.setAgent s x).rx = s.rx := rfl
@[simp] theorem setAgent_link (s x) : (State.setAgent s x).link = s.link := rfl
@[simp] theorem setAgent_uplink (s x) : (State.setAgent s x).uplink = s.uplink := rfl
@[simp] theorem setAgent_sup (s x) : (State.setAgent s x).sup = s.sup := rfl
@[simp] theorem setAgent_offers (s x) : (State.setAgent s x).offers = s.offers := rfl
@[simp] theorem setAgent_pool (s x) : (State.setAgent s x).pool = s.pool := rfl
@[simp] theorem setAgent_emerg (s x) : (State.setAgent s x).emerg = s.emerg := rfl
@[simp] theorem setAgent_path (s x) : (State.setAgent s x).path = s.path := rfl
@[simp] theorem setAgent_agent (s x) : (State.setAgent s x).agent = x := rfl
@[simp] theorem setAgent_reader (s x) : (State.setAgent s x).reader = s.reader := rfl
@[simp] theorem setAgent_evw (s x) : (State.setAgent s x).evw = s.evw := rfl
@[simp] theorem setAgent_settings (s x) : (State.setAgent s x).settings = s.settings := rfl
@[simp] theorem setAgent_position (s x) : (State.setAgent s x).position = s.position := rfl
@[simp] theorem setAgent_attn (s x) : (State.setAgent s x).attn = s.attn := rfl
@[simp] theorem setAgent_mem (s x) : (State.setAgent s x).mem = s.mem := rfl
@[simp] theorem setAgent_book (s x) : (State.setAgent s x).book = s.book := rfl
@[simp] theorem setAgent_pending (s x) : (State.setAgent s x).pending = s.pending := rfl
@[simp] theorem setReader_phase (s x) : (State.setReader s x).phase = s.phase := rfl
@[simp] theorem setReader_pins (s x) : (State.setReader s x).pins = s.pins := rfl
@[simp] theorem setReader_clock (s x) : (State.setReader s x).clock = s.clock := rfl
@[simp] theorem setReader_secs (s x) : (State.setReader s x).secs = s.secs := rfl
@[simp] theorem setReader_meter (s x) : (State.setReader s x).meter = s.meter := rfl
@[simp] theorem setReader_trip (s x) : (State.setReader s x).trip = s.trip := rfl
@[simp] theorem setReader_rx (s x) : (State.setReader s x).rx = s.rx := rfl
@[simp] theorem setReader_link (s x) : (State.setReader s x).link = s.link := rfl
@[simp] theorem setReader_uplink (s x) : (State.setReader s x).uplink = s.uplink := rfl
@[simp] theorem setReader_sup (s x) : (State.setReader s x).sup = s.sup := rfl
@[simp] theorem setReader_offers (s x) : (State.setReader s x).offers = s.offers := rfl
@[simp] theorem setReader_pool (s x) : (State.setReader s x).pool = s.pool := rfl
@[simp] theorem setReader_emerg (s x) : (State.setReader s x).emerg = s.emerg := rfl
@[simp] theorem setReader_path (s x) : (State.setReader s x).path = s.path := rfl
@[simp] theorem setReader_agent (s x) : (State.setReader s x).agent = s.agent := rfl
@[simp] theorem setReader_reader (s x) : (State.setReader s x).reader = x := rfl
@[simp] theorem setReader_evw (s x) : (State.setReader s x).evw = s.evw := rfl
@[simp] theorem setReader_settings (s x) : (State.setReader s x).settings = s.settings := rfl
@[simp] theorem setReader_position (s x) : (State.setReader s x).position = s.position := rfl
@[simp] theorem setReader_attn (s x) : (State.setReader s x).attn = s.attn := rfl
@[simp] theorem setReader_mem (s x) : (State.setReader s x).mem = s.mem := rfl
@[simp] theorem setReader_book (s x) : (State.setReader s x).book = s.book := rfl
@[simp] theorem setReader_pending (s x) : (State.setReader s x).pending = s.pending := rfl
@[simp] theorem setEvw_phase (s x) : (State.setEvw s x).phase = s.phase := rfl
@[simp] theorem setEvw_pins (s x) : (State.setEvw s x).pins = s.pins := rfl
@[simp] theorem setEvw_clock (s x) : (State.setEvw s x).clock = s.clock := rfl
@[simp] theorem setEvw_secs (s x) : (State.setEvw s x).secs = s.secs := rfl
@[simp] theorem setEvw_meter (s x) : (State.setEvw s x).meter = s.meter := rfl
@[simp] theorem setEvw_trip (s x) : (State.setEvw s x).trip = s.trip := rfl
@[simp] theorem setEvw_rx (s x) : (State.setEvw s x).rx = s.rx := rfl
@[simp] theorem setEvw_link (s x) : (State.setEvw s x).link = s.link := rfl
@[simp] theorem setEvw_uplink (s x) : (State.setEvw s x).uplink = s.uplink := rfl
@[simp] theorem setEvw_sup (s x) : (State.setEvw s x).sup = s.sup := rfl
@[simp] theorem setEvw_offers (s x) : (State.setEvw s x).offers = s.offers := rfl
@[simp] theorem setEvw_pool (s x) : (State.setEvw s x).pool = s.pool := rfl
@[simp] theorem setEvw_emerg (s x) : (State.setEvw s x).emerg = s.emerg := rfl
@[simp] theorem setEvw_path (s x) : (State.setEvw s x).path = s.path := rfl
@[simp] theorem setEvw_agent (s x) : (State.setEvw s x).agent = s.agent := rfl
@[simp] theorem setEvw_reader (s x) : (State.setEvw s x).reader = s.reader := rfl
@[simp] theorem setEvw_evw (s x) : (State.setEvw s x).evw = x := rfl
@[simp] theorem setEvw_settings (s x) : (State.setEvw s x).settings = s.settings := rfl
@[simp] theorem setEvw_position (s x) : (State.setEvw s x).position = s.position := rfl
@[simp] theorem setEvw_attn (s x) : (State.setEvw s x).attn = s.attn := rfl
@[simp] theorem setEvw_mem (s x) : (State.setEvw s x).mem = s.mem := rfl
@[simp] theorem setEvw_book (s x) : (State.setEvw s x).book = s.book := rfl
@[simp] theorem setEvw_pending (s x) : (State.setEvw s x).pending = s.pending := rfl
@[simp] theorem setSettings_phase (s x) : (State.setSettings s x).phase = s.phase := rfl
@[simp] theorem setSettings_pins (s x) : (State.setSettings s x).pins = s.pins := rfl
@[simp] theorem setSettings_clock (s x) : (State.setSettings s x).clock = s.clock := rfl
@[simp] theorem setSettings_secs (s x) : (State.setSettings s x).secs = s.secs := rfl
@[simp] theorem setSettings_meter (s x) : (State.setSettings s x).meter = s.meter := rfl
@[simp] theorem setSettings_trip (s x) : (State.setSettings s x).trip = s.trip := rfl
@[simp] theorem setSettings_rx (s x) : (State.setSettings s x).rx = s.rx := rfl
@[simp] theorem setSettings_link (s x) : (State.setSettings s x).link = s.link := rfl
@[simp] theorem setSettings_uplink (s x) : (State.setSettings s x).uplink = s.uplink := rfl
@[simp] theorem setSettings_sup (s x) : (State.setSettings s x).sup = s.sup := rfl
@[simp] theorem setSettings_offers (s x) : (State.setSettings s x).offers = s.offers := rfl
@[simp] theorem setSettings_pool (s x) : (State.setSettings s x).pool = s.pool := rfl
@[simp] theorem setSettings_emerg (s x) : (State.setSettings s x).emerg = s.emerg := rfl
@[simp] theorem setSettings_path (s x) : (State.setSettings s x).path = s.path := rfl
@[simp] theorem setSettings_agent (s x) : (State.setSettings s x).agent = s.agent := rfl
@[simp] theorem setSettings_reader (s x) : (State.setSettings s x).reader = s.reader := rfl
@[simp] theorem setSettings_evw (s x) : (State.setSettings s x).evw = s.evw := rfl
@[simp] theorem setSettings_settings (s x) : (State.setSettings s x).settings = x := rfl
@[simp] theorem setSettings_position (s x) : (State.setSettings s x).position = s.position := rfl
@[simp] theorem setSettings_attn (s x) : (State.setSettings s x).attn = s.attn := rfl
@[simp] theorem setSettings_mem (s x) : (State.setSettings s x).mem = s.mem := rfl
@[simp] theorem setSettings_book (s x) : (State.setSettings s x).book = s.book := rfl
@[simp] theorem setSettings_pending (s x) : (State.setSettings s x).pending = s.pending := rfl
@[simp] theorem setPosition_phase (s x) : (State.setPosition s x).phase = s.phase := rfl
@[simp] theorem setPosition_pins (s x) : (State.setPosition s x).pins = s.pins := rfl
@[simp] theorem setPosition_clock (s x) : (State.setPosition s x).clock = s.clock := rfl
@[simp] theorem setPosition_secs (s x) : (State.setPosition s x).secs = s.secs := rfl
@[simp] theorem setPosition_meter (s x) : (State.setPosition s x).meter = s.meter := rfl
@[simp] theorem setPosition_trip (s x) : (State.setPosition s x).trip = s.trip := rfl
@[simp] theorem setPosition_rx (s x) : (State.setPosition s x).rx = s.rx := rfl
@[simp] theorem setPosition_link (s x) : (State.setPosition s x).link = s.link := rfl
@[simp] theorem setPosition_uplink (s x) : (State.setPosition s x).uplink = s.uplink := rfl
@[simp] theorem setPosition_sup (s x) : (State.setPosition s x).sup = s.sup := rfl
@[simp] theorem setPosition_offers (s x) : (State.setPosition s x).offers = s.offers := rfl
@[simp] theorem setPosition_pool (s x) : (State.setPosition s x).pool = s.pool := rfl
@[simp] theorem setPosition_emerg (s x) : (State.setPosition s x).emerg = s.emerg := rfl
@[simp] theorem setPosition_path (s x) : (State.setPosition s x).path = s.path := rfl
@[simp] theorem setPosition_agent (s x) : (State.setPosition s x).agent = s.agent := rfl
@[simp] theorem setPosition_reader (s x) : (State.setPosition s x).reader = s.reader := rfl
@[simp] theorem setPosition_evw (s x) : (State.setPosition s x).evw = s.evw := rfl
@[simp] theorem setPosition_settings (s x) : (State.setPosition s x).settings = s.settings := rfl
@[simp] theorem setPosition_position (s x) : (State.setPosition s x).position = x := rfl
@[simp] theorem setPosition_attn (s x) : (State.setPosition s x).attn = s.attn := rfl
@[simp] theorem setPosition_mem (s x) : (State.setPosition s x).mem = s.mem := rfl
@[simp] theorem setPosition_book (s x) : (State.setPosition s x).book = s.book := rfl
@[simp] theorem setPosition_pending (s x) : (State.setPosition s x).pending = s.pending := rfl
@[simp] theorem setAttn_phase (s x) : (State.setAttn s x).phase = s.phase := rfl
@[simp] theorem setAttn_pins (s x) : (State.setAttn s x).pins = s.pins := rfl
@[simp] theorem setAttn_clock (s x) : (State.setAttn s x).clock = s.clock := rfl
@[simp] theorem setAttn_secs (s x) : (State.setAttn s x).secs = s.secs := rfl
@[simp] theorem setAttn_meter (s x) : (State.setAttn s x).meter = s.meter := rfl
@[simp] theorem setAttn_trip (s x) : (State.setAttn s x).trip = s.trip := rfl
@[simp] theorem setAttn_rx (s x) : (State.setAttn s x).rx = s.rx := rfl
@[simp] theorem setAttn_link (s x) : (State.setAttn s x).link = s.link := rfl
@[simp] theorem setAttn_uplink (s x) : (State.setAttn s x).uplink = s.uplink := rfl
@[simp] theorem setAttn_sup (s x) : (State.setAttn s x).sup = s.sup := rfl
@[simp] theorem setAttn_offers (s x) : (State.setAttn s x).offers = s.offers := rfl
@[simp] theorem setAttn_pool (s x) : (State.setAttn s x).pool = s.pool := rfl
@[simp] theorem setAttn_emerg (s x) : (State.setAttn s x).emerg = s.emerg := rfl
@[simp] theorem setAttn_path (s x) : (State.setAttn s x).path = s.path := rfl
@[simp] theorem setAttn_agent (s x) : (State.setAttn s x).agent = s.agent := rfl
@[simp] theorem setAttn_reader (s x) : (State.setAttn s x).reader = s.reader := rfl
@[simp] theorem setAttn_evw (s x) : (State.setAttn s x).evw = s.evw := rfl
@[simp] theorem setAttn_settings (s x) : (State.setAttn s x).settings = s.settings := rfl
@[simp] theorem setAttn_position (s x) : (State.setAttn s x).position = s.position := rfl
@[simp] theorem setAttn_attn (s x) : (State.setAttn s x).attn = x := rfl
@[simp] theorem setAttn_mem (s x) : (State.setAttn s x).mem = s.mem := rfl
@[simp] theorem setAttn_book (s x) : (State.setAttn s x).book = s.book := rfl
@[simp] theorem setAttn_pending (s x) : (State.setAttn s x).pending = s.pending := rfl
@[simp] theorem setMem_phase (s x) : (State.setMem s x).phase = s.phase := rfl
@[simp] theorem setMem_pins (s x) : (State.setMem s x).pins = s.pins := rfl
@[simp] theorem setMem_clock (s x) : (State.setMem s x).clock = s.clock := rfl
@[simp] theorem setMem_secs (s x) : (State.setMem s x).secs = s.secs := rfl
@[simp] theorem setMem_meter (s x) : (State.setMem s x).meter = s.meter := rfl
@[simp] theorem setMem_trip (s x) : (State.setMem s x).trip = s.trip := rfl
@[simp] theorem setMem_rx (s x) : (State.setMem s x).rx = s.rx := rfl
@[simp] theorem setMem_link (s x) : (State.setMem s x).link = s.link := rfl
@[simp] theorem setMem_uplink (s x) : (State.setMem s x).uplink = s.uplink := rfl
@[simp] theorem setMem_sup (s x) : (State.setMem s x).sup = s.sup := rfl
@[simp] theorem setMem_offers (s x) : (State.setMem s x).offers = s.offers := rfl
@[simp] theorem setMem_pool (s x) : (State.setMem s x).pool = s.pool := rfl
@[simp] theorem setMem_emerg (s x) : (State.setMem s x).emerg = s.emerg := rfl
@[simp] theorem setMem_path (s x) : (State.setMem s x).path = s.path := rfl
@[simp] theorem setMem_agent (s x) : (State.setMem s x).agent = s.agent := rfl
@[simp] theorem setMem_reader (s x) : (State.setMem s x).reader = s.reader := rfl
@[simp] theorem setMem_evw (s x) : (State.setMem s x).evw = s.evw := rfl
@[simp] theorem setMem_settings (s x) : (State.setMem s x).settings = s.settings := rfl
@[simp] theorem setMem_position (s x) : (State.setMem s x).position = s.position := rfl
@[simp] theorem setMem_attn (s x) : (State.setMem s x).attn = s.attn := rfl
@[simp] theorem setMem_mem (s x) : (State.setMem s x).mem = x := rfl
@[simp] theorem setMem_book (s x) : (State.setMem s x).book = s.book := rfl
@[simp] theorem setMem_pending (s x) : (State.setMem s x).pending = s.pending := rfl
@[simp] theorem setBook_phase (s x) : (State.setBook s x).phase = s.phase := rfl
@[simp] theorem setBook_pins (s x) : (State.setBook s x).pins = s.pins := rfl
@[simp] theorem setBook_clock (s x) : (State.setBook s x).clock = s.clock := rfl
@[simp] theorem setBook_secs (s x) : (State.setBook s x).secs = s.secs := rfl
@[simp] theorem setBook_meter (s x) : (State.setBook s x).meter = s.meter := rfl
@[simp] theorem setBook_trip (s x) : (State.setBook s x).trip = s.trip := rfl
@[simp] theorem setBook_rx (s x) : (State.setBook s x).rx = s.rx := rfl
@[simp] theorem setBook_link (s x) : (State.setBook s x).link = s.link := rfl
@[simp] theorem setBook_uplink (s x) : (State.setBook s x).uplink = s.uplink := rfl
@[simp] theorem setBook_sup (s x) : (State.setBook s x).sup = s.sup := rfl
@[simp] theorem setBook_offers (s x) : (State.setBook s x).offers = s.offers := rfl
@[simp] theorem setBook_pool (s x) : (State.setBook s x).pool = s.pool := rfl
@[simp] theorem setBook_emerg (s x) : (State.setBook s x).emerg = s.emerg := rfl
@[simp] theorem setBook_path (s x) : (State.setBook s x).path = s.path := rfl
@[simp] theorem setBook_agent (s x) : (State.setBook s x).agent = s.agent := rfl
@[simp] theorem setBook_reader (s x) : (State.setBook s x).reader = s.reader := rfl
@[simp] theorem setBook_evw (s x) : (State.setBook s x).evw = s.evw := rfl
@[simp] theorem setBook_settings (s x) : (State.setBook s x).settings = s.settings := rfl
@[simp] theorem setBook_position (s x) : (State.setBook s x).position = s.position := rfl
@[simp] theorem setBook_attn (s x) : (State.setBook s x).attn = s.attn := rfl
@[simp] theorem setBook_mem (s x) : (State.setBook s x).mem = s.mem := rfl
@[simp] theorem setBook_book (s x) : (State.setBook s x).book = x := rfl
@[simp] theorem setBook_pending (s x) : (State.setBook s x).pending = s.pending := rfl
@[simp] theorem setPending_phase (s x) : (State.setPending s x).phase = s.phase := rfl
@[simp] theorem setPending_pins (s x) : (State.setPending s x).pins = s.pins := rfl
@[simp] theorem setPending_clock (s x) : (State.setPending s x).clock = s.clock := rfl
@[simp] theorem setPending_secs (s x) : (State.setPending s x).secs = s.secs := rfl
@[simp] theorem setPending_meter (s x) : (State.setPending s x).meter = s.meter := rfl
@[simp] theorem setPending_trip (s x) : (State.setPending s x).trip = s.trip := rfl
@[simp] theorem setPending_rx (s x) : (State.setPending s x).rx = s.rx := rfl
@[simp] theorem setPending_link (s x) : (State.setPending s x).link = s.link := rfl
@[simp] theorem setPending_uplink (s x) : (State.setPending s x).uplink = s.uplink := rfl
@[simp] theorem setPending_sup (s x) : (State.setPending s x).sup = s.sup := rfl
@[simp] theorem setPending_offers (s x) : (State.setPending s x).offers = s.offers := rfl
@[simp] theorem setPending_pool (s x) : (State.setPending s x).pool = s.pool := rfl
@[simp] theorem setPending_emerg (s x) : (State.setPending s x).emerg = s.emerg := rfl
@[simp] theorem setPending_path (s x) : (State.setPending s x).path = s.path := rfl
@[simp] theorem setPending_agent (s x) : (State.setPending s x).agent = s.agent := rfl
@[simp] theorem setPending_reader (s x) : (State.setPending s x).reader = s.reader := rfl
@[simp] theorem setPending_evw (s x) : (State.setPending s x).evw = s.evw := rfl
@[simp] theorem setPending_settings (s x) : (State.setPending s x).settings = s.settings := rfl
@[simp] theorem setPending_position (s x) : (State.setPending s x).position = s.position := rfl
@[simp] theorem setPending_attn (s x) : (State.setPending s x).attn = s.attn := rfl
@[simp] theorem setPending_mem (s x) : (State.setPending s x).mem = s.mem := rfl
@[simp] theorem setPending_book (s x) : (State.setPending s x).book = s.book := rfl
@[simp] theorem setPending_pending (s x) : (State.setPending s x).pending = x := rfl

end Sys2Proof.Machine.State
end

