-- ==== Sys2Proof/Laws/Memory.lean ====
section
/-! SUPPORT. Memory: what a byte reads after a write, and the canonical form kept by every write. -/

namespace Sys2Proof.Machine

/-- Every address of a memory is above x. -/
def Memory.above (x : Nat) (m : List Host.Cell) : Prop := ∀ c ∈ m, x < c.1

theorem Memory.wf_cons (a : Nat) (b : Byte) (m : List Host.Cell) :
    Memory.wf ((a, b) :: m) = true ↔
      b ≠ Memory.unlisted ∧ Memory.above a m ∧ Memory.wf m = true := by
  simp only [Memory.wf, Memory.above, Bool.and_eq_true, List.all_eq_true, decide_eq_true_eq,
    bne_iff_ne]
  exact and_assoc

theorem Memory.above_writeByte {m : List Host.Cell} {x a : Nat} {v : Byte} (h : Memory.above x m)
    (ha : x < a) : Memory.above x (Memory.writeByte m a v) := by
  induction m with
  | nil =>
    intro c hc
    simp only [Memory.writeByte, Memory.cell] at hc
    split at hc <;> simp_all
  | cons p m ih =>
    obtain ⟨a', b'⟩ := p
    have hm : Memory.above x m := fun c hc => h c (List.mem_cons_of_mem _ hc)
    have hp : x < a' := h (a', b') (List.mem_cons_self ..)
    intro c hc
    simp only [Memory.writeByte, Memory.cell] at hc
    split at hc
    · split at hc
      · exact h c (by simpa using hc)
      · simp only [List.cons_append, List.nil_append, List.mem_cons] at hc
        rcases hc with rfl | rfl | hc
        · exact ha
        · exact hp
        · exact hm c hc
    · split at hc
      · split at hc
        · exact hm c (by simpa using hc)
        · simp only [List.cons_append, List.nil_append, List.mem_cons] at hc
          rcases hc with rfl | hc
          · exact ha
          · exact hm c hc
      · rcases List.mem_cons.mp hc with rfl | hc
        · exact hp
        · exact ih hm c hc

theorem Memory.above_trans {m : List Host.Cell} {x y : Nat} (h : Memory.above y m) (hx : x < y) :
    Memory.above x m := fun c hc => Nat.lt_trans hx (h c hc)

theorem Memory.wf_cell_append {m : List Host.Cell} {x : Nat} {v : Byte} (h : Memory.above x m)
    (hm : Memory.wf m = true) : Memory.wf (Memory.cell x v ++ m) = true := by
  unfold Memory.cell
  split
  · simpa using hm
  · rename_i hv
    exact (Memory.wf_cons x v m).mpr ⟨hv, h, hm⟩

/-- A byte write keeps the canonical form. -/
theorem Memory.wf_writeByte {m : List Host.Cell} (x : Nat) (v : Byte) (h : Memory.wf m = true) :
    Memory.wf (Memory.writeByte m x v) = true := by
  induction m with
  | nil =>
    have := Memory.wf_cell_append (m := []) (x := x) (v := v) (fun _ hc => by cases hc) rfl
    simpa [Memory.writeByte] using this
  | cons p m ih =>
    obtain ⟨a, b⟩ := p
    obtain ⟨hb, ha, hm⟩ := (Memory.wf_cons a b m).mp h
    simp only [Memory.writeByte]
    split
    · rename_i hx
      refine Memory.wf_cell_append ?_ h
      intro c hc
      rcases List.mem_cons.mp hc with rfl | hc
      · exact hx
      · exact Nat.lt_trans hx (ha c hc)
    · split
      · rename_i _ hx
        subst hx
        exact Memory.wf_cell_append ha hm
      · rename_i h1 h2
        refine (Memory.wf_cons a b _).mpr ⟨hb, Memory.above_writeByte ha ?_, ih hm⟩
        omega

theorem Memory.readByte_above {m : List Host.Cell} {x : Nat} (h : Memory.above x m) :
    Memory.readByte m x = Memory.unlisted := by
  induction m with
  | nil => rfl
  | cons p m ih =>
    obtain ⟨a, b⟩ := p
    have : x < a := h (a, b) (List.mem_cons_self ..)
    simp only [Memory.readByte]
    rw [if_neg (by omega)]
    exact ih (fun c hc => h c (List.mem_cons_of_mem _ hc))

theorem Memory.readByte_cell_append (m : List Host.Cell) (x y : Nat) (v : Byte)
    (h : Memory.above x m) :
    Memory.readByte (Memory.cell x v ++ m) y = if y = x then v else Memory.readByte m y := by
  unfold Memory.cell
  split
  · rename_i hv
    split
    · rename_i hy
      subst hy
      simpa [hv] using Memory.readByte_above h
    · rfl
  · simp only [List.cons_append, List.nil_append, Memory.readByte]
    by_cases hy : y = x
    · simp [hy]
    · rw [if_neg hy, if_neg (fun h => hy h.symm)]

/-- What a byte reads after a byte write. -/
theorem Memory.readByte_writeByte {m : List Host.Cell} (x y : Nat) (v : Byte)
    (h : Memory.wf m = true) :
    Memory.readByte (Memory.writeByte m x v) y = if y = x then v else Memory.readByte m y := by
  induction m with
  | nil =>
    have := Memory.readByte_cell_append [] x y v (fun _ hc => by cases hc)
    simpa [Memory.writeByte] using this
  | cons p m ih =>
    obtain ⟨a, b⟩ := p
    obtain ⟨_, ha, hm⟩ := (Memory.wf_cons a b m).mp h
    simp only [Memory.writeByte]
    split
    · rename_i hx
      refine Memory.readByte_cell_append _ x y v ?_
      intro c hc
      rcases List.mem_cons.mp hc with rfl | hc
      · exact hx
      · exact Nat.lt_trans hx (ha c hc)
    · split
      · rename_i _ hx
        subst hx
        rw [Memory.readByte_cell_append _ x y v ha]
        simp only [Memory.readByte]
        by_cases hy : y = x
        · simp [hy]
        · rw [if_neg hy, if_neg hy, if_neg (fun h => hy h.symm)]
      · rename_i h1 h2
        simp only [Memory.readByte]
        by_cases hy : a = y
        · subst hy
          simp [Ne.symm h2]
        · rw [if_neg hy, if_neg hy]
          exact ih hm

theorem Memory.wf_writeLane {m : List Host.Cell} (a : Nat) (l : BitVec 4) (w : Word) (i : Nat)
    (h : Memory.wf m = true) : Memory.wf (Memory.writeLane m a l w i) = true := by
  unfold Memory.writeLane
  split
  · exact Memory.wf_writeByte _ _ h
  · exact h

/-- A word write keeps the canonical form. -/
theorem Memory.wf_writeLanes {m : List Host.Cell} (a : Nat) (l : BitVec 4) (w : Word)
    (h : Memory.wf m = true) : Memory.wf (Memory.writeLanes m a l w) = true :=
  Memory.wf_writeLane _ _ _ _ (Memory.wf_writeLane _ _ _ _ (Memory.wf_writeLane _ _ _ _
    (Memory.wf_writeLane _ _ _ _ h)))

theorem Memory.readByte_writeLane {m : List Host.Cell} (a : Nat) (l : BitVec 4) (w : Word)
    (i y : Nat) (h : Memory.wf m = true) :
    Memory.readByte (Memory.writeLane m a l w i) y =
      if y = a + i ∧ l.getLsbD i = true then lane w i else Memory.readByte m y := by
  unfold Memory.writeLane
  split
  · rename_i hl
    rw [Memory.readByte_writeByte _ _ _ h]
    simp [hl]
  · rename_i hl
    simp [hl]

/-- Outside the four bytes of a word write every byte reads as before. -/
theorem Memory.readByte_writeLanes_of_outside {m : List Host.Cell} (a : Nat) (l : BitVec 4)
    (w : Word) (y : Nat) (h : Memory.wf m = true) (hy : y < a ∨ a + 4 ≤ y) :
    Memory.readByte (Memory.writeLanes m a l w) y = Memory.readByte m y := by
  have h0 := Memory.wf_writeLane a l w 0 h
  have h1 := Memory.wf_writeLane a l w 1 h0
  have h2 := Memory.wf_writeLane a l w 2 h1
  unfold Memory.writeLanes
  rw [Memory.readByte_writeLane _ _ _ _ _ h2, Memory.readByte_writeLane _ _ _ _ _ h1,
    Memory.readByte_writeLane _ _ _ _ _ h0, Memory.readByte_writeLane _ _ _ _ _ h]
  rw [if_neg (by omega), if_neg (by omega), if_neg (by omega), if_neg (by omega)]

/-- An enabled lane of a word write reads as written; a lane not enabled reads as before. -/
theorem Memory.readByte_writeLanes_lane {m : List Host.Cell} (a : Nat) (l : BitVec 4) (w : Word)
    (i : Nat) (h : Memory.wf m = true) (hi : i < 4) :
    Memory.readByte (Memory.writeLanes m a l w) (a + i) =
      if l.getLsbD i = true then lane w i else Memory.readByte m (a + i) := by
  have h0 := Memory.wf_writeLane a l w 0 h
  have h1 := Memory.wf_writeLane a l w 1 h0
  have h2 := Memory.wf_writeLane a l w 2 h1
  unfold Memory.writeLanes
  rw [Memory.readByte_writeLane _ _ _ _ _ h2, Memory.readByte_writeLane _ _ _ _ _ h1,
    Memory.readByte_writeLane _ _ _ _ _ h0, Memory.readByte_writeLane _ _ _ _ _ h]
  have : i = 0 ∨ i = 1 ∨ i = 2 ∨ i = 3 := by omega
  rcases this with rfl | rfl | rfl | rfl <;> simp

end Sys2Proof.Machine
end

