-- ==== Sys2Proof/Laws/Quiet.lean ====
section
/-! SUPPORT. What the shared operations of the radio side, the offer table, the message pool and the event writer leave alone, and the laws they keep: one lemma per operation. -/

namespace Sys2Proof.Machine

/-- t follows from s by changes of the radio side, the offers, the texts, the reports and the event queue alone, and the laws on events and on the uplink queue carry over. -/
structure Quiet (s t : State) : Prop where
  phase : t.phase = s.phase
  clock : t.clock = s.clock
  secs : t.secs = s.secs
  meter : t.meter = s.meter
  openTrip : t.trip.openTrip = s.trip.openTrip
  next : t.trip.next = s.trip.next
  shift : t.trip.shift = s.trip.shift
  logWrite : t.trip.logWrite = s.trip.logWrite
  logIndex : t.trip.logIndex = s.trip.logIndex
  accepted : t.settings.accepted = s.settings.accepted
  result : t.settings.result = s.settings.result
  path : t.path = s.path
  agent : t.agent = s.agent
  reader : t.reader = s.reader
  position : t.position = s.position
  mem : t.mem = s.mem
  pending : t.pending = s.pending
  box : t.emerg.box = s.emerg.box
  events : EventLaw s → EventLaw t
  queue : QueueLaw s → QueueLaw t

namespace Quiet

theorem refl (s : State) : Quiet s s :=
  ⟨rfl, rfl, rfl, rfl, rfl, rfl, rfl, rfl, rfl, rfl, rfl, rfl, rfl, rfl, rfl, rfl, rfl, rfl, id,
   id⟩

theorem trans {s t u : State} (h : Quiet s t) (k : Quiet t u) : Quiet s u :=
  ⟨k.phase.trans h.phase, k.clock.trans h.clock, k.secs.trans h.secs, k.meter.trans h.meter,
   k.openTrip.trans h.openTrip, k.next.trans h.next, k.shift.trans h.shift,
   k.logWrite.trans h.logWrite, k.logIndex.trans h.logIndex, k.accepted.trans h.accepted, k.result.trans h.result,
   k.path.trans h.path, k.agent.trans h.agent, k.reader.trans h.reader,
   k.position.trans h.position, k.mem.trans h.mem, k.pending.trans h.pending,
   k.box.trans h.box, fun e => k.events (h.events e), fun e => k.queue (h.queue e)⟩

theorem before {s t u : State} (k : Quiet t u) (h : Quiet s t) : Quiet s u := h.trans k

theorem ite {p : Prop} [Decidable p] {s t u : State} (h : p → Quiet s t) (k : ¬p → Quiet s u) :
    Quiet s (if p then t else u) := by
  by_cases c : p
  · rw [if_pos c]; exact h c
  · rw [if_neg c]; exact k c

theorem setLink (s : State) (x : Link) : Quiet s (s.setLink x) :=
  ⟨rfl, rfl, rfl, rfl, rfl, rfl, rfl, rfl, rfl, rfl, rfl, rfl, rfl, rfl, rfl, rfl, rfl, rfl, id,
   id⟩

theorem setRx (s : State) (x : Receiver) : Quiet s (s.setRx x) :=
  ⟨rfl, rfl, rfl, rfl, rfl, rfl, rfl, rfl, rfl, rfl, rfl, rfl, rfl, rfl, rfl, rfl, rfl, rfl, id,
   id⟩

theorem setSup (s : State) (x : Supervisor) : Quiet s (s.setSup x) :=
  ⟨rfl, rfl, rfl, rfl, rfl, rfl, rfl, rfl, rfl, rfl, rfl, rfl, rfl, rfl, rfl, rfl, rfl, rfl, id,
   id⟩

theorem setBook (s : State) (x : Book) : Quiet s (s.setBook x) :=
  ⟨rfl, rfl, rfl, rfl, rfl, rfl, rfl, rfl, rfl, rfl, rfl, rfl, rfl, rfl, rfl, rfl, rfl, rfl, id,
   id⟩

theorem setAttn (s : State) (x : Attention) : Quiet s (s.setAttn x) :=
  ⟨rfl, rfl, rfl, rfl, rfl, rfl, rfl, rfl, rfl, rfl, rfl, rfl, rfl, rfl, rfl, rfl, rfl, rfl, id,
   id⟩

theorem setPool (s : State) (x : Pool) : Quiet s (s.setPool x) :=
  ⟨rfl, rfl, rfl, rfl, rfl, rfl, rfl, rfl, rfl, rfl, rfl, rfl, rfl, rfl, rfl, rfl, rfl, rfl, id,
   id⟩

theorem setOffers (s : State) (x : OfferTable) : Quiet s (s.setOffers x) :=
  ⟨rfl, rfl, rfl, rfl, rfl, rfl, rfl, rfl, rfl, rfl, rfl, rfl, rfl, rfl, rfl, rfl, rfl, rfl, id,
   id⟩

theorem setPins (s : State) (x : Pins) : Quiet s (s.setPins x) :=
  ⟨rfl, rfl, rfl, rfl, rfl, rfl, rfl, rfl, rfl, rfl, rfl, rfl, rfl, rfl, rfl, rfl, rfl, rfl, id,
   id⟩

theorem setEmerg {s : State} {x : Emergency} (h : x.box = s.emerg.box) : Quiet s (s.setEmerg x) :=
  ⟨rfl, rfl, rfl, rfl, rfl, rfl, rfl, rfl, rfl, rfl, rfl, rfl, rfl, rfl, rfl, rfl, rfl, h, id, id⟩

theorem setTrip {s : State} {x : TripRecorder} (h : x.openTrip = s.trip.openTrip)
    (h2 : x.next = s.trip.next) (h3 : x.shift = s.trip.shift) (h4 : x.logWrite = s.trip.logWrite)
    (h5 : x.logIndex = s.trip.logIndex) : Quiet s (s.setTrip x) :=
  ⟨rfl, rfl, rfl, rfl, h, h2, h3, h4, h5, rfl, rfl, rfl, rfl, rfl, rfl, rfl, rfl, rfl, id, id⟩

theorem setSettings {s : State} {x : SettingsShadow} (h : x.accepted = s.settings.accepted)
    (h2 : x.result = s.settings.result) : Quiet s (s.setSettings x) :=
  ⟨rfl, rfl, rfl, rfl, rfl, rfl, rfl, rfl, rfl, h, h2, rfl, rfl, rfl, rfl, rfl, rfl, rfl, id, id⟩

theorem setUplink {s : State} {x : Uplink} (h : QueueLaw s → QueueLaw (s.setUplink x)) :
    Quiet s (s.setUplink x) :=
  ⟨rfl, rfl, rfl, rfl, rfl, rfl, rfl, rfl, rfl, rfl, rfl, rfl, rfl, rfl, rfl, rfl, rfl, rfl, id, h⟩

theorem setEvw {s : State} {x : EventWriter} (h : EventLaw s → EventLaw (s.setEvw x)) :
    Quiet s (s.setEvw x) :=
  ⟨rfl, rfl, rfl, rfl, rfl, rfl, rfl, rfl, rfl, rfl, rfl, rfl, rfl, rfl, rfl, rfl, rfl, rfl, h, id⟩

end Quiet

/-! ### Events and reports -/

theorem raiseFactor_quiet (f : Factor) (s : State) : Quiet s (raiseFactor f s) :=
  Quiet.ite (fun _ => Quiet.setAttn _ _) (fun _ => Quiet.refl _)

theorem placeEvent_quiet {e : Event} {s : State} (h : s.evw.queue.length < 16) :
    Quiet s (placeEvent e s) := by
  refine Quiet.setEvw (fun ⟨a, _⟩ => ⟨?_, ?_⟩)
  · simp only [State.setEvw_evw, List.length_append, List.length_singleton, BitVec.ofNat_add, a]
    simp only [BitVec.add_assoc]
    congr 2
    exact BitVec.add_comm _ _
  · simp only [State.setEvw_evw, List.length_append, List.length_singleton]
    omega

theorem dropEvent_quiet (s : State) : Quiet s (dropEvent s) := by
  refine Quiet.before (raiseFactor_quiet _ _) (Quiet.setEvw (fun ⟨a, b⟩ => ⟨?_, b⟩))
  simp only [State.setEvw_evw, a, BitVec.add_assoc]

theorem produce_quiet (tag : Half) (p : Payload) (s : State) : Quiet s (produce tag p s) := by
  unfold produce
  refine Quiet.ite (fun _ => Quiet.ite (fun h => placeEvent_quiet h) (fun _ => dropEvent_quiet s))
    (fun _ => Quiet.refl s)

theorem refuse_quiet (c : Byte) (r : Reason) (tag : Half) (s : State) :
    Quiet s (refuse c r tag s) := produce_quiet _ _ _

theorem countHeld_quiet (s : State) : Quiet s (countHeld s) := Quiet.setBook _ _

theorem countDrawn_quiet (s : State) : Quiet s (countDrawn s) := Quiet.setBook _ _

theorem setOffer_quiet (i : Nat) (o : Option Offer) (s : State) : Quiet s (setOffer i o s) :=
  Quiet.setOffers _ _

theorem setSlot_quiet (i : Nat) (x : Option Slot) (s : State) : Quiet s (setSlot i x s) :=
  Quiet.setPool _ _

theorem placeFrom_quiet (src : HeldSource) {s : State} (h : s.evw.queue.length < 16) :
    Quiet s (placeFrom src s) := by
  cases src <;> simp only [placeFrom]
  · split
    · split
      · exact (setOffer_quiet _ _ s).trans (placeEvent_quiet h)
      · exact Quiet.refl s
    · exact Quiet.refl s
  · split
    · split
      · exact (setSlot_quiet _ _ s).trans (placeEvent_quiet h)
      · exact Quiet.refl s
    · exact Quiet.refl s
  · split
    · exact Quiet.before (placeEvent_quiet h) (Quiet.setTrip rfl rfl rfl rfl rfl)
    · exact Quiet.refl s
  · split
    · exact Quiet.before (placeEvent_quiet h) (Quiet.setEmerg rfl)
    · exact Quiet.refl s
  · split
    · exact Quiet.before (placeEvent_quiet h) (Quiet.setSettings rfl rfl)
    · exact Quiet.refl s

theorem placeOne_quiet (s : State) : Quiet s (placeOne s) := by
  unfold placeOne
  refine Quiet.ite (fun h => ?_) (fun _ => Quiet.refl s)
  split
  · exact placeFrom_quiet _ h.2
  · exact Quiet.refl s

theorem placeMany_quiet (n : Nat) (s : State) : Quiet s (placeMany n s) := by
  induction n generalizing s with
  | zero => exact Quiet.refl s
  | succ n ih => exact (placeOne_quiet s).trans (ih _)

theorem placeHeld_quiet (s : State) : Quiet s (placeHeld s) := placeMany_quiet _ s

theorem addTripReport_quiet (tag : Half) (p : Payload) (s : State) :
    Quiet s (addTripReport tag p s) :=
  Quiet.before (countHeld_quiet _) (Quiet.setTrip rfl rfl rfl rfl rfl)

theorem setEmReport_quiet (c : EmCause) (tag : Half) (s : State) : Quiet s (setEmReport c tag s) :=
  Quiet.before (countHeld_quiet _) (Quiet.setEmerg rfl)

theorem setSettingsReport_quiet (tag : Half) (p : Payload) (s : State) :
    Quiet s (setSettingsReport tag p s) :=
  Quiet.before (countHeld_quiet _) (Quiet.setSettings rfl rfl)

theorem closeWith_quiet (i : Nat) (o : Offer) (r : Option ClosingReason) (tag : Half) (p : Payload)
    (s : State) : Quiet s (closeWith i o r tag p s) :=
  (setOffer_quiet _ _ s).trans (countHeld_quiet _)

theorem closeOffer_quiet (i : Nat) (o : Offer) (r : ClosingReason) (n : ReleaseNote) (s : State) :
    Quiet s (closeOffer i o r n s) := closeWith_quiet _ _ _ _ _ s

theorem closeAll_quiet (r : ClosingReason) (l : List (Nat × Offer)) (s : State) :
    Quiet s (closeAll r l s) := by
  induction l generalizing s with
  | nil => exact Quiet.refl s
  | cons x l ih => exact (closeOffer_quiet _ _ _ _ s).trans (ih _)

theorem closeOpen_quiet (r : ClosingReason) (s : State) : Quiet s (closeOpen r s) :=
  closeAll_quiet _ _ s

theorem pulse_quiet (d : Nat) (s : State) : Quiet s (pulse d s) :=
  (Quiet.setAttn _ _).trans (countDrawn_quiet _)

/-! ### The channel -/

theorem badFrame_quiet (s : State) : Quiet s (badFrame s) := by
  unfold badFrame
  refine Quiet.ite (fun _ => ?_) (fun _ => Quiet.setRx s _)
  exact (Quiet.setRx s _).trans (raiseFactor_quiet _ _)

theorem skipEnd_quiet (s : State) : Quiet s (skipEnd s) := Quiet.setRx s _

theorem rxIgnored_quiet (s : State) : Quiet s (rxIgnored s) := by
  unfold rxIgnored
  split
  all_goals first | exact badFrame_quiet s | exact skipEnd_quiet s | exact Quiet.setRx s _

theorem stopStuckBusy_quiet (s : State) : Quiet s (stopStuckBusy s) := Quiet.setSup s _

theorem startKeyup_quiet (s : State) : Quiet s (startKeyup s) :=
  ((rxIgnored_quiet s).trans (stopStuckBusy_quiet _)).trans (Quiet.setLink _ _)

theorem drawFor_quiet (e : Entry) (s : State) : Quiet s (drawFor e s) := by
  unfold drawFor
  have h := (Quiet.setLink s { s.link with
    state := .contend, target := some e.seq, backoff := drawCount e s,
    slotTimer := if s.pins.cd then none else some s.settings.accepted.slotTime }).trans
      (countDrawn_quiet _)
  exact Quiet.ite (fun _ => h.trans (startKeyup_quiet _)) (fun _ => h)

theorem contendFor_quiet (e : Entry) (s : State) : Quiet s (contendFor e s) :=
  (Quiet.setLink s _).trans (drawFor_quiet e _)

theorem applyChannel_quiet (s : State) : Quiet s (applyChannel s) :=
  ((rxIgnored_quiet s).trans (stopStuckBusy_quiet _)).trans (Quiet.setLink _ _)

theorem listenReact_quiet (s : State) : Quiet s (listenReact s) := by
  unfold listenReact
  refine Quiet.ite (fun _ => applyChannel_quiet s) (fun _ => ?_)
  split
  · exact contendFor_quiet _ s
  · exact Quiet.refl s

theorem contendReact_quiet (s : State) : Quiet s (contendReact s) := by
  unfold contendReact
  split
  · split
    · exact contendFor_quiet _ s
    · exact (Quiet.setLink s _).trans (listenReact_quiet _)
  · split
    · exact Quiet.ite (fun _ => drawFor_quiet _ s) (fun _ => Quiet.refl s)
    · exact Quiet.refl s

theorem congestFactor_quiet (s : State) : Quiet s (congestFactor s) :=
  Quiet.ite (fun _ => raiseFactor_quiet _ s) (fun _ => Quiet.refl s)

theorem linkReact_quiet (s : State) : Quiet s (linkReact s) := by
  unfold linkReact
  split
  · exact listenReact_quiet s
  · exact (contendReact_quiet s).trans (congestFactor_quiet _)
  · exact Quiet.refl s

theorem enterListen_quiet (s : State) : Quiet s (enterListen s) :=
  (((Quiet.setSup s _).trans (Quiet.setRx _ _)).trans (Quiet.setLink _ _)).trans
    (listenReact_quiet _)

theorem linkGiveUp_quiet (s : State) : Quiet s (linkGiveUp s) := by
  unfold linkGiveUp
  split
  · exact (rxIgnored_quiet s).trans (Quiet.setLink _ _)
  · exact Quiet.setLink s _

/-! ### The uplink queue -/

theorem countClass_map (c : UpClass) (f : Entry → Entry) (hf : ∀ e, (f e).cls = e.cls)
    (es : List Entry) : countClass c (es.map f) = countClass c es := by
  simp only [countClass, List.countP_map]
  congr 1
  funext e
  simp [hf]

theorem updateEntry_quiet {q : Nat} {f : Entry → Entry} (hc : ∀ e, (f e).cls = e.cls)
    (hs : ∀ e, (f e).seq = e.seq) (s : State) : Quiet s (updateEntry q f s) := by
  refine Quiet.setUplink (fun ⟨a, b, c⟩ => ⟨?_, ?_, ?_⟩)
  · simpa using a
  · intro k
    simp only [State.setUplink_uplink]
    rw [countClass_map k _ (fun e => by split <;> simp [hc])]
    exact b k
  · simp only [State.setUplink_uplink, List.map_map]
    rw [show (s.uplink.entries.map ((·.seq) ∘ fun e => if e.seq = q then f e else e)) =
      s.uplink.entries.map (·.seq) from List.map_congr_left (fun e _ => by
        simp only [Function.comp]; split <;> simp [hs])]
    exact c

theorem queueLaw_filter {s : State} (p : Entry → Bool) (h : QueueLaw s) :
    QueueLaw (s.setUplink { s.uplink with entries := s.uplink.entries.filter p }) := by
  obtain ⟨a, b, c⟩ := h
  refine ⟨?_, ?_, ?_⟩
  · exact Nat.le_trans (List.length_filter_le _ _) a
  · intro k
    refine Nat.le_trans ?_ (b k)
    exact List.Sublist.countP_le List.filter_sublist
  · exact List.Nodup.sublist (List.Sublist.map _ List.filter_sublist) c

theorem removeEntry_quiet (q : Nat) (s : State) : Quiet s (removeEntry q s) :=
  (Quiet.setUplink (queueLaw_filter _)).trans (Quiet.setLink _ _)

theorem countDropped_quiet (s : State) : Quiet s (countDropped s) := Quiet.setUplink id

theorem countUnmatched_quiet (s : State) : Quiet s (countUnmatched s) := Quiet.setUplink id

theorem textOutcome_quiet (e : Entry) (p : Nat → Payload) (b : Bool) (s : State) :
    Quiet s (textOutcome e p b s) := by
  unfold textOutcome
  split
  · split
    · exact (setSlot_quiet _ _ s).trans (countHeld_quiet _)
    · exact Quiet.refl s
  · exact Quiet.refl s

theorem textFailed_quiet (r : FailReason) (e : Entry) (s : State) : Quiet s (textFailed r e s) :=
  textOutcome_quiet _ _ _ s

theorem clearSlotRef_quiet (e : Entry) (s : State) : Quiet s (clearSlotRef e s) := by
  unfold clearSlotRef
  split
  · split
    · exact setSlot_quiet _ _ s
    · exact Quiet.refl s
  · exact Quiet.refl s

theorem tellDisplaced_quiet (e : Entry) (s : State) : Quiet s (tellDisplaced e s) := by
  unfold tellDisplaced
  split
  all_goals first
    | exact textFailed_quiet _ e s
    | exact countDropped_quiet s
    | exact Quiet.refl s

theorem mem_insertEntry (e x : Entry) (es : List Entry) :
    x ∈ insertEntry e es ↔ x = e ∨ x ∈ es := by
  induction es with
  | nil => simp [insertEntry]
  | cons y es ih =>
    simp only [insertEntry]
    split
    · simp only [List.mem_cons, ih]
      tauto
    · simp only [List.mem_cons]

theorem length_insertEntry (e : Entry) (es : List Entry) :
    (insertEntry e es).length = es.length + 1 := by
  induction es with
  | nil => rfl
  | cons y es ih =>
    simp only [insertEntry]
    split <;> simp [ih]

theorem countClass_insertEntry (c : UpClass) (e : Entry) (es : List Entry) :
    countClass c (insertEntry e es) = countClass c es + if e.cls = c then 1 else 0 := by
  induction es with
  | nil =>
    by_cases h : e.cls = c <;> simp [insertEntry, countClass, h]
  | cons y es ih =>
    simp only [insertEntry, countClass] at ih ⊢
    split
    · rw [List.countP_cons, List.countP_cons, ih]
      omega
    · rw [List.countP_cons]
      by_cases h : e.cls = c <;> simp [h]

theorem nodup_insertEntry {e : Entry} {es : List Entry} (h : (es.map (·.seq)).Nodup)
    (he : ∀ x ∈ es, x.seq ≠ e.seq) : ((insertEntry e es).map (·.seq)).Nodup := by
  induction es with
  | nil => simp [insertEntry]
  | cons y es ih =>
    have hy := List.nodup_cons.mp h
    simp only [insertEntry]
    split
    · rw [List.map_cons, List.nodup_cons]
      refine ⟨?_, ih hy.2 (fun x hx => he x (List.mem_cons_of_mem _ hx))⟩
      intro hm
      obtain ⟨x, hx, hxy⟩ := List.mem_map.mp hm
      rcases (mem_insertEntry e x es).mp hx with rfl | hx
      · exact he y (List.mem_cons_self ..) hxy.symm
      · exact hy.1 (List.mem_map.mpr ⟨x, hx, hxy⟩)
    · rw [List.map_cons, List.nodup_cons]
      refine ⟨?_, h⟩
      intro hm
      obtain ⟨x, hx, hxy⟩ := List.mem_map.mp hm
      exact he x hx hxy

theorem allocSeq_unused {c m q : Nat} {es : List Entry} (h : allocSeq c m es = some q) :
    ∀ x ∈ es, x.seq ≠ q := by
  have := List.find?_some h
  intro x hx hq
  simp only [seqUsed, Bool.not_eq_true', List.any_eq_false] at this
  exact this x hx (by simp [hq])

/-- An insertion keeps the queue law where the class is below its cap and the queue below 12. -/
theorem insertNew_quiet {cls : UpClass} (body : List Byte) (tr ca : Bool) (ref : OwnerRef)
    {s : State} (hn : s.uplink.entries.length < 12)
    (hc : countClass cls s.uplink.entries < cls.cap) :
    Quiet s (insertNew cls body tr ca ref s).1 := by
  unfold insertNew
  split
  · rename_i q hq
    refine ((Quiet.setUplink (fun ⟨a, b, c⟩ => ⟨?_, ?_, ?_⟩)).trans (Quiet.setLink _ _)).trans
      (linkReact_quiet _)
    · simp only [State.setUplink_uplink, length_insertEntry]
      omega
    · intro k
      simp only [State.setUplink_uplink]
      rw [countClass_insertEntry]
      have := b k
      by_cases h : (freshEntry cls body tr ca ref q s.uplink.nextTime).cls = k
      · have h' : cls = k := h
        subst h'
        simp only [if_pos h]
        omega
      · simp only [if_neg h]
        omega
    · simp only [State.setUplink_uplink]
      exact nodup_insertEntry c (fun x hx => allocSeq_unused hq x hx)
  · exact Quiet.refl s

theorem countClass_filter_le (c : UpClass) (p : Entry → Bool) (es : List Entry) :
    countClass c (es.filter p) ≤ countClass c es :=
  List.Sublist.countP_le List.filter_sublist

theorem tellDisplaced_entries (e : Entry) (s : State) :
    (tellDisplaced e s).uplink.entries = s.uplink.entries := by
  unfold tellDisplaced
  split
  · unfold textFailed textOutcome
    split
    · split <;> rfl
    · rfl
  all_goals rfl

theorem displaced_mem {es : List Entry} {e : Entry} (h : displaced es = some e) : e ∈ es :=
  List.mem_of_mem_filter (List.mem_of_getLast? h)

theorem length_remove_lt {es : List Entry} {e : Entry} (h : e ∈ es) :
    (es.filter (fun x => x.seq != e.seq)).length < es.length := by
  rcases Nat.lt_or_ge (es.filter (fun x => x.seq != e.seq)).length es.length with h1 | h1
  · exact h1
  · have h2 := List.length_filter_le (fun x : Entry => x.seq != e.seq) es
    have h3 : es.filter (fun x => x.seq != e.seq) = es :=
      List.filter_sublist.eq_of_length (Nat.le_antisymm h2 h1)
    have h4 := List.filter_eq_self.mp h3 e h
    simp at h4

theorem removeEntry_entries (q : Nat) (s : State) :
    (removeEntry q s).uplink.entries = s.uplink.entries.filter (fun e => e.seq != q) := rfl

/-- The queue law needs a bound on the length only on a queue that has not lost it. -/
theorem offerEntry_quiet (cls : UpClass) (body : List Byte) (tr ca : Bool) (ref : OwnerRef)
    (s : State) : Quiet s (offerEntry cls body tr ca ref s).1 := by
  unfold offerEntry
  split
  · exact Quiet.refl s
  split
  · exact Quiet.refl s
  rename_i _ hcap
  split
  · rename_i hfull
    split
    · split
      · rename_i e he
        by_cases hq : s.uplink.entries.length ≤ 12
        · refine ((removeEntry_quiet e.seq s).trans (tellDisplaced_quiet e _)).trans
            (insertNew_quiet body tr ca ref ?_ ?_)
          · rw [tellDisplaced_entries, removeEntry_entries]
            have := length_remove_lt (displaced_mem he)
            omega
          · rw [tellDisplaced_entries, removeEntry_entries]
            have := countClass_filter_le cls (fun x => x.seq != e.seq) s.uplink.entries
            omega
        · have h := (removeEntry_quiet e.seq s).trans (tellDisplaced_quiet e _)
          have k : Quiet s (insertNew cls body tr ca ref
              (tellDisplaced e (removeEntry e.seq s))).1 := by
            unfold insertNew
            split
            · have g := (h.trans (u := _) ⟨rfl, rfl, rfl, rfl, rfl, rfl, rfl, rfl, rfl, rfl, rfl,
                rfl, rfl, rfl, rfl, rfl, rfl, rfl, id, id⟩)
              rename_i q hq'
              have w := linkReact_quiet
                (((tellDisplaced e (removeEntry e.seq s)).setUplink
                  { (tellDisplaced e (removeEntry e.seq s)).uplink with
                    entries := insertEntry (freshEntry cls body tr ca ref q
                      (tellDisplaced e (removeEntry e.seq s)).uplink.nextTime)
                      (tellDisplaced e (removeEntry e.seq s)).uplink.entries,
                    nextTime := (tellDisplaced e (removeEntry e.seq s)).uplink.nextTime + 1 }).setLink
                  { (tellDisplaced e (removeEntry e.seq s)).link with
                    seqCounter := nextSeq q
                      (tellDisplaced e (removeEntry e.seq s)).settings.accepted.seqMax })
              exact ⟨w.phase.trans h.phase, w.clock.trans h.clock, w.secs.trans h.secs,
                w.meter.trans h.meter, w.openTrip.trans h.openTrip, w.next.trans h.next,
                w.shift.trans h.shift, w.logWrite.trans h.logWrite, w.logIndex.trans h.logIndex,
                w.accepted.trans h.accepted, w.result.trans h.result, w.path.trans h.path, w.agent.trans h.agent,
                w.reader.trans h.reader, w.position.trans h.position, w.mem.trans h.mem,
                w.pending.trans h.pending, w.box.trans h.box,
                fun a => w.events (h.events a), fun a => absurd a.1 hq⟩
            · exact h
          exact k
      · exact Quiet.refl s
    · exact Quiet.refl s
  · rename_i hfull
    exact insertNew_quiet body tr ca ref (Nat.lt_of_not_le hfull) (Nat.lt_of_not_le hcap)

end Sys2Proof.Machine
end

