-- ==== Sys2Proof/Laws/QuietOwners.lean ====
section
/-! SUPPORT. What the queue's owners, the offer table, the radio supervisor and the commands of the radio side leave alone, and the laws they keep: one lemma per operation. -/

namespace Sys2Proof.Machine

/-! ### The uplink queue -/

theorem offerOrDrop_quiet (cls : UpClass) (body : List Byte) (ref : OwnerRef) (s : State) :
    Quiet s (offerOrDrop cls body ref s).1 := by
  unfold offerOrDrop
  have h := offerEntry_quiet cls body false false ref s
  simp only
  split
  · exact h
  · exact h.trans (countDropped_quiet _)

theorem tripTest_quiet (s : State) : Quiet s (tripTest s) := by
  unfold tripTest
  split
  · exact Quiet.ite (fun _ => offerEntry_quiet _ _ _ _ _ s) (fun _ => Quiet.refl s)
  · exact Quiet.refl s

theorem takeOut_quiet (q : Nat) (s : State) : Quiet s (takeOut q s) :=
  (removeEntry_quiet q s).trans (linkReact_quiet _)

theorem leaveQueue_quiet (q : Nat) (s : State) : Quiet s (leaveQueue q s) :=
  (takeOut_quiet q s).trans (tripTest_quiet _)

theorem withdrawEntry_quiet (q : Nat) (s : State) : Quiet s (withdrawEntry q s) := by
  unfold withdrawEntry
  split
  · split
    · exact updateEntry_quiet (by intro _; rfl) (by intro _; rfl) s
    · exact takeOut_quiet q s
    · exact takeOut_quiet q s
  · exact Quiet.refl s

theorem offerRelease_quiet (id : Word) (s : State) : Quiet s (offerRelease id s).1 :=
  offerOrDrop_quiet _ _ _ s

theorem offerAck_quiet (cls seq : Byte) (r : AckResult) (s : State) :
    Quiet s (offerAck cls seq r s) := offerOrDrop_quiet _ _ _ s

theorem tripLeaves_quiet (s : State) : Quiet s (tripLeaves s) :=
  Quiet.setTrip rfl rfl rfl rfl rfl

theorem setOwed_quiet (o : Option OwedAlarm) (s : State) : Quiet s (setOwed o s) :=
  Quiet.setEmerg rfl

theorem offerAlarm_quiet (k : AlarmKind) (s : State) : Quiet s (offerAlarm k s) := by
  unfold offerAlarm
  split
  · split
    · exact setOwed_quiet _ s
    · exact (updateEntry_quiet (by intro _; rfl) (by intro _; rfl) s).trans (setOwed_quiet _ _)
    · exact (updateEntry_quiet (by intro _; rfl) (by intro _; rfl) s).trans (setOwed_quiet _ _)
  · exact (offerEntry_quiet _ _ _ _ _ s).trans (setOwed_quiet _ _)

theorem alarmLeft_quiet (s : State) : Quiet s (alarmLeft s) := by
  unfold alarmLeft
  split
  · exact offerAlarm_quiet _ s
  · exact Quiet.refl s

theorem withdrawAlarm_quiet (s : State) : Quiet s (withdrawAlarm s) := by
  unfold withdrawAlarm
  split
  · exact withdrawEntry_quiet _ s
  · exact Quiet.refl s

/-! ### Duty, awards, deferred outcomes -/

theorem dutyAfter_quiet (b : Duty) (tag : Half) (c : DutyCause) (s : State) :
    Quiet s (dutyAfter b tag c s) := by
  unfold dutyAfter
  have h : Quiet s (if effectiveDuty s = b then s
      else produce tag (.dutyChanged s.offers.driverDuty (effectiveDuty s) b c) s) :=
    Quiet.ite (fun _ => Quiet.refl s) (fun _ => produce_quiet _ _ s)
  exact Quiet.ite (fun _ => h) (fun _ => h.trans (closeOpen_quiet _ _))

theorem awardEntry_quiet (i : Nat) (o : Offer) (d : Bool) (tag : Half) (s : State) :
    Quiet s (awardEntry i o d tag s) := by
  unfold awardEntry
  exact Quiet.before (dutyAfter_quiet _ _ _ _) (Quiet.before (placeHeld_quiet _)
    (Quiet.before (countHeld_quiet _) (setOffer_quiet _ _ s)))

theorem applyDeferred_quiet (i : Nat) (o : Offer) (s : State) : Quiet s (applyDeferred i o s) := by
  unfold applyDeferred
  split
  · exact awardEntry_quiet _ _ _ _ s
  · exact (offerRelease_quiet _ s).trans (closeOffer_quiet _ _ _ _ _)
  · exact (offerRelease_quiet _ s).trans (closeWith_quiet _ _ _ _ _ _)
  · exact closeOffer_quiet _ _ _ _ s
  · exact closeOffer_quiet _ _ _ _ s

theorem withBidOffer_quiet {f : Nat → Offer → State → State} (h : ∀ i o s, Quiet s (f i o s))
    (e : Entry) (s : State) : Quiet s (withBidOffer e f s) := by
  unfold withBidOffer
  split
  · split
    · exact h _ _ s
    · exact Quiet.refl s
  · exact Quiet.refl s

theorem setProgress_quiet (p : BidProgress) (i : Nat) (o : Offer) (s : State) :
    Quiet s (setProgress p i o s) :=
  Quiet.ite (fun _ => setOffer_quiet _ _ s) (fun _ => Quiet.refl s)

theorem bidGone_quiet (i : Nat) (o : Offer) (s : State) : Quiet s (bidGone i o s) :=
  setOffer_quiet _ _ s

theorem bidAnswered_quiet (b : Bool) (i : Nat) (o : Offer) (s : State) :
    Quiet s (bidAnswered b i o s) :=
  Quiet.ite (fun _ => setOffer_quiet _ _ s)
    (fun _ => Quiet.ite (fun _ => bidGone_quiet i o s) (fun _ => Quiet.refl s))

theorem bidLost_quiet (i : Nat) (o : Offer) (s : State) : Quiet s (bidLost i o s) :=
  closeOffer_quiet _ _ _ _ s

/-! ### The close of transmission and the flush -/

theorem clearKeyed_quiet (s : State) : Quiet s (clearKeyed s) := Quiet.setLink s _

theorem closeAnswered_quiet (e : Entry) (s : State) : Quiet s (closeAnswered e s) := by
  unfold closeAnswered
  have h := removeEntry_quiet e.seq s
  simp only
  split
  · exact h.trans (tripLeaves_quiet _)
  · exact h.trans (clearSlotRef_quiet _ _)
  · exact h.trans (withBidOffer_quiet bidGone_quiet e _)
  · exact h.trans (alarmLeft_quiet _)
  · exact h

theorem closeSent_quiet (e : Entry) (s : State) : Quiet s (closeSent e s) := by
  unfold closeSent
  split
  · exact Quiet.before (alarmLeft_quiet _)
      (Quiet.trans (removeEntry_quiet e.seq s) (Quiet.setEmerg rfl))
  · exact removeEntry_quiet _ s
  · exact removeEntry_quiet _ s
  · exact Quiet.before (withBidOffer_quiet (setProgress_quiet .awaitAck) e _)
      (updateEntry_quiet (by intro _; rfl) (by intro _; rfl) s)
  · exact updateEntry_quiet (by intro _; rfl) (by intro _; rfl) s

theorem closeTransmission_quiet (s : State) : Quiet s (closeTransmission s) := by
  unfold closeTransmission
  split
  · split
    · exact ((clearKeyed_quiet s).trans (removeEntry_quiet _ _)).trans
        (withBidOffer_quiet applyDeferred_quiet _ _)
    · split
      · exact (clearKeyed_quiet s).trans (closeAnswered_quiet _ _)
      · exact (clearKeyed_quiet s).trans (closeSent_quiet _ _)
  · exact clearKeyed_quiet s

theorem flushOutcome_quiet (e : Entry) (s : State) : Quiet s (flushOutcome e s) := by
  unfold flushOutcome
  split
  · split
    · exact tripLeaves_quiet s
    · exact clearSlotRef_quiet e s
    · exact withBidOffer_quiet bidGone_quiet e s
    · exact Quiet.refl s
  · split
    · exact textFailed_quiet _ e s
    · exact withBidOffer_quiet bidLost_quiet e s
    all_goals first | exact countDropped_quiet s | exact Quiet.refl s

theorem flushOutcomes_quiet (l : List Entry) (s : State) : Quiet s (flushOutcomes l s) := by
  induction l generalizing s with
  | nil => exact Quiet.refl s
  | cons e l ih => exact (flushOutcome_quiet e s).trans (ih _)

theorem flushQueue_quiet (s : State) : Quiet s (flushQueue s) :=
  Quiet.before (flushOutcomes_quiet _ _) (Quiet.setUplink (queueLaw_filter _))

/-! ### The radio supervisor -/

theorem reportLink_quiet (l e : LinkState) (c : LinkCause) (tag : Half) (s : State) :
    Quiet s (reportLink l e c tag s) := produce_quiet _ _ s

theorem rdyUp_quiet (s : State) : Quiet s (rdyUp s) :=
  ((Quiet.setSup s _).trans (reportLink_quiet _ _ _ _ _)).trans (enterListen_quiet _)

theorem enterPowerOn_quiet (c : LinkCause) (tag : Half) (s : State) :
    Quiet s (enterPowerOn c tag s) := by
  have h := ((Quiet.setSup s { s.sup with ready := some Config.readySeconds, powerOff := none }).trans
    (Quiet.setLink _ { s.link with state := .powerOnWait })).trans
    (reportLink_quiet s.link.state .powerOnWait c tag _)
  unfold enterPowerOn
  exact Quiet.ite (fun _ => h.trans (rdyUp_quiet _)) (fun _ => h)

theorem enterFailed_quiet (l : LinkState) (c : LinkCause) (s : State) :
    Quiet s (enterFailed l c s) :=
  ((((Quiet.setSup s _).trans (Quiet.setLink _ _)).trans (raiseFactor_quiet _ _)).trans
    (reportLink_quiet _ _ _ _ _)).trans (flushQueue_quiet _)

theorem giveUpWork_quiet (s : State) : Quiet s (giveUpWork s) := by
  unfold giveUpWork
  split
  · exact (closeTransmission_quiet s).trans (linkGiveUp_quiet _)
  · exact (closeTransmission_quiet s).trans (linkGiveUp_quiet _)
  · exact linkGiveUp_quiet s

theorem takeFault_quiet (c : LinkCause) (s : State) : Quiet s (takeFault c s) := by
  unfold takeFault
  have h := giveUpWork_quiet s
  simp only
  split
  · exact (((h.trans (Quiet.setSup _ _)).trans (Quiet.setLink _ _)).trans
      (reportLink_quiet _ _ _ _ _)).trans (tripTest_quiet _)
  · exact h.trans (enterFailed_quiet _ _ _)

theorem overrideRadio_quiet (s : State) : Quiet s (overrideRadio s) :=
  Quiet.ite (fun _ => (Quiet.setSup s _).trans (enterPowerOn_quiet _ _ _)) (fun _ => Quiet.refl s)

/-! ### The emergency controller, apart from a raise -/

theorem nextRound_quiet (s : State) : Quiet s (nextRound s) := by
  unfold nextRound
  exact Quiet.before (setEmReport_quiet _ _ _) (Quiet.before (Quiet.setEmerg rfl)
    (Quiet.before (offerAlarm_quiet _ _) (Quiet.setEmerg rfl)))

theorem roundEnd_quiet (s : State) : Quiet s (roundEnd s) := by
  unfold roundEnd
  refine Quiet.ite (fun _ => Quiet.before (setEmReport_quiet _ _ _) (Quiet.setEmerg rfl))
    (fun _ => Quiet.ite (fun _ => Quiet.before (setEmReport_quiet _ _ _) (Quiet.setEmerg rfl))
      (fun _ => nextRound_quiet s))

/-! ### The frame dispatcher -/

theorem dedupeAdd_quiet (q : Byte) (r : AckResult) (s : State) : Quiet s (dedupeAdd q r s) :=
  Quiet.setRx s _

theorem countUnknown_quiet (s : State) : Quiet s (countUnknown s) := Quiet.setRx s _

theorem freeBuffer_quiet (c : Byte) (f : DownFrame) (s : State) : Quiet s (freeBuffer c f s) := by
  unfold freeBuffer
  split
  · exact Quiet.ite (fun _ => Quiet.setRx s _) (fun _ => Quiet.setRx s _)
  · exact Quiet.setRx s _
  · exact Quiet.setRx s _
  · exact Quiet.refl s

theorem handOver_quiet {owner : State → State} (h : ∀ s, Quiet s (owner s)) (c : DownClass)
    (r : AckResult) (f : DownFrame) (s : State) : Quiet s (handOver c owner r f s) := by
  unfold handOver
  refine Quiet.ite (fun _ => Quiet.ite (fun _ => ?_)
    (fun _ => (h s).trans (freeBuffer_quiet _ _ _)))
    (fun _ => (countUnknown_quiet s).trans (freeBuffer_quiet _ _ _))
  split
  · exact (offerAck_quiet _ _ _ s).trans (freeBuffer_quiet _ _ _)
  · exact (((h s).trans (offerAck_quiet _ _ _ _)).trans (dedupeAdd_quiet _ _ _)).trans
      (freeBuffer_quiet _ _ _)

/-! ### Offers -/

theorem setDuty_quiet (d : Duty) (tag : Half) (s : State) : Quiet s (setDuty d tag s) := by
  unfold setDuty
  have h : Quiet s (produce tag (.dutyChanged d
      (effectiveDuty (s.setOffers { s.offers with driverDuty := d })) (effectiveDuty s) .dutySet)
      (s.setOffers { s.offers with driverDuty := d })) :=
    (Quiet.setOffers s _).trans (produce_quiet _ _ _)
  exact Quiet.ite (fun _ => h) (fun _ => h.trans (closeOpen_quiet _ _))

theorem reqDuty_quiet (tag : Half) (v : Byte) (s : State) : Quiet s (reqDuty tag v s) := by
  unfold reqDuty
  split
  · exact (setDuty_quiet _ _ s).trans (placeHeld_quiet _)
  · exact refuse_quiet _ _ _ s

theorem offerBid_quiet (i : Nat) (o : Offer) (tag : Half) (s : State) :
    Quiet s (offerBid i o tag s) := by
  unfold offerBid
  have h := offerEntry_quiet .bid (bidBody o.id s) false false (.offer i) s
  simp only
  split
  · exact h.trans (setOffer_quiet _ _ _)
  · exact h.trans (refuse_quiet _ _ _ _)
  · exact h.trans (refuse_quiet _ _ _ _)

theorem reqAccept_quiet (tag : Half) (id : Word) (s : State) : Quiet s (reqAccept tag id s) := by
  unfold reqAccept
  split
  · exact refuse_quiet _ _ _ s
  · refine Quiet.ite (fun _ => refuse_quiet _ _ _ s) (fun _ => ?_)
    refine Quiet.ite (fun _ => refuse_quiet _ _ _ s) (fun _ => ?_)
    refine Quiet.ite (fun _ => refuse_quiet _ _ _ s) (fun _ => ?_)
    exact Quiet.ite (fun _ => refuse_quiet _ _ _ s)
      (fun _ => (offerBid_quiet _ _ _ s).trans (placeHeld_quiet _))

theorem reqDecline_quiet (tag : Half) (id : Word) (s : State) : Quiet s (reqDecline tag id s) := by
  unfold reqDecline
  split
  · exact refuse_quiet _ _ _ s
  · exact Quiet.ite (fun _ => (closeOffer_quiet _ _ _ _ s).trans (placeHeld_quiet _))
      (fun _ => refuse_quiet _ _ _ s)

theorem admitOffer_quiet (i : Nat) (b : OfferBody) (n : Nat) (s : State) :
    Quiet s (admitOffer i b n s) :=
  ((Quiet.setOffers s _).trans (produce_quiet _ _ _)).trans (pulse_quiet _ _)

theorem ownOffer_quiet (f : DownFrame) (s : State) : Quiet s (ownOffer f s) := by
  unfold ownOffer
  refine Quiet.ite (fun _ => Quiet.setOffers s _) (fun _ => Quiet.ite (fun _ => Quiet.refl s)
    (fun _ => Quiet.ite (fun _ => Quiet.refl s) (fun _ => ?_)))
  split
  · exact Quiet.setOffers s _
  · split
    · exact Quiet.setOffers s _
    · exact admitOffer_quiet _ _ _ s

theorem takeOffer_quiet (f : DownFrame) (s : State) : Quiet s (takeOffer f s) :=
  handOver_quiet (ownOffer_quiet f) _ _ _ s

theorem deferAnswer_quiet (a : BidAnswer) (i : Nat) (o : Offer) (s : State) :
    Quiet s (deferAnswer a i o s) := by
  unfold deferAnswer
  simp only
  split
  · exact Quiet.before (setOffer_quiet _ _ _) (updateEntry_quiet (by intro _; rfl) (by intro _; rfl) s)
  · exact setOffer_quiet _ _ s

theorem withdrawBid_quiet (o : Offer) (s : State) : Quiet s (withdrawBid o s) := by
  unfold withdrawBid
  split
  · exact withdrawEntry_quiet _ s
  · exact Quiet.refl s

theorem awardId_quiet (id : Word) (s : State) : Quiet s (awardId id s) := by
  unfold awardId
  split
  · exact (offerRelease_quiet _ s).trans (produce_quiet _ _ _)
  · split
    · exact Quiet.ite (fun _ => deferAnswer_quiet _ _ _ s)
        (fun _ => (withdrawBid_quiet _ s).trans (awardEntry_quiet _ _ _ _ _))
    · exact Quiet.refl s
    · exact Quiet.ite (fun _ => awardEntry_quiet _ _ _ _ s)
        (fun _ => (offerRelease_quiet _ s).trans (closeWith_quiet _ _ _ _ _ _))
    · exact (offerRelease_quiet _ s).trans (produce_quiet _ _ _)

theorem ownAward_quiet (f : DownFrame) (s : State) : Quiet s (ownAward f s) := by
  unfold ownAward
  split
  · exact awardId_quiet _ s
  · exact Quiet.refl s

theorem takeAward_quiet (f : DownFrame) (s : State) : Quiet s (takeAward f s) :=
  ((handOver_quiet (ownAward_quiet f) _ _ _ s).trans (tripTest_quiet _)).trans (placeHeld_quiet _)

theorem bidTaken_quiet (i : Nat) (o : Offer) (s : State) : Quiet s (bidTaken i o s) :=
  Quiet.ite (fun _ => deferAnswer_quiet _ _ _ s)
    (fun _ => (withdrawBid_quiet _ s).trans (closeOffer_quiet _ _ _ _ _))

theorem ownReject_quiet (f : DownFrame) (s : State) : Quiet s (ownReject f s) := by
  unfold ownReject
  split
  · split
    · exact closeOffer_quiet _ _ _ _ s
    · exact bidTaken_quiet _ _ s
    · exact Quiet.refl s
    · exact Quiet.refl s
  · exact Quiet.refl s

theorem takeReject_quiet (f : DownFrame) (s : State) : Quiet s (takeReject f s) :=
  ((handOver_quiet (ownReject_quiet f) _ _ _ s).trans (tripTest_quiet _)).trans (placeHeld_quiet _)

theorem cancelJob_quiet (i : Nat) (o : Offer) (s : State) : Quiet s (cancelJob i o s) := by
  unfold cancelJob
  exact Quiet.before (dutyAfter_quiet _ _ _ _) (Quiet.before (placeHeld_quiet _)
    (closeWith_quiet _ _ _ _ _ s))

theorem ownWithdraw_quiet (f : DownFrame) (s : State) : Quiet s (ownWithdraw f s) := by
  unfold ownWithdraw
  split
  · split
    · exact closeOffer_quiet _ _ _ _ s
    · exact bidTaken_quiet _ _ s
    · exact cancelJob_quiet _ _ s
    · exact Quiet.refl s
  · exact Quiet.refl s

theorem takeWithdraw_quiet (f : DownFrame) (s : State) : Quiet s (takeWithdraw f s) :=
  ((handOver_quiet (ownWithdraw_quiet f) _ _ _ s).trans (tripTest_quiet _)).trans (placeHeld_quiet _)

theorem windowEnd_quiet (i : Nat) (s : State) : Quiet s (windowEnd i s) := by
  unfold windowEnd
  split
  · exact Quiet.ite (fun _ => closeOffer_quiet _ _ _ _ s) (fun _ => Quiet.refl s)
  · exact Quiet.refl s

theorem awardWaitEnd_quiet (s : State) : Quiet s (awardWaitEnd s) := by
  unfold awardWaitEnd
  split
  · exact (offerRelease_quiet _ s).trans (closeOffer_quiet _ _ _ _ _)
  · exact Quiet.refl s

/-! ### Texts -/

theorem offerText_quiet (i : Nat) (tag : Half) (c : Byte) (x : List Byte) (s : State) :
    Quiet s (offerText i tag c x s) := by
  unfold offerText
  have h := offerEntry_quiet .text (textFrameBody c x) false false (.slot i) s
  simp only
  split
  · exact h.trans (setSlot_quiet _ _ _)
  · exact h.trans (refuse_quiet _ _ _ _)
  · exact h.trans (refuse_quiet _ _ _ _)

theorem reqSendText_quiet (tag : Half) (c : Byte) (x : List Byte) (s : State) :
    Quiet s (reqSendText tag c x s) := by
  unfold reqSendText
  refine Quiet.ite (fun _ => refuse_quiet _ _ _ s) (fun _ => ?_)
  refine Quiet.ite (fun _ => refuse_quiet _ _ _ s) (fun _ => ?_)
  refine Quiet.ite (fun _ => refuse_quiet _ _ _ s) (fun _ => ?_)
  split
  · exact refuse_quiet _ _ _ s
  · exact offerText_quiet _ _ _ _ s

theorem ownText_quiet (f : DownFrame) (s : State) : Quiet s (ownText f s) := by
  unfold ownText
  split
  · exact (produce_quiet _ _ s).trans
      (Quiet.ite (fun _ => pulse_quiet _ _) (fun _ => Quiet.refl _))
  · exact Quiet.setPool s _

theorem takeText_quiet (f : DownFrame) (s : State) : Quiet s (takeText f s) :=
  handOver_quiet (ownText_quiet f) _ _ _ s

/-! ### The radio's commands -/

theorem ownChannel_quiet (f : DownFrame) (s : State) : Quiet s (ownChannel f s) := by
  unfold ownChannel
  split
  · exact (Quiet.setLink s _).trans (linkReact_quiet _)
  · exact Quiet.refl s

theorem takeChannel_quiet (f : DownFrame) (s : State) : Quiet s (takeChannel f s) :=
  handOver_quiet (ownChannel_quiet f) _ _ _ s

theorem cdRise_quiet (s : State) : Quiet s (cdRise s) := by
  unfold cdRise
  exact Quiet.ite (fun _ => ((Quiet.setPins s _).trans (Quiet.setSup _ _)).trans (Quiet.setLink _ _))
    (fun _ => Quiet.setPins s _)

theorem cdFall_quiet (s : State) : Quiet s (cdFall s) := by
  have h := (Quiet.setPins s { s.pins with cd := false }).trans (stopStuckBusy_quiet _)
  unfold cdFall
  exact Quiet.ite (fun _ => Quiet.ite (fun _ => h.trans (startKeyup_quiet _))
    (fun _ => h.trans (Quiet.setLink _ _))) (fun _ => h)

theorem slotEnd_quiet (s : State) : Quiet s (slotEnd s) := by
  have h := Quiet.setLink s { s.link with backoff := s.link.backoff - 1,
                                          slotTimer := some s.settings.accepted.slotTime }
  unfold slotEnd
  exact Quiet.ite (fun _ => h.trans (startKeyup_quiet _)) (fun _ => h)

theorem dwellEnd_quiet (s : State) : Quiet s (dwellEnd s) :=
  (Quiet.setLink s _).trans (congestFactor_quiet _)

theorem tellKeyed_quiet (e : Entry) (s : State) : Quiet s (tellKeyed e s) := by
  unfold tellKeyed
  split
  · exact withBidOffer_quiet (setProgress_quiet _) e s
  · exact Quiet.setEmerg rfl
  · exact Quiet.refl s

theorem keyEntry_quiet (e : Entry) (s : State) : Quiet s (keyEntry e s) :=
  Quiet.before (Quiet.setLink _ _) (Quiet.before (tellKeyed_quiet e _)
    (updateEntry_quiet (by intro _; rfl) (by intro _; rfl) s))

theorem keyupEnd_quiet (s : State) : Quiet s (keyupEnd s) := by
  unfold keyupEnd
  split
  · exact keyEntry_quiet _ s
  · exact Quiet.setLink s _

theorem tailEnd_quiet (s : State) : Quiet s (tailEnd s) :=
  (((closeTransmission_quiet s).trans (Quiet.setLink _ _)).trans (tripTest_quiet _)).trans
    (placeHeld_quiet _)

theorem transmissionEnd_quiet (s : State) : Quiet s (transmissionEnd s) := by
  have h := Quiet.setLink s { s.link with state := .tail, phaseTimer := some s.settings.accepted.tail,
                                          tx := [] }
  unfold transmissionEnd
  exact Quiet.ite (fun _ => h.trans (tailEnd_quiet _)) (fun _ => h)

theorem tellAnswered_quiet (e : Entry) (r : AckResult) (b : Bool) (s : State) :
    Quiet s (tellAnswered e r b s) := by
  unfold tellAnswered
  split
  · exact withBidOffer_quiet (bidAnswered_quiet _) e s
  · split
    · exact addTripReport_quiet _ _ s
    · exact Quiet.refl s
  · exact textOutcome_quiet _ _ _ s
  · exact Quiet.refl s

theorem ackEntry_quiet (e : Entry) (r : AckResult) (s : State) : Quiet s (ackEntry e r s) := by
  have h : Quiet s (leaveQueue e.seq (if e.cls = .trip then tripLeaves (tellAnswered e r false s)
      else tellAnswered e r false s)) :=
    ((tellAnswered_quiet e r false s).trans
      (Quiet.ite (fun _ => tripLeaves_quiet _) (fun _ => Quiet.refl _))).trans (leaveQueue_quiet _ _)
  unfold ackEntry
  split
  · exact Quiet.before (tellAnswered_quiet _ _ _ _)
      (updateEntry_quiet (by intro _; rfl) (by intro _; rfl) s)
  · exact h
  · exact h

theorem ownAck_quiet (f : DownFrame) (s : State) : Quiet s (ownAck f s) := by
  unfold ownAck
  split
  · split
    · exact ackEntry_quiet _ _ s
    · exact countUnmatched_quiet s
  · exact countUnmatched_quiet s

theorem takeAck_quiet (f : DownFrame) (s : State) : Quiet s (takeAck f s) :=
  (handOver_quiet (ownAck_quiet f) _ _ _ s).trans (placeHeld_quiet _)

theorem tellExhausted_quiet (e : Entry) (s : State) : Quiet s (tellExhausted e s) := by
  unfold tellExhausted
  split
  · exact withBidOffer_quiet bidLost_quiet e s
  · exact textFailed_quiet _ e s
  · exact Quiet.setTrip rfl rfl rfl rfl rfl
  · exact Quiet.refl s

theorem ackTimeout_quiet (e : Entry) (s : State) : Quiet s (ackTimeout e s) := by
  unfold ackTimeout
  refine Quiet.ite (fun _ => ?_) (fun _ =>
    ((tellExhausted_quiet e s).trans (leaveQueue_quiet _ _)).trans (placeHeld_quiet _))
  refine Quiet.before (linkReact_quiet _) ?_
  exact Quiet.ite
    (fun _ => Quiet.before (withBidOffer_quiet (setProgress_quiet _) e _)
      (updateEntry_quiet (by intro _; rfl) (by intro _; rfl) s))
    (fun _ => updateEntry_quiet (by intro _; rfl) (by intro _; rfl) s)

theorem rdyRise_quiet (s : State) : Quiet s (rdyRise s) := by
  have h := Quiet.setPins s { s.pins with rdy := true }
  unfold rdyRise
  exact Quiet.ite (fun _ => h.trans (rdyUp_quiet _)) (fun _ => h)

theorem rdyFall_quiet (s : State) : Quiet s (rdyFall s) := by
  have h := Quiet.setPins s { s.pins with rdy := false }
  unfold rdyFall
  exact Quiet.ite (fun _ => (h.trans (takeFault_quiet _ _)).trans (placeHeld_quiet _)) (fun _ => h)

theorem readyEnd_quiet (s : State) : Quiet s (readyEnd s) :=
  (takeFault_quiet _ s).trans (placeHeld_quiet _)

theorem stuckBusyEnd_quiet (s : State) : Quiet s (stuckBusyEnd s) :=
  (takeFault_quiet _ s).trans (placeHeld_quiet _)

theorem powerOffEnd_quiet (s : State) : Quiet s (powerOffEnd s) :=
  (enterPowerOn_quiet _ _ s).trans (tripTest_quiet _)

theorem healthyEnd_quiet (s : State) : Quiet s (healthyEnd s) := Quiet.setSup s _

theorem reqRestart_quiet (tag : Half) (s : State) : Quiet s (reqRestart tag s) :=
  Quiet.ite (fun _ => ((Quiet.setSup s _).trans (enterPowerOn_quiet _ _ _)).trans (tripTest_quiet _))
    (fun _ => refuse_quiet _ _ _ s)

theorem ownPoll_quiet (s : State) : Quiet s (ownPoll s) := offerOrDrop_quiet _ _ _ s

theorem takePoll_quiet (f : DownFrame) (s : State) : Quiet s (takePoll f s) :=
  handOver_quiet ownPoll_quiet _ _ _ s

end Sys2Proof.Machine
end

