-- ==== Sys2Proof/Laws/Keeps.lean ====
section
/-! SUPPORT. The four laws of Safety.lean across the operations that touch the meter, the trips, the memory, the agent, the path and the resets: one lemma per operation. -/

namespace Sys2Proof.Machine

/-- Each of the four laws carries over from s to t, and the queue of commands is the same. -/
structure Keeps (s t : State) : Prop where
  mem : MemoryLaw s → MemoryLaw t
  events : EventLaw s → EventLaw t
  queue : QueueLaw s → QueueLaw t
  meter : MeterLaw s → MeterLaw t
  pending : t.pending = s.pending

namespace Keeps

theorem refl (s : State) : Keeps s s := ⟨id, id, id, id, rfl⟩

theorem before {s t u : State} (k : Keeps t u) (h : Keeps s t) : Keeps s u :=
  ⟨fun a => k.mem (h.mem a), fun a => k.events (h.events a), fun a => k.queue (h.queue a),
   fun a => k.meter (h.meter a), k.pending.trans h.pending⟩

theorem trans {s t u : State} (h : Keeps s t) (k : Keeps t u) : Keeps s u := before k h

theorem ite {p : Prop} [Decidable p] {s t u : State} (h : p → Keeps s t) (k : ¬p → Keeps s u) :
    Keeps s (if p then t else u) := by
  by_cases c : p
  · rw [if_pos c]; exact h c
  · rw [if_neg c]; exact k c

/-- A state with the same memory, events, queue, meter and open trip. -/
theorem same {s t : State} (h1 : t.mem = s.mem) (h2 : t.evw.generated = s.evw.generated)
    (h3 : t.evw.deposited = s.evw.deposited) (h4 : t.evw.lost = s.evw.lost)
    (h5 : t.evw.queue = s.evw.queue) (h6 : t.uplink.entries = s.uplink.entries)
    (h7 : t.meter = s.meter) (h8 : t.trip.openTrip.isSome = s.trip.openTrip.isSome)
    (h9 : t.pending = s.pending) : Keeps s t :=
  ⟨fun a => by rw [MemoryLaw, h1]; exact a,
   fun a => by rw [EventLaw, h2, h3, h4, h5]; exact a,
   fun a => by rw [QueueLaw, h6]; exact a,
   fun a => by rw [MeterLaw, h7, h8]; exact a, h9⟩

theorem setPhase (s : State) (x : Phase) : Keeps s (s.setPhase x) :=
  same rfl rfl rfl rfl rfl rfl rfl rfl rfl

theorem setClock (s : State) (x : Word) : Keeps s (s.setClock x) :=
  same rfl rfl rfl rfl rfl rfl rfl rfl rfl

theorem setSecs (s : State) (x : Nat) : Keeps s (s.setSecs x) :=
  same rfl rfl rfl rfl rfl rfl rfl rfl rfl

theorem setPath (s : State) (x : Path) : Keeps s (s.setPath x) :=
  same rfl rfl rfl rfl rfl rfl rfl rfl rfl

theorem setAgent (s : State) (x : Agent) : Keeps s (s.setAgent x) :=
  same rfl rfl rfl rfl rfl rfl rfl rfl rfl

theorem setReader (s : State) (x : Reader) : Keeps s (s.setReader x) :=
  same rfl rfl rfl rfl rfl rfl rfl rfl rfl

theorem setPosition (s : State) (x : PositionShadow) : Keeps s (s.setPosition x) :=
  same rfl rfl rfl rfl rfl rfl rfl rfl rfl

theorem setSettings (s : State) (x : SettingsShadow) : Keeps s (s.setSettings x) :=
  same rfl rfl rfl rfl rfl rfl rfl rfl rfl

theorem setEmerg (s : State) (x : Emergency) : Keeps s (s.setEmerg x) :=
  same rfl rfl rfl rfl rfl rfl rfl rfl rfl

theorem setAttn (s : State) (x : Attention) : Keeps s (s.setAttn x) :=
  same rfl rfl rfl rfl rfl rfl rfl rfl rfl

theorem setPins (s : State) (x : Pins) : Keeps s (s.setPins x) :=
  same rfl rfl rfl rfl rfl rfl rfl rfl rfl

theorem setTrip {s : State} {x : TripRecorder} (h : x.openTrip.isSome = s.trip.openTrip.isSome) :
    Keeps s (s.setTrip x) :=
  same rfl rfl rfl rfl rfl rfl rfl h rfl

theorem setEvw {s : State} {x : EventWriter} (h1 : x.generated = s.evw.generated)
    (h2 : x.deposited = s.evw.deposited) (h3 : x.lost = s.evw.lost) (h4 : x.queue = s.evw.queue) :
    Keeps s (s.setEvw x) :=
  same rfl h1 h2 h3 h4 rfl rfl rfl rfl

theorem setMem {s : State} {x : List Host.Cell}
    (h : Memory.wf s.mem = true → Memory.wf x = true) : Keeps s (s.setMem x) :=
  ⟨h, id, id, id, rfl⟩

theorem setMeter {s : State} {x : Meter} (h : MeterLaw s → MeterLaw (s.setMeter x)) :
    Keeps s (s.setMeter x) :=
  ⟨id, id, id, h, rfl⟩

end Keeps

theorem Quiet.keeps {s t : State} (h : Quiet s t) : Keeps s t :=
  ⟨fun a => by rw [MemoryLaw, h.mem]; exact a, h.events, h.queue,
   fun a => by rw [MeterLaw, h.meter, h.openTrip]; exact a, h.pending⟩

/-! ### The fare meter -/

theorem updateTrip_keeps (f : TripRecord → TripRecord) (s : State) : Keeps s (updateTrip f s) :=
  Keeps.setTrip (by simp [Option.isSome_map])

theorem tariffBounds {t : Tariff} (h : TariffLaw t) :
    t.flagDrop ≤ 65535 ∧ t.distanceInc ≤ 1048575 ∧ t.timeInc ≤ 1048575 := by
  simp only [TariffLaw, Tariff.valid, Bool.and_eq_true, decide_eq_true_eq] at h
  simp only [Config.incrementMax] at h
  omega

theorem slotTariff_mem {m : Meter} {i : Nat} {t : Tariff} (h : slotTariff m i = some t) :
    some t ∈ m.slots := by
  unfold slotTariff at h
  rw [List.getD_eq_getElem?_getD] at h
  cases hx : m.slots[i]? with
  | none => rw [hx] at h; simp at h
  | some y =>
    rw [hx] at h
    simp only [Option.getD_some] at h
    exact h ▸ List.mem_of_getElem? hx

theorem applyChange_keeps (s : State) : Keeps s (applyChange s) := by
  unfold applyChange
  split
  · rename_i c a hc ha
    split
    · rename_i t ht
      refine Keeps.before (produce_quiet _ _ _).keeps (Keeps.before (updateTrip_keeps _ _)
        (Keeps.setMeter (fun ⟨m1, m2, m3, m4, m5, m6, m7, m8, m9, m10⟩ => ?_)))
      have hs : s.meter.active.isSome = true := by rw [ha]; rfl
      refine ⟨⟨fun _ => m1.mp hs, fun _ => rfl⟩, fun x => by simp at x, fun v => absurd v (m1.mp hs),
        m4, m5, m6, m7, m8, ?_, m10⟩
      intro b hb
      simp only [State.setMeter_meter, Option.some.injEq] at hb
      rw [← hb]
      exact m8 _ (slotTariff_mem ht)
    · exact Keeps.refl s
  · exact Keeps.refl s

/-- A change of the accumulator and of the counters of a meter that is not VACANT. -/
theorem setCounts_keeps {s : State} {x : Meter} (hv : s.meter.state ≠ .vacant)
    (h1 : x.state = s.meter.state) (h2 : x.active = s.meter.active) (h3 : x.change = s.meter.change)
    (h4 : x.slots = s.meter.slots)
    (h5 : MeterLaw s → x.fare ≤ 9999999 ∧ x.extras ≤ 99999 ∧ x.acc < 1048576) :
    Keeps s (s.setMeter x) := by
  refine Keeps.setMeter (fun m => ?_)
  obtain ⟨b1, b2, b3⟩ := h5 m
  obtain ⟨m1, m2, m3, m4, m5, m6, m7, m8, m9, m10⟩ := m
  refine ⟨?_, ?_, ?_, b1, b2, b3, ?_, ?_, ?_, ?_⟩
  · simpa [h1, h2] using m1
  · simpa [h2, h3] using m2
  · intro v
    simp only [State.setMeter_meter, h1] at v
    exact absurd v hv
  · simpa [h4] using m7
  · simpa [h4] using m8
  · simpa [h2] using m9
  · simpa [h1] using m10

theorem stepFare_le {m : Meter} (k : Nat) (_h : m.fare ≤ 9999999) : (stepFare m k).fare ≤ 9999999 := by
  unfold stepFare
  split
  · exact Nat.le_refl _
  · rename_i g
    simp only [Config.fareCap] at g
    simp only
    omega

theorem stepFare_keeps {s : State} (k : Nat) (hv : s.meter.state ≠ .vacant) :
    Keeps s (s.setMeter (stepFare s.meter k)) := by
  refine setCounts_keeps hv ?_ ?_ ?_ ?_ (fun m => ⟨stepFare_le k m.2.2.2.1, ?_, ?_⟩)
  all_goals
    unfold stepFare
    split
    all_goals first | rfl | exact m.2.2.2.2.1 | exact m.2.2.2.2.2.1

theorem takeStep_keeps {a : ActiveCopy} {s : State} (hv : s.meter.state ≠ .vacant) :
    Keeps s (takeStep a s) := by
  unfold takeStep
  exact Keeps.before (applyChange_keeps _) (Keeps.before (updateTrip_keeps _ _) (stepFare_keeps _ hv))

/-- A step taken after a change of the counters. -/
theorem stepAfter_keeps {a : ActiveCopy} {s : State} {x : Meter} (hv : s.meter.state ≠ .vacant)
    (h1 : x.state = s.meter.state) (h2 : x.active = s.meter.active) (h3 : x.change = s.meter.change)
    (h4 : x.slots = s.meter.slots)
    (h5 : MeterLaw s → x.fare ≤ 9999999 ∧ x.extras ≤ 99999 ∧ x.acc < 1048576) :
    Keeps s (takeStep a (s.setMeter x)) :=
  Keeps.before (takeStep_keeps (by rw [State.setMeter_meter, h1]; exact hv))
    (setCounts_keeps hv h1 h2 h3 h4 h5)

theorem less_eq (n k : Nat) : less n k = n - k := by
  unfold less
  omega

theorem threshold_eq : Config.threshold = 1048576 := rfl

theorem addIncrement_keeps {a : ActiveCopy} {inc : Nat} {s : State} (hv : s.meter.state ≠ .vacant)
    (hi : MeterLaw s → inc ≤ 1048575) : Keeps s (addIncrement a inc s) := by
  unfold addIncrement
  refine Keeps.ite (fun _ => ?_) (fun h => ?_)
  · have hb : MeterLaw s → less (s.meter.acc + inc) Config.threshold < 1048576 := fun m => by
      have h1 := m.2.2.2.2.2.1
      have h2 := hi m
      rw [less_eq, threshold_eq]
      omega
    exact stepAfter_keeps hv rfl rfl rfl rfl (fun m => ⟨m.2.2.2.1, m.2.2.2.2.1, hb m⟩)
  · have hb : s.meter.acc + inc < 1048576 := by
      rw [threshold_eq] at h
      omega
    exact setCounts_keeps hv rfl rfl rfl rfl (fun m => ⟨m.2.2.2.1, m.2.2.2.2.1, hb⟩)

theorem rejectPulse_keeps (s : State) : Keeps s (rejectPulse s) := by
  unfold rejectPulse
  exact Keeps.before (raiseFactor_quiet _ _).keeps (Keeps.before
    (Keeps.setTrip (by simp [Option.isSome_map])) (Keeps.setMeter id))

theorem countPulse_keeps (s : State) : Keeps s (countPulse s) := by
  unfold countPulse
  refine Keeps.before (Keeps.setTrip rfl) (Keeps.setMeter
    (fun ⟨m1, m2, m3, m4, m5, m6, m7, m8, m9, m10⟩ =>
      ⟨m1, m2, ?_, m4, m5, m6, m7, m8, m9, m10⟩))
  intro v
  have v' : s.meter.state = .vacant := v
  have b := m3 v'
  simp only [Meter.blank, State.setMeter_meter, v', if_true] at b ⊢
  exact b

theorem chargePulse_keeps (s : State) : Keeps s (chargePulse s) := by
  unfold chargePulse
  split
  · rename_i a hs ha
    have hv : s.meter.state ≠ .vacant := by rw [hs]; decide
    refine Keeps.before (addIncrement_keeps hv ?_)
      (setCounts_keeps hv rfl rfl rfl rfl (fun m => ⟨m.2.2.2.1, m.2.2.2.2.1, m.2.2.2.2.2.1⟩))
    intro m
    exact (tariffBounds (m.2.2.2.2.2.2.2.2.1 a (by simpa using ha))).2.1
  · exact Keeps.refl s

theorem odoPulse_keeps (s : State) : Keeps s (odoPulse s) :=
  Keeps.ite (fun _ => (countPulse_keeps s).trans (chargePulse_keeps _))
    (fun _ => rejectPulse_keeps s)

theorem chargeTime_keeps (s : State) : Keeps s (chargeTime s) := by
  unfold chargeTime
  split
  · rename_i a hs ha
    refine Keeps.ite (fun _ => addIncrement_keeps (by rw [hs]; decide) ?_) (fun _ => Keeps.refl s)
    intro m
    exact (tariffBounds (m.2.2.2.2.2.2.2.2.1 a ha)).2.2
  · exact Keeps.refl s

theorem meterTick_keeps (s : State) : Keeps s (meterTick s) := by
  refine Keeps.before (t := chargeTime s) ?_ (chargeTime_keeps s)
  refine Keeps.setMeter (fun ⟨m1, m2, m3, m4, m5, m6, m7, m8, m9, m10⟩ => ?_)
  cases hs : (chargeTime s).meter.state <;>
    simp only [MeterLaw, Meter.blank, newSecond, countSeconds, hs, State.setMeter_meter,
      State.setMeter_trip] at * <;>
    first
      | exact ⟨m1, m2, m3, m4, m5, m6, m7, m8, m9, m10⟩
      | exact ⟨m1, m2, fun h => absurd h (by decide), m4, m5, m6, m7, m8, m9, m10⟩

theorem reportMeter_quiet (c : Byte) (b : MeterState) (tag : Half) (x y z : Nat) (s : State) :
    Quiet s (reportMeter c b tag x y z s) := produce_quiet _ _ s

theorem hireBid_quiet (i : Nat) (o : Offer) (s : State) : Quiet s (hireBid i o s) := by
  unfold hireBid
  simp only
  split
  · refine Quiet.before (setOffer_quiet _ _ _) ?_
    split
    · exact updateEntry_quiet (by intro _; rfl) (by intro _; rfl) s
    · exact Quiet.refl s
  · have h : Quiet s (match o.bidSeq with
        | some q => withdrawEntry q s
        | none => s) := by
      split
      · exact withdrawEntry_quiet _ s
      · exact Quiet.refl s
    split
    · exact h.trans (closeOffer_quiet _ _ _ _ _)
    · exact (h.trans (offerRelease_quiet _ _)).trans (closeOffer_quiet _ _ _ _ _)

theorem settleJob_quiet (s : State) : Quiet s (settleJob s).1 := by
  unfold settleJob
  split
  · split
    · exact closeOffer_quiet _ _ _ _ s
    · exact hireBid_quiet _ _ s
  · exact Quiet.refl s

/-- A hiring's change of the meter together with the opening of its trip. -/
theorem startTrip_keeps {s : State} {a : ActiveCopy} (id : Option Word)
    (ht : MeterLaw s → TariffLaw a.tariff) :
    Keeps s (openTrip id a (s.setMeter (startHiring a s.meter))) := by
  refine ⟨fun h => h, fun h => h, fun h => h, fun h => ?_, rfl⟩
  have hb := (tariffBounds (ht h)).1
  have hl := ht h
  obtain ⟨m1, m2, m3, m4, m5, m6, m7, m8, m9, m10⟩ := h
  refine ⟨by simp [openTrip, startHiring], by simp [openTrip, startHiring],
    by simp [openTrip, startHiring], ?_, by simp [openTrip, startHiring],
    by simp [openTrip, startHiring], m7, m8, ?_, by simp [openTrip, startHiring]⟩
  · simp only [openTrip, startHiring, State.setTrip_meter, State.setMeter_meter]
    omega
  · intro b hb'
    simp only [openTrip, startHiring, State.setTrip_meter, State.setMeter_meter,
      Option.some.injEq] at hb'
    rw [← hb']
    exact hl

theorem hire_keeps {a : ActiveCopy} {tag : Half} {s : State}
    (ht : some a.tariff ∈ s.meter.slots) : Keeps s (hire a tag s) := by
  unfold hire
  have hq := settleJob_quiet s
  refine Keeps.before (tripTest_quiet _).keeps (Keeps.before (dutyAfter_quiet _ _ _ _).keeps
    (Keeps.before (reportMeter_quiet _ _ _ _ _ _ _).keeps (Keeps.before
      (startTrip_keeps _ (fun m => m.2.2.2.2.2.2.2.1 _ (by rw [hq.meter]; exact ht))) hq.keeps)))

theorem reqHire_keeps (tag : Half) (slot : Byte) (s : State) : Keeps s (reqHire tag slot s) := by
  unfold reqHire
  refine Keeps.ite (fun _ => (refuse_quiet _ _ _ s).keeps) (fun _ => Keeps.ite
    (fun _ => (refuse_quiet _ _ _ s).keeps) (fun _ => ?_))
  split
  · exact (refuse_quiet _ _ _ s).keeps
  · rename_i t ht
    exact (hire_keeps (slotTariff_mem ht)).trans (placeHeld_quiet _).keeps

/-- A meter that changes state without becoming VACANT. -/
theorem setRunning_keeps {s : State} {x : MeterState} (hv : s.meter.state ≠ .vacant)
    (hx : x ≠ .vacant) : Keeps s (s.setMeter { s.meter with state := x }) := by
  refine Keeps.setMeter (fun ⟨m1, m2, m3, m4, m5, m6, m7, m8, m9, m10⟩ => ?_)
  exact ⟨⟨fun _ => hx, fun _ => m1.mpr hv⟩, m2, fun v => absurd v hx, m4, m5, m6, m7, m8, m9,
    ⟨fun _ => hx, fun _ => m10.mpr hv⟩⟩

theorem reqStop_keeps (tag : Half) (s : State) : Keeps s (reqStop tag s) := by
  unfold reqStop
  refine Keeps.ite (fun h => ?_) (fun _ => (refuse_quiet _ _ _ s).keeps)
  exact (setRunning_keeps (by rw [h]; decide) (by decide)).trans (reportMeter_quiet _ _ _ _ _ _ _).keeps

theorem reqResume_keeps (tag : Half) (s : State) : Keeps s (reqResume tag s) := by
  unfold reqResume
  refine Keeps.ite (fun h => ?_) (fun _ => (refuse_quiet _ _ _ s).keeps)
  exact (setRunning_keeps (by rw [h]; decide) (by decide)).trans (reportMeter_quiet _ _ _ _ _ _ _).keeps

theorem reqExtra_keeps (tag amount : Half) (code : Byte) (s : State) :
    Keeps s (reqExtra tag amount code s) := by
  unfold reqExtra
  refine Keeps.ite (fun _ => (refuse_quiet _ _ _ s).keeps) (fun _ => Keeps.ite
    (fun _ => (refuse_quiet _ _ _ s).keeps) (fun hv => ?_))
  refine Keeps.before (reportMeter_quiet _ _ _ _ _ _ _).keeps (setCounts_keeps hv rfl rfl rfl rfl
    (fun m => ⟨m.2.2.2.1, ?_, m.2.2.2.2.2.1⟩))
  have := m.2.2.2.2.1
  simp only [Config.extrasCap]
  omega

theorem beginTask_keeps (s : State) : Keeps s (beginTask s) := by
  unfold beginTask
  refine Keeps.ite (fun _ => ?_) (fun _ => Keeps.refl s)
  split
  · exact Keeps.ite (fun _ => Keeps.setAgent s _) (fun _ => Keeps.refl s)
  · exact Keeps.refl s

theorem requestTask_keeps (k : TaskKind) (s : State) : Keeps s (requestTask k s) :=
  Keeps.ite (fun _ => Keeps.refl s) (fun _ => (Keeps.setAgent s _).trans (beginTask_keeps _))

theorem requestBoxWrite_keeps (s : State) : Keeps s (requestBoxWrite s) := by
  unfold requestBoxWrite
  exact Keeps.ite (fun _ => Keeps.ite (fun _ => Keeps.setEmerg s _)
    (fun _ => (Keeps.setEmerg s _).trans (requestTask_keeps _ _))) (fun _ => Keeps.setEmerg s _)

theorem requestTripLog_keeps (s : State) : Keeps s (requestTripLog s) :=
  Keeps.ite (fun _ => requestTask_keeps _ s) (fun _ => Keeps.refl s)

theorem requestTask_meter (k : TaskKind) (s : State) :
    (requestTask k s).meter = s.meter ∧ (requestTask k s).trip = s.trip ∧
      (requestTask k s).mem = s.mem ∧ (requestTask k s).evw = s.evw ∧
      (requestTask k s).uplink = s.uplink ∧ (requestTask k s).pending = s.pending := by
  unfold requestTask
  split
  · exact ⟨rfl, rfl, rfl, rfl, rfl, rfl⟩
  · unfold beginTask
    split
    · split
      · split <;> exact ⟨rfl, rfl, rfl, rfl, rfl, rfl⟩
      · exact ⟨rfl, rfl, rfl, rfl, rfl, rfl⟩
    · exact ⟨rfl, rfl, rfl, rfl, rfl, rfl⟩

theorem requestTripLog_meter (s : State) :
    (requestTripLog s).meter = s.meter ∧ (requestTripLog s).trip = s.trip ∧
      (requestTripLog s).mem = s.mem ∧ (requestTripLog s).evw = s.evw ∧
      (requestTripLog s).uplink = s.uplink ∧ (requestTripLog s).pending = s.pending := by
  unfold requestTripLog
  split
  · exact requestTask_meter _ s
  · exact ⟨rfl, rfl, rfl, rfl, rfl, rfl⟩

/-- The close of a trip together with the meter's return to VACANT. -/
theorem closeTrip_keeps (tag : Half) (s : State) :
    Keeps s ((closeTrip tag s).setMeter (vacate (closeTrip tag s).meter)) := by
  have key : ∀ u : State, u.meter.slots = s.meter.slots → u.mem = s.mem → u.evw = s.evw →
      u.uplink = s.uplink → u.pending = s.pending → (MeterLaw s → u.trip.openTrip = none) →
      Keeps s (u.setMeter (vacate u.meter)) := by
    intro u h1 h2 h3 h4 hp h5
    refine ⟨fun a => by rw [MemoryLaw, State.setMeter_mem, h2]; exact a,
      fun a => by rw [EventLaw, State.setMeter_evw, h3]; exact a,
      fun a => by rw [QueueLaw, State.setMeter_uplink, h4]; exact a, fun m => ?_, hp⟩
    refine ⟨by simp [vacate], by simp [vacate], fun _ => ⟨rfl, rfl, rfl, rfl, rfl, rfl, rfl, rfl⟩,
      by simp [vacate], by simp [vacate], by simp [vacate], ?_, ?_, by simp [vacate], ?_⟩
    · simp only [State.setMeter_meter, vacate, h1]
      exact m.2.2.2.2.2.2.1
    · simp only [State.setMeter_meter, vacate, h1]
      exact m.2.2.2.2.2.2.2.1
    · simp [vacate, h5 m]
  unfold closeTrip
  split
  · rename_i t0 ht
    simp only
    obtain ⟨a, b, c, d, e, g⟩ := requestTripLog_meter (s.setTrip { s.trip with
      backlog := backlogWith (markUnreported s (closedRecord s t0)) s.trip.backlog,
      shift := s.trip.shift.addTrip (markUnreported s (closedRecord s t0)),
      logWrite := some (markUnreported s (closedRecord s t0)), openTrip := none })
    refine key _ ?_ ?_ ?_ ?_ ?_ ?_
    · simp only [addTripReport, countHeld, State.setBook_meter, State.setTrip_meter, a]
    · simp only [addTripReport, countHeld, State.setBook_mem, State.setTrip_mem, c]
    · simp only [addTripReport, countHeld, State.setBook_evw, State.setTrip_evw, d]
    · simp only [addTripReport, countHeld, State.setBook_uplink, State.setTrip_uplink, e]
    · simp only [addTripReport, countHeld, State.setBook_pending, State.setTrip_pending, g]
    · intro _
      simp only [addTripReport, countHeld, State.setBook_trip, State.setTrip_trip, b]
  · rename_i hn
    exact key s rfl rfl rfl rfl rfl (fun _ => hn)

theorem clearHiring_keeps (tag : Half) (s : State) : Keeps s (clearHiring tag s) := by
  unfold clearHiring
  exact Keeps.before (tripTest_quiet _).keeps (Keeps.before (dutyAfter_quiet _ _ _ _).keeps
    (Keeps.before (reportMeter_quiet _ _ _ _ _ _ _).keeps (closeTrip_keeps tag s)))

theorem reqClear_keeps (tag : Half) (s : State) : Keeps s (reqClear tag s) :=
  Keeps.ite (fun _ => (clearHiring_keeps tag s).trans (placeHeld_quiet _).keeps)
    (fun _ => (refuse_quiet _ _ _ s).keeps)

theorem reqSelect_keeps (tag : Half) (slot : Byte) (s : State) : Keeps s (reqSelect tag slot s) := by
  unfold reqSelect
  refine Keeps.ite (fun _ => (refuse_quiet _ _ _ s).keeps) (fun _ => Keeps.ite
    (fun _ => (refuse_quiet _ _ _ s).keeps) (fun hv => ?_))
  split
  · exact (refuse_quiet _ _ _ s).keeps
  · refine Keeps.before (reportMeter_quiet _ _ _ _ _ _ _).keeps (Keeps.setMeter
      (fun ⟨m1, _, m3, m4, m5, m6, m7, m8, m9, m10⟩ =>
        ⟨m1, fun _ => m1.mpr hv, m3, m4, m5, m6, m7, m8, m9, m10⟩))

theorem tariffBody_valid {b : List Byte} {i : Nat} {t : Tariff} (h : tariffBody b = some (i, t)) :
    TariffLaw t := by
  simp only [tariffBody] at h
  split at h
  · rename_i hc
    simp only [Option.some.injEq, Prod.mk.injEq] at h
    rw [TariffLaw, ← h.2]
    exact hc.2.2
  · exact absurd h (by simp)

theorem ownTariff_keeps (f : DownFrame) (s : State) : Keeps s (ownTariff f s) := by
  unfold ownTariff
  split
  · rename_i slot t ht
    refine Keeps.before (produce_quiet _ _ _).keeps (Keeps.setMeter
      (fun ⟨m1, m2, m3, m4, m5, m6, m7, m8, m9, m10⟩ => ?_))
    refine ⟨m1, ?_, m3, m4, m5, m6, by simpa [loadSlot] using m7, ?_, m9, m10⟩
    · intro h
      by_cases hr : setsReload slot s.meter = true
      · simp only [setsReload, Bool.and_eq_true, bne_iff_ne] at hr
        exact m1.mpr hr.1
      · simp only [State.setMeter_meter, loadSlot, if_neg hr] at h
        exact m2 h
    · intro x hx
      simp only [State.setMeter_meter, loadSlot] at hx
      rcases List.mem_or_eq_of_mem_set hx with h | h
      · exact m8 x h
      · simp only [Option.some.injEq] at h
        rw [h]
        exact tariffBody_valid ht
  · exact Keeps.refl s

theorem handOver_keeps {owner : State → State} (h : ∀ s, Keeps s (owner s)) (c : DownClass)
    (r : AckResult) (f : DownFrame) (s : State) : Keeps s (handOver c owner r f s) := by
  unfold handOver
  refine Keeps.ite (fun _ => Keeps.ite (fun _ => ?_)
    (fun _ => (h s).trans (freeBuffer_quiet _ _ _).keeps))
    (fun _ => ((countUnknown_quiet s).trans (freeBuffer_quiet _ _ _)).keeps)
  split
  · exact ((offerAck_quiet _ _ _ s).trans (freeBuffer_quiet _ _ _)).keeps
  · exact (((h s).trans (offerAck_quiet _ _ _ _).keeps).trans (dedupeAdd_quiet _ _ _).keeps).trans
      (freeBuffer_quiet _ _ _).keeps

theorem takeTariff_keeps (f : DownFrame) (s : State) : Keeps s (takeTariff f s) :=
  handOver_keeps (ownTariff_keeps f) _ _ _ s

end Sys2Proof.Machine
end

