-- ==== Sys2Proof/Laws/KeepsAll.lean ====
section
/-! SUPPORT. The four laws across the trip recorder, the emergency controller, the readers, the owners of snooped words, the path, the agent, the resets and the tick: one lemma per operation. -/

namespace Sys2Proof.Machine

/-! ### Trips -/

theorem closeShift_keeps (tag : Half) (s : State) : Keeps s (closeShift tag s) := by
  unfold closeShift
  exact Keeps.before (Keeps.setTrip rfl) (addTripReport_quiet _ _ s).keeps

theorem reqShiftClose_keeps (tag : Half) (s : State) : Keeps s (reqShiftClose tag s) :=
  Keeps.ite (fun _ => (closeShift_keeps tag s).trans (placeHeld_quiet _).keeps)
    (fun _ => (refuse_quiet _ _ _ s).keeps)

theorem holdoffEnd_quiet (s : State) : Quiet s (holdoffEnd s) :=
  Quiet.before (tripTest_quiet _) (Quiet.setTrip rfl rfl rfl rfl rfl)

/-! ### The emergency controller -/

theorem captureBox_keeps (x : RaiseSource) (s : State) : Keeps s (captureBox x s) := by
  unfold captureBox
  split
  · exact Keeps.refl s
  · exact (Keeps.setEmerg s _).trans (requestBoxWrite_keeps _)

theorem markTripEmergency_keeps (s : State) : Keeps s (markTripEmergency s) :=
  Keeps.setTrip (by simp [Option.isSome_map])

theorem placeRaised_quiet (s t : State) : Quiet t (placeRaised s t) :=
  Quiet.ite (fun _ => Quiet.refl t) (fun _ => placeHeld_quiet t)

theorem raiseTaken_keeps (x : RaiseSource) (tag : Half) (s : State) :
    Keeps s (raiseTaken x tag s) := by
  have h : Keeps s (markTripEmergency (raiseFactor .emergency s)) :=
    (raiseFactor_quiet _ s).keeps.trans (markTripEmergency_keeps _)
  unfold raiseTaken
  refine Keeps.ite (fun _ => ?_) (fun _ => h.trans (setEmReport_quiet _ _ _).keeps)
  exact Keeps.before ((tripTest_quiet _).trans (placeRaised_quiet s _)).keeps
    (Keeps.before (setEmReport_quiet _ _ _).keeps (Keeps.before (Keeps.setEmerg _ _)
      (Keeps.before (offerAlarm_quiet _ _).keeps (Keeps.before (overrideRadio_quiet _).keeps
        (Keeps.before (closeOpen_quiet _ _).keeps h)))))

theorem raise_keeps (x : RaiseSource) (tag : Half) (s : State) : Keeps s (raise x tag s) := by
  unfold raise
  split
  · exact Keeps.before (raiseTaken_keeps _ _ _)
      (Keeps.before (Keeps.setEmerg _ _) (captureBox_keeps x s))
  · exact Keeps.before (raiseTaken_keeps _ _ _) (Keeps.setEmerg s _)
  · exact Keeps.setEmerg s _

theorem reqRaise_keeps (tag : Half) (s : State) : Keeps s (reqRaise tag s) := raise_keeps _ _ s

theorem holdEnd_keeps (s : State) : Keeps s (holdEnd s) :=
  (Keeps.setEmerg s _).trans (raise_keeps _ _ _)

theorem nextAttempt_quiet (s : State) : Quiet s (nextAttempt s) := by
  unfold nextAttempt
  exact Quiet.before (Quiet.setEmerg rfl) (Quiet.before (offerAlarm_quiet _ _) (Quiet.setEmerg rfl))

theorem repeatEnd_quiet (s : State) : Quiet s (repeatEnd s) :=
  Quiet.ite (fun _ => nextAttempt_quiet s) (fun _ => roundEnd_quiet s)

theorem trackNow_quiet (s : State) : Quiet s (trackNow s) := by
  unfold trackNow
  exact Quiet.before (Quiet.setEmerg rfl) (Quiet.before (offerAlarm_quiet _ _) (Quiet.setEmerg rfl))

theorem graceEnd_quiet (s : State) : Quiet s (graceEnd s) := Quiet.setEmerg rfl

theorem cancelCall_quiet (tag : Half) (s : State) : Quiet s (cancelCall tag s) := by
  unfold cancelCall
  exact Quiet.before (setEmReport_quiet _ _ _) (Quiet.before (Quiet.setEmerg rfl)
    (Quiet.before (offerAlarm_quiet _ _) (Quiet.setEmerg rfl)))

theorem reqCancel_quiet (tag : Half) (s : State) : Quiet s (reqCancel tag s) := by
  have h : Quiet s (if s.emerg.graceTimer.isSome then placeHeld (cancelCall tag s)
      else refuse 0x0D .graceOver tag s) :=
    Quiet.ite (fun _ => (cancelCall_quiet tag s).trans (placeHeld_quiet _))
      (fun _ => refuse_quiet _ _ _ s)
  unfold reqCancel
  split
  · exact refuse_quiet _ _ _ s
  · exact h
  · exact h
  · exact refuse_quiet _ _ _ s
  · exact refuse_quiet _ _ _ s

theorem clearBox_keeps (tag : Half) (s : State) : Keeps s (clearBox tag s) :=
  ((Keeps.setEmerg s _).trans (requestBoxWrite_keeps _)).trans (setEmReport_quiet _ _ _).keeps

theorem reqBoxClear_keeps (tag : Half) (s : State) : Keeps s (reqBoxClear tag s) :=
  Keeps.ite (fun _ => (clearBox_keeps tag s).trans (placeHeld_quiet _).keeps)
    (fun _ => (refuse_quiet _ _ _ s).keeps)

theorem startTracking_quiet (s : State) : Quiet s (startTracking s) := by
  unfold startTracking
  exact Quiet.before (setEmReport_quiet _ _ _) (Quiet.before (Quiet.setEmerg rfl)
    (withdrawAlarm_quiet s))

theorem ownAlarmAck_quiet (f : DownFrame) (s : State) : Quiet s (ownAlarmAck f s) := by
  unfold ownAlarmAck
  refine Quiet.ite (fun _ => ?_) (fun _ => Quiet.refl s)
  split
  all_goals first | exact startTracking_quiet s | exact Quiet.refl s

theorem takeAlarmAck_quiet (f : DownFrame) (s : State) : Quiet s (takeAlarmAck f s) :=
  ((handOver_quiet (ownAlarmAck_quiet f) _ _ _ s).trans (tripTest_quiet _)).trans (placeHeld_quiet _)

theorem endCall_quiet (s : State) : Quiet s (endCall s) := by
  unfold endCall
  exact Quiet.before (setEmReport_quiet _ _ _) (Quiet.before (Quiet.setEmerg rfl)
    (withdrawAlarm_quiet s))

theorem ownAlarmEnd_quiet (f : DownFrame) (s : State) : Quiet s (ownAlarmEnd f s) :=
  Quiet.ite (fun _ => endCall_quiet s) (fun _ => Quiet.refl s)

theorem takeAlarmEnd_quiet (f : DownFrame) (s : State) : Quiet s (takeAlarmEnd f s) :=
  ((handOver_quiet (ownAlarmEnd_quiet f) _ _ _ s).trans (tripTest_quiet _)).trans (placeHeld_quiet _)

/-! ### The readers -/

theorem giveRequest_keeps (r : RequestRecord) (s : State) : Keeps s (giveRequest r s) := by
  unfold giveRequest
  split
  · exact (reqAccept_quiet _ _ s).keeps
  · exact (reqDecline_quiet _ _ s).keeps
  · exact (reqDuty_quiet _ _ s).keeps
  · exact (reqSendText_quiet _ _ _ s).keeps
  · exact reqHire_keeps _ _ s
  · exact reqStop_keeps _ s
  · exact reqResume_keeps _ s
  · exact reqExtra_keeps _ _ _ s
  · exact reqClear_keeps _ s
  · exact reqSelect_keeps _ _ s
  · exact reqShiftClose_keeps _ s
  · exact reqRaise_keeps _ s
  · exact (reqCancel_quiet _ s).keeps
  · exact reqBoxClear_keeps _ s
  · exact (reqRestart_quiet _ s).keeps

theorem checkRequest_keeps (r : RequestRecord) (s : State) : Keeps s (checkRequest r s) :=
  Keeps.ite (fun _ => (refuse_quiet _ _ _ s).keeps)
    (fun _ => Keeps.ite (fun _ => (refuse_quiet _ _ _ s).keeps) (fun _ => giveRequest_keeps r s))

theorem takeRequest_keeps (b : List Byte) (s : State) : Keeps s (takeRequest b s) :=
  (((checkRequest_keeps _ s).trans (Keeps.setReader _ _)).trans (requestTask_keeps _ _)).trans
    (placeHeld_quiet _).keeps

theorem reqUnknown_quiet (tag : Half) (c : Byte) (s : State) : Quiet s (reqUnknown tag c s) :=
  Quiet.ite (fun _ => Quiet.refl s) (fun _ => refuse_quiet _ _ _ s)

theorem takeFrame_keeps (c : Byte) (f : DownFrame) (s : State) : Keeps s (takeFrame c f s) := by
  unfold takeFrame
  split
  · exact (takeOffer_quiet f s).keeps
  · exact (takeWithdraw_quiet f s).keeps
  · exact (takeAward_quiet f s).keeps
  · exact (takeReject_quiet f s).keeps
  · exact (takeText_quiet f s).keeps
  · exact takeTariff_keeps f s
  · exact (takeAlarmAck_quiet f s).keeps
  · exact (takeAlarmEnd_quiet f s).keeps
  · exact (takeAck_quiet f s).keeps
  · exact (takePoll_quiet f s).keeps
  · exact (takeChannel_quiet f s).keeps
  · exact (freeBuffer_quiet c f s).keeps

theorem takeNext_keeps (s : State) : Keeps s (takeNext s) := by
  unfold takeNext
  refine Keeps.ite (fun _ => ?_) (fun _ => Keeps.refl s)
  split
  · exact Keeps.ite (fun _ => (countDrawn_quiet s).keeps.trans (takeRequest_keeps _ _))
      (fun _ => (countDrawn_quiet s).keeps.trans (takeFrame_keeps _ _ _))
  · exact takeRequest_keeps _ s
  · exact takeFrame_keeps _ _ s
  · exact Keeps.refl s

theorem takeOneWork_keeps (s : State) : Keeps s (takeOneWork s) :=
  (placeHeld_quiet s).keeps.trans (takeNext_keeps _)

theorem takeWork_keeps (s : State) : Keeps s (takeWork s) :=
  ((takeOneWork_keeps s).trans (takeOneWork_keeps _)).trans (takeOneWork_keeps _)

/-! ### The receiver -/

theorem goodFrame_quiet (c : Byte) (f : DownFrame) (s : State) : Quiet s (goodFrame c f s) := by
  unfold goodFrame
  exact Quiet.ite (fun _ => Quiet.ite (fun _ => Quiet.setRx s _) (fun _ => Quiet.setRx s _))
    (fun _ => Quiet.setRx s _)

theorem judge_quiet (b : List Byte) (c : Bool) (s : State) : Quiet s (judge b c s) :=
  Quiet.ite (fun _ => badFrame_quiet s) (fun _ => goodFrame_quiet _ _ s)

theorem storeChar_quiet (d : Byte) (c : Bool) (s : State) : Quiet s (storeChar d c s) := by
  unfold storeChar
  simp only
  split
  · exact Quiet.ite (fun _ => Quiet.setRx s _) (fun _ => Quiet.ite (fun _ => badFrame_quiet s)
      (fun _ => Quiet.ite (fun _ => Quiet.setRx s _) (fun _ => Quiet.setRx s _)))
  · exact Quiet.ite (fun _ => Quiet.setRx s _) (fun _ => Quiet.setRx s _)
  · exact Quiet.ite (fun _ => Quiet.setRx s _) (fun _ => judge_quiet _ _ s)

theorem skipChar_quiet (d : Byte) (s : State) : Quiet s (skipChar d s) := by
  unfold skipChar
  exact Quiet.ite (fun _ => skipEnd_quiet s) (fun _ => Quiet.setRx s _)

theorem deframe_quiet (d : Byte) (c : Bool) (s : State) : Quiet s (deframe d c s) := by
  unfold deframe
  split
  · exact Quiet.ite (fun _ => Quiet.setRx s _) (fun _ => Quiet.refl s)
  · exact Quiet.ite (fun _ => Quiet.setRx s _) (fun _ => Quiet.ite (fun _ => Quiet.refl s)
      (fun _ => Quiet.setRx s _))
  · exact storeChar_quiet d c s
  · exact storeChar_quiet d c s
  · exact storeChar_quiet d c s
  · exact skipChar_quiet d s

theorem receiveChar_keeps (b : Byte) (p x y : Bool) (s : State) :
    Keeps s (receiveChar b p x y s) := by
  unfold receiveChar
  simp only
  split
  · exact ((deframe_quiet _ _ s).trans (linkReact_quiet _)).keeps.trans (takeWork_keeps _)
  · exact (deframe_quiet _ _ s).keeps

theorem gapEnd_quiet (s : State) : Quiet s (gapEnd s) := by
  have h := (badFrame_quiet s).trans (linkReact_quiet _)
  unfold gapEnd
  split
  · exact h
  · exact h
  · exact h
  · exact (skipEnd_quiet s).trans (linkReact_quiet _)
  · exact Quiet.refl s
  · exact Quiet.refl s

/-! ### The owners of snooped words -/

theorem takeProducer_keeps (v : Word) (s : State) : Keeps s (takeProducer v s) :=
  Keeps.ite (fun _ => Keeps.setReader s _) (fun _ => (raiseFactor_quiet _ s).keeps)

theorem takeConsumer_keeps (v : Word) (s : State) : Keeps s (takeConsumer v s) :=
  Keeps.ite (fun _ => Keeps.setEvw rfl rfl rfl rfl) (fun _ => (raiseFactor_quiet _ s).keeps)

theorem restartLink_quiet (tag : Half) (s : State) : Quiet s (restartLink tag s) := by
  unfold restartLink
  split
  · exact Quiet.ite (fun _ => Quiet.refl s) (fun _ => enterPowerOn_quiet _ _ s)
  · exact enterPowerOn_quiet _ _ s
  · exact Quiet.refl s
  · exact Quiet.refl s
  · exact enterListen_quiet s

theorem adoptSettings_keeps (s : State) : Keeps s (adoptSettings s) := by
  unfold adoptSettings
  exact Keeps.ite (fun _ => Keeps.setSettings s _)
    (fun _ => (Keeps.setSettings s _).trans (Keeps.setClock _ _))

theorem acceptCommit_keeps (tag : Half) (s : State) : Keeps s (acceptCommit tag s) := by
  unfold acceptCommit
  exact Keeps.before (tripTest_quiet _).keeps
    (Keeps.before (closeOpen_quiet _ _).keeps (Keeps.before (restartLink_quiet _ _).keeps
      (Keeps.before ((Quiet.setRx _ _).trans (Quiet.setLink _ _)).keeps (adoptSettings_keeps s))))

theorem recordCommit_keeps (tag : Half) (o : CommitOutcome) (n : Nat) (s : State) :
    Keeps s (recordCommit tag o n s) := by
  unfold recordCommit
  exact Keeps.before (setSettingsReport_quiet _ _ _).keeps
    (Keeps.before (Keeps.setEvw rfl rfl rfl rfl) (Keeps.setSettings s _))

theorem judgeCommit_keeps (tag : Half) (s : State) : Keeps s (judgeCommit tag s) := by
  unfold judgeCommit
  refine Keeps.ite (fun _ => recordCommit_keeps _ _ _ s) (fun _ => ?_)
  split
  · exact recordCommit_keeps _ _ _ s
  · exact (acceptCommit_keeps tag s).trans (recordCommit_keeps _ _ _ _)

theorem takeCommit_keeps (v : Word) (s : State) : Keeps s (takeCommit v s) :=
  (judgeCommit_keeps _ s).trans (placeHeld_quiet _).keeps

theorem takePosition_keeps (s : State) : Keeps s (takePosition s) := by
  unfold takePosition
  split
  · exact Keeps.setPosition s _
  · exact (raiseFactor_quiet _ s).keeps

theorem writeAttention_keeps (v : Word) (s : State) : Keeps s (writeAttention v s) :=
  Keeps.setAttn s _

theorem writeEnables_keeps (v : Word) (s : State) : Keeps s (writeEnables v s) := Keeps.setAttn s _

theorem snoopTake_keeps (off : Nat) (v : Word) (s : State) : Keeps s (snoopTake off v s) := by
  unfold snoopTake
  refine Keeps.ite (fun _ => Keeps.setSettings s _) (fun _ => ?_)
  refine Keeps.ite (fun _ => takeCommit_keeps v s) (fun _ => ?_)
  refine Keeps.ite (fun _ => takeProducer_keeps v s) (fun _ => ?_)
  refine Keeps.ite (fun _ => takeConsumer_keeps v s) (fun _ => ?_)
  refine Keeps.ite (fun _ => Keeps.setPosition s _) (fun _ => ?_)
  refine Keeps.ite (fun _ => takePosition_keeps s) (fun _ => ?_)
  exact Keeps.ite (fun _ => writeEnables_keeps v s) (fun _ => Keeps.refl s)

theorem writeLanes_keeps (a : Nat) (l : BitVec 4) (v : Word) (s : State) :
    Keeps s (s.setMem (Memory.writeLanes s.mem a l v)) :=
  Keeps.setMem (fun h => Memory.wf_writeLanes a l v h)

theorem snoopedWrite_keeps (off : Nat) (l : BitVec 4) (v : Word) (s : State) :
    Keeps s (snoopedWrite off l v s) := by
  unfold snoopedWrite
  exact Keeps.ite (fun _ => (writeLanes_keeps _ _ _ s).trans (snoopTake_keeps _ _ _))
    (fun _ => (writeLanes_keeps _ _ _ s).trans (raiseFactor_quiet _ _).keeps)

theorem whenOpen_keeps {f : State → State} (h : ∀ s, Keeps s (f s)) (s : State) :
    Keeps s (whenOpen f s) := Keeps.ite (fun _ => h s) (fun _ => Keeps.refl s)

theorem guardViolation_keeps (s : State) : Keeps s (guardViolation s) :=
  (Keeps.setPath s _).trans (raiseFactor_quiet _ _).keeps

theorem latchAndAnswer_keeps (s : State) : Keeps s (latchAndAnswer s) :=
  (Keeps.setPath s _).trans (Keeps.setPath _ _)

/-! ### The path -/

theorem arbitrate_keeps (s : State) : Keeps s (arbitrate s) := by
  unfold arbitrate
  refine Keeps.ite (fun _ => ?_) (fun _ => Keeps.refl s)
  split
  · exact Keeps.ite (fun _ => Keeps.setPath s _) (fun _ => Keeps.setPath s _)
  · exact Keeps.setPath s _
  · exact Keeps.setPath s _
  · exact Keeps.refl s

theorem completeInside_keeps (off : Nat) (a : Access) (s : State) :
    Keeps s (completeInside off a s) := by
  unfold completeInside
  split
  · split
    · exact Keeps.setPath s _
    · exact Keeps.ite (fun _ => writeAttention_keeps _ s) (fun _ => (raiseFactor_quiet _ s).keeps)
  · split
    · exact Keeps.ite (fun _ => latchAndAnswer_keeps s) (fun _ => Keeps.setPath s _)
    · exact guardViolation_keeps s
  · exact guardViolation_keeps s

theorem treatAccess_keeps (off : Nat) (a : Access) (s : State) : Keeps s (treatAccess off a s) :=
  Keeps.ite (fun _ => Keeps.setPath s _)
    (fun _ => (Keeps.setPath s _).trans (completeInside_keeps _ _ _))

theorem classify_keeps (a : Access) (s : State) : Keeps s (classify a s) := by
  unfold classify
  refine Keeps.ite (fun _ => ?_) (fun _ => Keeps.setPath s _)
  split
  · split
    · exact Keeps.ite (fun _ => treatAccess_keeps _ _ s) (fun _ => Keeps.setPath s _)
    · exact Keeps.setPath s _
  · exact Keeps.setPath s _

theorem resumeAccess_keeps (s : State) : Keeps s (resumeAccess s) := by
  unfold resumeAccess
  split
  · exact Keeps.ite (fun _ => classify_keeps _ s) (fun _ => Keeps.refl s)
  · exact Keeps.refl s

theorem accessMemory_keeps (a : Access) (s : State) : Keeps s (accessMemory a s) := by
  unfold accessMemory
  split
  · exact Keeps.setPath s _
  · exact writeLanes_keeps _ _ _ s

theorem snoopAccess_keeps (a : Access) (s : State) : Keeps s (snoopAccess a s) := by
  unfold snoopAccess
  split
  · exact Keeps.ite (fun _ => snoopTake_keeps _ _ s) (fun _ => (raiseFactor_quiet _ s).keeps)
  · exact Keeps.refl s

theorem finishAccess_keeps (a : Access) (s : State) : Keeps s (finishAccess a s) :=
  Keeps.before (snoopAccess_keeps a _) (Keeps.before (Keeps.setPath _ _)
    (Keeps.before (Keeps.setPath _ _) (accessMemory_keeps a s)))

/-! ### The agent -/

theorem agentWrite_keeps (off : Nat) (v : Word) (s : State) : Keeps s (agentWrite off v s) :=
  writeLanes_keeps _ _ _ s

theorem wordToMemory_keeps (w : AgentWord) (s : State) : Keeps s (wordToMemory w s) := by
  unfold wordToMemory
  split
  all_goals first | exact Keeps.refl s | exact agentWrite_keeps _ _ s

theorem deposit_keeps (v : Nat) (s : State) : Keeps s (deposit v s) := by
  unfold deposit
  split
  · rename_i e es hq
    refine Keeps.before (raiseFactor_quiet _ _).keeps ⟨id, fun ⟨a, b⟩ => ⟨?_, ?_⟩, id, id, rfl⟩
    · simp only [State.setEvw_evw]
      rw [a, hq, List.length_cons, BitVec.ofNat_add, BitVec.add_comm (BitVec.ofNat 32 es.length)]
      simp only [BitVec.add_assoc]
      rfl
    · simp only [State.setEvw_evw]
      rw [hq, List.length_cons] at b
      omega
  · exact Keeps.refl s

theorem wordToPart_keeps (w : AgentWord) (s : State) : Keeps s (wordToPart w s) := by
  unfold wordToPart
  split
  · split
    · exact Keeps.setAgent s _
    · exact Keeps.refl s
  · exact Keeps.setEvw rfl rfl rfl rfl
  · exact Keeps.setEvw rfl rfl rfl rfl
  · exact deposit_keeps _ s
  · exact Keeps.refl s
  · exact Keeps.refl s

theorem setWords_keeps (ws : List AgentWord) (s : State) : Keeps s (setWords ws s) := by
  unfold setWords
  split
  · exact Keeps.setAgent s _
  · exact Keeps.refl s

theorem fetchDone_keeps (b : List Byte) (s : State) : Keeps s (fetchDone b s) :=
  (Keeps.setReader s _).trans (takeWork_keeps _)

theorem tripLogDone_keeps (n : Nat) (s : State) : Keeps s (tripLogDone n s) := by
  unfold tripLogDone
  split
  · exact Keeps.ite (fun _ => Keeps.setTrip rfl)
      (fun _ => Keeps.before (requestTask_keeps _ _) (Keeps.setTrip rfl))
  · exact Keeps.refl s

theorem boxWriteDone_keeps (s : State) : Keeps s (boxWriteDone s) := by
  unfold boxWriteDone
  split
  · exact (Keeps.setEmerg s _).trans (requestTask_keeps _ _)
  · exact Keeps.setEmerg s _
  · exact Keeps.setEmerg s _

theorem taskReport_keeps (t : Task) (s : State) : Keeps s (taskReport t s) := by
  unfold taskReport
  split
  · exact fetchDone_keeps _ s
  · exact Keeps.refl s
  · exact Keeps.refl s
  · exact tripLogDone_keeps _ s
  · exact boxWriteDone_keeps s

theorem clearPass_keeps (s : State) : Keeps s (clearPass s) :=
  Keeps.ite (fun _ => Keeps.setPath s _) (fun _ => Keeps.refl s)

theorem completeTask_keeps (s : State) : Keeps s (completeTask s) := by
  unfold completeTask
  split
  · refine Keeps.before (beginTask_keeps _) (Keeps.before (taskReport_keeps _ _) ?_)
    exact (Keeps.setAgent s _).trans (clearPass_keeps _)
  · exact Keeps.refl s

theorem afterWord_keeps (w : AgentWord) (s : State) : Keeps s (afterWord w s) := by
  unfold afterWord
  split
  · exact (placeHeld_quiet s).keeps.trans (takeWork_keeps _)
  · exact Keeps.refl s

theorem taskWordEnd_keeps (w : AgentWord) (ws : List AgentWord) (s : State) :
    Keeps s (taskWordEnd w ws s) := by
  have h : ∀ x, Keeps s (afterWord w (setWords x (wordToPart w (wordToMemory w s)))) := fun x =>
    (((wordToMemory_keeps w s).trans (wordToPart_keeps w _)).trans (setWords_keeps _ _)).trans
      (afterWord_keeps w _)
  unfold taskWordEnd
  exact Keeps.ite (fun _ => (h _).trans (completeTask_keeps _)) (fun _ => h _)

theorem initialBoxMark_keeps (s : State) : Keeps s (initialBoxMark s) := boxWriteDone_keeps s

theorem initialDone_keeps (s : State) : Keeps s (initialDone s) := by
  have h : Keeps s (beginTask (s.setAgent { s.agent with initial := .done })) :=
    (Keeps.setAgent s _).trans (beginTask_keeps _)
  unfold initialDone
  refine Keeps.before (resumeAccess_keeps _) (Keeps.before (initialBoxMark_keeps _) ?_)
  exact Keeps.ite (fun _ => h.trans (requestTask_keeps _ _)) (fun _ => h)

theorem initialWordEnd_keeps (off : Nat) (v : Word) (left : List (Nat × Word)) (s : State) :
    Keeps s (initialWordEnd off v left s) := by
  have h := (agentWrite_keeps off v s).trans
    (Keeps.setAgent _ { s.agent with initial := .writing left })
  unfold initialWordEnd
  exact Keeps.ite (fun _ => h.trans (initialDone_keeps _)) (fun _ => h)

theorem agentStep_keeps (s : State) : Keeps s (agentStep s) := by
  unfold agentStep
  split
  · exact initialWordEnd_keeps _ _ _ s
  · split
    · split
      · exact taskWordEnd_keeps _ _ s
      · exact completeTask_keeps s
      · exact beginTask_keeps s
    · exact Keeps.refl s
  · exact Keeps.refl s

theorem runTask_keeps (n : Nat) (s : State) : Keeps s (runTask n s) := by
  induction n generalizing s with
  | zero => exact Keeps.refl s
  | succ n ih =>
    exact Keeps.ite (fun _ => agentStep_keeps s) (fun _ => (agentStep_keeps s).trans (ih _))

theorem runToDeposit_keeps (n : Nat) (s : State) : Keeps s (runToDeposit n s) := by
  induction n generalizing s with
  | zero => exact Keeps.refl s
  | succ n ih =>
    exact Keeps.ite (fun _ => agentStep_keeps s) (fun _ => (agentStep_keeps s).trans (ih _))

theorem withPort_keeps {f : State → State} (h : ∀ s, Keeps s (f s)) (s : State) :
    Keeps s (withPort f s) :=
  ((Keeps.setPath s _).trans (h _)).trans (Keeps.setPath _ _)

theorem writeAll_keeps (l : List (Nat × Word)) (s : State) : Keeps s (writeAll l s) := by
  induction l generalizing s with
  | nil => exact Keeps.refl s
  | cons p l ih => exact (agentWrite_keeps _ _ s).trans (ih _)

theorem startEventTask_keeps (s : State) : Keeps s (startEventTask s) :=
  Keeps.ite (fun _ => Keeps.ite (fun _ => requestTask_keeps _ s)
    (fun _ => Keeps.ite (fun _ => requestTask_keeps _ s) (fun _ => Keeps.refl s)))
    (fun _ => Keeps.refl s)

/-! ### The resets -/

/-- The laws of the events, the queue and the meter hold after a full reset, whatever was before. -/
theorem fullReset_laws (s : State) :
    EventLaw (fullReset s) ∧ QueueLaw (fullReset s) ∧ MeterLaw (fullReset s) := by
  refine ⟨⟨rfl, Nat.zero_le _⟩, ⟨Nat.zero_le _, fun _ => Nat.zero_le _, List.nodup_nil⟩, ?_⟩
  refine ⟨⟨fun h => absurd h Bool.false_ne_true, fun h => absurd rfl h⟩,
    fun h => absurd h Bool.false_ne_true, fun _ => ⟨rfl, rfl, rfl, rfl, rfl, rfl, rfl, rfl⟩,
    Nat.zero_le _, Nat.zero_le _, Nat.succ_pos _, rfl, ?_, ?_,
    ⟨fun h => absurd h Bool.false_ne_true, fun h => absurd rfl h⟩⟩
  · intro t ht
    exact absurd ht (by simp [fullReset, State.reset, Meter.reset])
  · intro a ha
    exact absurd ha (by simp [fullReset, State.reset, Meter.reset])

/-- After a full reset the laws hold of everything but memory, which stays. -/
theorem fullReset_keeps (s : State) : Keeps s (fullReset s) :=
  ⟨id, fun _ => (fullReset_laws s).1, fun _ => (fullReset_laws s).2.1,
   fun _ => (fullReset_laws s).2.2, rfl⟩

theorem finishPort_keeps (s : State) : Keeps s (finishPort s) := by
  unfold finishPort
  split
  · split
    · exact wordToMemory_keeps _ s
    · exact Keeps.refl s
  · split
    · split
      · exact writeLanes_keeps _ _ _ s
      · exact Keeps.refl s
    · exact Keeps.refl s
  · exact Keeps.refl s

theorem clearBlocks_keeps (s : State) : Keeps s (clearBlocks s) :=
  ⟨id, fun _ => (fullReset_laws s).1, fun _ => (fullReset_laws s).2.1, id, rfl⟩

theorem settleTrip_quiet (s : State) : Quiet s (settleTrip s) :=
  Quiet.ite (fun _ => tripLeaves_quiet s) (fun _ => Quiet.refl s)

theorem assertReset_keeps (s : State) : Keeps s (assertReset s) := by
  unfold assertReset
  exact Keeps.before (clearBlocks_keeps _) (Keeps.before (Keeps.setEmerg _ _)
    (Keeps.before (settleTrip_quiet _).keeps (Keeps.before (finishPort_keeps _)
      (arbitrate_keeps s))))

theorem sampleLines_keeps (s : State) : Keeps s (sampleLines s) := by
  unfold sampleLines
  refine Keeps.before (Keeps.setPhase _ _) ?_
  exact Keeps.ite (fun _ => (Keeps.setPath s _).trans (Keeps.setEmerg _ _))
    (fun _ => Keeps.setPath s _)

theorem startSupervisor_quiet (s : State) : Quiet s (startSupervisor s) :=
  Quiet.ite (fun _ => (Quiet.setLink s _).trans (reportLink_quiet _ _ _ _ _))
    (fun _ => ((Quiet.setSup s _).trans (Quiet.setLink _ _)).trans (reportLink_quiet _ _ _ _ _))

theorem checkReady_quiet (s : State) : Quiet s (checkReady s) :=
  Quiet.ite (fun _ => rdyUp_quiet s) (fun _ => Quiet.refl s)

theorem resumeCall_quiet (s : State) : Quiet s (resumeCall s) := by
  unfold resumeCall
  split
  · exact Quiet.before (Quiet.setEmerg rfl)
      (Quiet.before (offerAlarm_quiet _ _) (Quiet.setEmerg rfl))
  · exact Quiet.setEmerg rfl
  · exact trackNow_quiet s
  · exact Quiet.refl s
  · exact Quiet.refl s

theorem restartHoldoff_quiet (s : State) : Quiet s (restartHoldoff s) :=
  Quiet.setTrip rfl rfl rfl rfl rfl

theorem presentConditions_quiet (s : State) : Quiet s (presentConditions s) := Quiet.setAttn s _

theorem releaseReset_keeps (s : State) : Keeps s (releaseReset s) := by
  unfold releaseReset
  exact Keeps.before (arbitrate_keeps _) (Keeps.before (placeHeld_quiet _).keeps
    (Keeps.before (resumeAccess_keeps _) (Keeps.before (Keeps.setAgent _ _)
    (Keeps.before (presentConditions_quiet _).keeps (Keeps.before (tripTest_quiet _).keeps
    (Keeps.before (resumeCall_quiet _).keeps (Keeps.before (checkReady_quiet _).keeps
    (Keeps.before (restartHoldoff_quiet _).keeps (Keeps.before (Keeps.setPath _ _)
    (Keeps.before (startSupervisor_quiet _).keeps (sampleLines_keeps s)))))))))))

/-! ### The second tick -/

/-- Counting the timers touches the timers alone. -/
theorem countTimers_quiet (s : State) : Quiet s (countTimers s) := by
  have o : ∀ u, Quiet u (tickOffers u) := fun u => Quiet.setOffers u _
  have p : ∀ u, Quiet u (tickSup u) := fun u => Quiet.setSup u _
  have e : ∀ u, Quiet u (tickEmerg u) := fun u => Quiet.setEmerg rfl
  have l : ∀ u, Quiet u (tickLink u) := fun u => (Quiet.setTrip (s := u)
    (x := { u.trip with holdoff := countDown u.trip.holdoff }) rfl rfl rfl rfl rfl).trans
      (Quiet.setLink _ _)
  exact (((o s).trans (p _)).trans (e _)).trans (l _)

theorem markTick_quiet (b : Bool) (s : State) : Quiet s (markTick b s) := Quiet.setBook s _

theorem openTick_quiet (s : State) : Quiet s (openTick s) :=
  Quiet.ite (fun _ => Quiet.refl s) (fun _ => (markTick_quiet true s).trans (countTimers_quiet _))

theorem atTick_quiet {timer : State → Option Nat} {f : State → State} (h : ∀ s, Quiet s (f s))
    (s : State) : Quiet s (atTick timer f s) :=
  Quiet.ite (fun _ => (openTick_quiet s).trans (h _)) (fun _ => Quiet.refl s)

/-- Sparing timers touches the timers alone. -/
theorem spareSup_quiet (s t : State) : Quiet t (spareSup s t) :=
  (Quiet.setSup t _).trans (Quiet.setLink _ _)

theorem spareCall_quiet (s t : State) : Quiet t (spareCall s t) := Quiet.setEmerg rfl

theorem spareRaise_quiet (s t : State) : Quiet t (spareRaise s t) :=
  Quiet.ite (fun _ => (spareCall_quiet s t).trans (spareSup_quiet s _))
    (fun _ => spareCall_quiet s t)

theorem spareRelease_quiet (s t : State) : Quiet t (spareRelease s t) :=
  ((spareCall_quiet s t).trans (spareSup_quiet s _)).trans
    (Quiet.setTrip rfl rfl rfl rfl rfl)

theorem lateTick_quiet {taken : State → Bool} {keep : State → State → State}
    (k : ∀ s t, Quiet t (keep s t)) (s : State) : Quiet s (lateTick taken keep s) :=
  Quiet.ite (fun _ => (openTick_quiet s).trans (k s _)) (fun _ => Quiet.refl s)

theorem atTickOr_quiet {timer : State → Option Nat} {f : State → State} {taken : State → Bool}
    {keep : State → State → State} (h : ∀ s, Quiet s (f s)) (k : ∀ s t, Quiet t (keep s t))
    (s : State) : Quiet s (atTickOr timer f taken keep s) :=
  Quiet.ite (fun _ => (openTick_quiet s).trans (h _)) (fun _ => lateTick_quiet k s)

theorem countTick_keeps (s : State) : Keeps s (countTick s) := by
  unfold countTick
  have h : Keeps s (tickFix (tickClock s)) :=
    Keeps.before (Keeps.ite (fun _ => Keeps.setPosition _ _) (fun _ => Keeps.refl _))
      ((Keeps.setClock s _).trans (Keeps.setSecs _ _))
  exact Keeps.before (markTick_quiet _ _).keeps (Keeps.before (openTick_quiet _).keeps h)

theorem whenDue_quiet {timer : State → Option Nat} {f : State → State} (h : ∀ s, Quiet s (f s))
    (s : State) : Quiet s (whenDue timer f s) :=
  Quiet.ite (fun _ => h s) (fun _ => Quiet.refl s)

theorem endSup_quiet (s : State) : Quiet s (endSup s) :=
  (((whenDue_quiet healthyEnd_quiet s).trans (whenDue_quiet stuckBusyEnd_quiet _)).trans
    (whenDue_quiet readyEnd_quiet _)).trans (whenDue_quiet powerOffEnd_quiet _)

theorem endWindows_quiet (n : Nat) (s : State) : Quiet s (endWindows n s) := by
  induction n with
  | zero => exact Quiet.refl s
  | succ n ih => exact ih.trans (whenDue_quiet (windowEnd_quiet n) _)

theorem endDwell_quiet (s : State) : Quiet s (endDwell s) := by
  unfold endDwell
  split
  · exact Quiet.ite (fun _ => dwellEnd_quiet s) (fun _ => Quiet.refl s)
  · exact Quiet.refl s

theorem endEmerg_quiet (s : State) : Quiet s (endEmerg s) :=
  (((whenDue_quiet repeatEnd_quiet s).trans (whenDue_quiet nextRound_quiet _)).trans
    (whenDue_quiet trackNow_quiet _)).trans (whenDue_quiet graceEnd_quiet _)

theorem endTimers_quiet (s : State) : Quiet s (endTimers s) :=
  (((((endSup_quiet s).trans (endWindows_quiet _ _)).trans (whenDue_quiet awardWaitEnd_quiet _)).trans
    (whenDue_quiet holdoffEnd_quiet _)).trans (endDwell_quiet _)).trans (endEmerg_quiet _)

theorem secondTick_keeps (s : State) : Keeps s (secondTick s) :=
  (((meterTick_keeps s).trans (countTick_keeps _)).trans (endTimers_quiet _).keeps).trans
    (placeHeld_quiet _).keeps

end Sys2Proof.Machine
end

