-- ==== Sys2Proof/Laws/RadioSide.lean ====
section
/-! SUPPORT. What a change of the uplink queue and the contention it brings leave alone: everything outside the receiver, the link, the queue, the supervisor's stuck-busy timer, the texts' slots, the attention unit and the bookkeeping. -/

namespace Sys2Proof.Machine

/-- t follows from s by changes of the receiver, the link, the uplink queue, the supervisor, the pool, the attention unit and the bookkeeping alone. -/
structure RadioSide (s t : State) : Prop where
  phase : t.phase = s.phase
  pins : t.pins = s.pins
  clock : t.clock = s.clock
  secs : t.secs = s.secs
  meter : t.meter = s.meter
  trip : t.trip = s.trip
  offers : t.offers = s.offers
  emerg : t.emerg = s.emerg
  path : t.path = s.path
  agent : t.agent = s.agent
  reader : t.reader = s.reader
  evw : t.evw = s.evw
  settings : t.settings = s.settings
  position : t.position = s.position
  mem : t.mem = s.mem
  pending : t.pending = s.pending
  cycles : t.sup.cycles = s.sup.cycles
  override : t.sup.override = s.sup.override

namespace RadioSide

theorem refl (s : State) : RadioSide s s :=
  ⟨rfl, rfl, rfl, rfl, rfl, rfl, rfl, rfl, rfl, rfl, rfl, rfl, rfl, rfl, rfl, rfl, rfl, rfl⟩

theorem trans {s t u : State} (h : RadioSide s t) (k : RadioSide t u) : RadioSide s u :=
  ⟨k.phase.trans h.phase, k.pins.trans h.pins, k.clock.trans h.clock, k.secs.trans h.secs,
   k.meter.trans h.meter, k.trip.trans h.trip, k.offers.trans h.offers, k.emerg.trans h.emerg,
   k.path.trans h.path, k.agent.trans h.agent, k.reader.trans h.reader, k.evw.trans h.evw,
   k.settings.trans h.settings, k.position.trans h.position, k.mem.trans h.mem,
   k.pending.trans h.pending, k.cycles.trans h.cycles, k.override.trans h.override⟩

theorem before {s t u : State} (k : RadioSide t u) (h : RadioSide s t) : RadioSide s u := h.trans k

theorem ite {p : Prop} [Decidable p] {s t u : State} (h : p → RadioSide s t)
    (k : ¬p → RadioSide s u) : RadioSide s (if p then t else u) := by
  by_cases c : p
  · rw [if_pos c]; exact h c
  · rw [if_neg c]; exact k c

theorem setLink (s : State) (x : Link) : RadioSide s (s.setLink x) :=
  ⟨rfl, rfl, rfl, rfl, rfl, rfl, rfl, rfl, rfl, rfl, rfl, rfl, rfl, rfl, rfl, rfl, rfl, rfl⟩

theorem setRx (s : State) (x : Receiver) : RadioSide s (s.setRx x) :=
  ⟨rfl, rfl, rfl, rfl, rfl, rfl, rfl, rfl, rfl, rfl, rfl, rfl, rfl, rfl, rfl, rfl, rfl, rfl⟩

theorem setUplink (s : State) (x : Uplink) : RadioSide s (s.setUplink x) :=
  ⟨rfl, rfl, rfl, rfl, rfl, rfl, rfl, rfl, rfl, rfl, rfl, rfl, rfl, rfl, rfl, rfl, rfl, rfl⟩

theorem setPool (s : State) (x : Pool) : RadioSide s (s.setPool x) :=
  ⟨rfl, rfl, rfl, rfl, rfl, rfl, rfl, rfl, rfl, rfl, rfl, rfl, rfl, rfl, rfl, rfl, rfl, rfl⟩

theorem setAttn (s : State) (x : Attention) : RadioSide s (s.setAttn x) :=
  ⟨rfl, rfl, rfl, rfl, rfl, rfl, rfl, rfl, rfl, rfl, rfl, rfl, rfl, rfl, rfl, rfl, rfl, rfl⟩

theorem setBook (s : State) (x : Book) : RadioSide s (s.setBook x) :=
  ⟨rfl, rfl, rfl, rfl, rfl, rfl, rfl, rfl, rfl, rfl, rfl, rfl, rfl, rfl, rfl, rfl, rfl, rfl⟩

end RadioSide

theorem raiseFactor_radio (f : Factor) (s : State) : RadioSide s (raiseFactor f s) :=
  RadioSide.ite (fun _ => RadioSide.setAttn s _) (fun _ => RadioSide.refl s)

theorem badFrame_radio (s : State) : RadioSide s (badFrame s) := by
  unfold badFrame
  exact RadioSide.ite (fun _ => RadioSide.before (raiseFactor_radio _ _) (RadioSide.setRx s _))
    (fun _ => RadioSide.setRx s _)

theorem rxIgnored_radio (s : State) : RadioSide s (rxIgnored s) := by
  unfold rxIgnored
  split
  · exact badFrame_radio s
  · exact badFrame_radio s
  · exact badFrame_radio s
  · exact RadioSide.setRx s _
  · exact RadioSide.setRx s _
  · exact RadioSide.setRx s _

theorem stopStuckBusy_radio (s : State) : RadioSide s (stopStuckBusy s) :=
  ⟨rfl, rfl, rfl, rfl, rfl, rfl, rfl, rfl, rfl, rfl, rfl, rfl, rfl, rfl, rfl, rfl, rfl, rfl⟩

theorem startKeyup_radio (s : State) : RadioSide s (startKeyup s) :=
  RadioSide.before (RadioSide.setLink _ _)
    (RadioSide.before (stopStuckBusy_radio _) (rxIgnored_radio s))

theorem drawFor_radio (e : Entry) (s : State) : RadioSide s (drawFor e s) := by
  have h : ∀ x, RadioSide s (countDrawn (s.setLink x)) := fun x =>
    RadioSide.before (RadioSide.setBook _ _) (RadioSide.setLink s x)
  exact RadioSide.ite (fun _ => RadioSide.before (startKeyup_radio _) (h _)) (fun _ => h _)

theorem contendFor_radio (e : Entry) (s : State) : RadioSide s (contendFor e s) :=
  RadioSide.before (drawFor_radio e _) (RadioSide.setLink s _)

theorem applyChannel_radio (s : State) : RadioSide s (applyChannel s) :=
  RadioSide.before (RadioSide.setLink _ _)
    (RadioSide.before (stopStuckBusy_radio _) (rxIgnored_radio s))

theorem listenReact_radio (s : State) : RadioSide s (listenReact s) := by
  refine RadioSide.ite (fun _ => applyChannel_radio s) (fun _ => ?_)
  split
  · exact contendFor_radio _ s
  · exact RadioSide.refl s

theorem contendReact_radio (s : State) : RadioSide s (contendReact s) := by
  unfold contendReact
  split
  · split
    · exact contendFor_radio _ s
    · exact RadioSide.before (listenReact_radio _) (RadioSide.setLink s _)
  · split
    · exact RadioSide.ite (fun _ => drawFor_radio _ s) (fun _ => RadioSide.refl s)
    · exact RadioSide.refl s

theorem congestFactor_radio (s : State) : RadioSide s (congestFactor s) :=
  RadioSide.ite (fun _ => raiseFactor_radio _ s) (fun _ => RadioSide.refl s)

theorem linkReact_radio (s : State) : RadioSide s (linkReact s) := by
  unfold linkReact
  split
  · exact listenReact_radio s
  · exact RadioSide.before (congestFactor_radio _) (contendReact_radio s)
  · exact RadioSide.refl s

theorem enterListen_radio (s : State) : RadioSide s (enterListen s) :=
  RadioSide.before (listenReact_radio _)
    ⟨rfl, rfl, rfl, rfl, rfl, rfl, rfl, rfl, rfl, rfl, rfl, rfl, rfl, rfl, rfl, rfl, rfl, rfl⟩

theorem linkGiveUp_radio (s : State) : RadioSide s (linkGiveUp s) :=
  RadioSide.before (RadioSide.setLink _ _)
    (RadioSide.ite (fun _ => rxIgnored_radio s) (fun _ => RadioSide.refl s))

theorem updateEntry_radio (q : Nat) (f : Entry → Entry) (s : State) :
    RadioSide s (updateEntry q f s) := RadioSide.setUplink s _

theorem removeEntry_radio (q : Nat) (s : State) : RadioSide s (removeEntry q s) :=
  RadioSide.before (RadioSide.setLink _ _) (RadioSide.setUplink s _)

theorem textOutcome_radio (e : Entry) (p : Nat → Payload) (b : Bool) (s : State) :
    RadioSide s (textOutcome e p b s) := by
  unfold textOutcome
  split
  · split
    · exact RadioSide.before (RadioSide.setBook _ _) (RadioSide.setPool s _)
    · exact RadioSide.refl s
  · exact RadioSide.refl s

theorem tellDisplaced_radio (e : Entry) (s : State) : RadioSide s (tellDisplaced e s) := by
  unfold tellDisplaced
  split
  · exact textOutcome_radio _ _ _ s
  · exact RadioSide.setUplink s _
  · exact RadioSide.setUplink s _
  · exact RadioSide.refl s

theorem insertNew_radio (cls : UpClass) (body : List Byte) (tr ca : Bool) (ref : OwnerRef)
    (s : State) : RadioSide s (insertNew cls body tr ca ref s).1 := by
  unfold insertNew
  split
  · exact RadioSide.before (linkReact_radio _)
      (RadioSide.before (RadioSide.setLink _ _) (RadioSide.setUplink s _))
  · exact RadioSide.refl s

theorem offerEntry_radio (cls : UpClass) (body : List Byte) (tr ca : Bool) (ref : OwnerRef)
    (s : State) : RadioSide s (offerEntry cls body tr ca ref s).1 := by
  unfold offerEntry
  split
  · exact RadioSide.refl s
  · split
    · exact RadioSide.refl s
    · split
      · split
        · split
          · exact RadioSide.before (insertNew_radio _ _ _ _ _ _)
              (RadioSide.before (tellDisplaced_radio _ _) (removeEntry_radio _ s))
          · exact RadioSide.refl s
        · exact RadioSide.refl s
      · exact insertNew_radio _ _ _ _ _ s

theorem offerOrDrop_radio (cls : UpClass) (body : List Byte) (ref : OwnerRef) (s : State) :
    RadioSide s (offerOrDrop cls body ref s).1 := by
  unfold offerOrDrop
  simp only
  split
  · exact offerEntry_radio _ _ _ _ _ s
  · exact RadioSide.before (RadioSide.setUplink _ _) (offerEntry_radio _ _ _ _ _ s)

theorem offerRelease_radio (id : Word) (s : State) : RadioSide s (offerRelease id s).1 :=
  offerOrDrop_radio _ _ _ s

theorem offerAck_radio (cls seq : Byte) (r : AckResult) (s : State) :
    RadioSide s (offerAck cls seq r s) := offerOrDrop_radio _ _ _ s

theorem tripTest_radio (s : State) : RadioSide s (tripTest s) := by
  unfold tripTest
  split
  · exact RadioSide.ite (fun _ => offerEntry_radio _ _ _ _ _ s) (fun _ => RadioSide.refl s)
  · exact RadioSide.refl s

theorem takeOut_radio (q : Nat) (s : State) : RadioSide s (takeOut q s) :=
  RadioSide.before (linkReact_radio _) (removeEntry_radio q s)

theorem leaveQueue_radio (q : Nat) (s : State) : RadioSide s (leaveQueue q s) :=
  RadioSide.before (tripTest_radio _) (takeOut_radio q s)

theorem withdrawEntry_radio (q : Nat) (s : State) : RadioSide s (withdrawEntry q s) := by
  unfold withdrawEntry
  split
  · split
    · exact updateEntry_radio _ _ s
    · exact takeOut_radio q s
    · exact takeOut_radio q s
  · exact RadioSide.refl s

/-! ### Leaving LISTEN or CONTEND -/

/-- A bad frame leaves the link, the queue, the pool, the supervisor and the settings alone. -/
theorem badFrame_apart (s : State) :
    (badFrame s).link = s.link ∧ (badFrame s).uplink = s.uplink ∧ (badFrame s).pool = s.pool ∧
      (badFrame s).sup = s.sup ∧ (badFrame s).settings = s.settings := by
  unfold badFrame raiseFactor
  dsimp only
  split
  · split <;> exact ⟨rfl, rfl, rfl, rfl, rfl⟩
  · exact ⟨rfl, rfl, rfl, rfl, rfl⟩

theorem rxIgnored_left (s : State) : LeftReceiving s (rxIgnored s) := by
  unfold rxIgnored LeftReceiving
  cases s.rx.deframer <;> simp [skipEnd, satAdd, Config.max16]

/-- What becomes of the deframer leaves the link, the queue, the pool, the supervisor and the settings alone. -/
theorem rxIgnored_apart (s : State) :
    (rxIgnored s).link = s.link ∧ (rxIgnored s).uplink = s.uplink ∧ (rxIgnored s).pool = s.pool ∧
      (rxIgnored s).sup = s.sup ∧ (rxIgnored s).settings = s.settings := by
  unfold rxIgnored
  split
  · exact badFrame_apart s
  · exact badFrame_apart s
  · exact badFrame_apart s
  · exact ⟨rfl, rfl, rfl, rfl, rfl⟩
  · exact ⟨rfl, rfl, rfl, rfl, rfl⟩
  · exact ⟨rfl, rfl, rfl, rfl, rfl⟩

theorem startKeyup_enters (s : State) : EntersKeyup s (startKeyup s) := by
  obtain ⟨l, -, -, p, g⟩ := rxIgnored_apart s
  refine ⟨rxIgnored s, rxIgnored_left s, ?_⟩
  unfold startKeyup stopStuckBusy
  simp only [State.setSup_link, State.setSup_settings]
  rw [l, p, g]

theorem applyChannel_enters {c : Nat} {s : State} (h : s.link.pendingChannel = some c) :
    EntersSettle c s (applyChannel s) := by
  obtain ⟨l, -, -, p, -⟩ := rxIgnored_apart s
  refine ⟨rxIgnored s, rxIgnored_left s, ?_⟩
  unfold applyChannel stopStuckBusy
  simp only [State.setSup_link]
  rw [l, p, h]
  rfl

theorem linkGiveUp_givesUp (s : State) : GivesUp s (linkGiveUp s) := by
  unfold linkGiveUp
  cases hs : receiving s.link.state
  · refine ⟨s, fun h => ?_, fun _ _ => rfl, rfl⟩
    rcases h with h | h <;> rw [h] at hs <;> cases hs
  · refine ⟨rxIgnored s, fun _ => rxIgnored_left s, fun h k => ?_, ?_⟩
    · unfold receiving at hs
      split at hs <;> contradiction
    · dsimp only
      rw [if_pos rfl, (rxIgnored_apart s).1]
      rfl

end Sys2Proof.Machine
end

