-- ==== Sys2Proof/Laws/Calm.lean ====
section
/-! SUPPORT. Outside LISTEN and CONTEND the uplink queue's changes leave the link state, the receiver and the supervisor alone (R66, R69); what arbitration and the port's last word change. -/

namespace Sys2Proof.Machine

/-- Link state, receiver, supervisor and pins are those of s. -/
structure Calm (s t : State) : Prop where
  link : t.link.state = s.link.state
  sup : t.sup = s.sup
  rx : t.rx = s.rx
  pins : t.pins = s.pins

namespace Calm

theorem refl (s : State) : Calm s s := ⟨rfl, rfl, rfl, rfl⟩

theorem before {s t u : State} (k : Calm t u) (h : Calm s t) : Calm s u :=
  ⟨k.link.trans h.link, k.sup.trans h.sup, k.rx.trans h.rx, k.pins.trans h.pins⟩

theorem trans {s t u : State} (h : Calm s t) (k : Calm t u) : Calm s u := before k h

theorem ite {p : Prop} [Decidable p] {s t u : State} (h : p → Calm s t) (k : ¬p → Calm s u) :
    Calm s (if p then t else u) := by
  by_cases c : p
  · rw [if_pos c]; exact h c
  · rw [if_neg c]; exact k c

theorem receiving {s t : State} (h : Calm s t) (r : receiving s.link.state = false) :
    Machine.receiving t.link.state = false := by rw [h.link]; exact r

end Calm

theorem linkReact_of_not_receiving {s : State} (h : receiving s.link.state = false) :
    linkReact s = s := by
  unfold linkReact
  split
  · rename_i e; rw [e] at h; exact absurd h (by decide)
  · rename_i e; rw [e] at h; exact absurd h (by decide)
  · rfl

theorem updateEntry_calm (q : Nat) (f : Entry → Entry) (s : State) : Calm s (updateEntry q f s) :=
  ⟨rfl, rfl, rfl, rfl⟩

theorem removeEntry_calm (q : Nat) (s : State) : Calm s (removeEntry q s) := ⟨rfl, rfl, rfl, rfl⟩

theorem textOutcome_calm (e : Entry) (p : Nat → Payload) (b : Bool) (s : State) :
    Calm s (textOutcome e p b s) := by
  unfold textOutcome
  split
  · split <;> exact ⟨rfl, rfl, rfl, rfl⟩
  · exact Calm.refl s

theorem tellDisplaced_calm (e : Entry) (s : State) : Calm s (tellDisplaced e s) := by
  unfold tellDisplaced
  split
  · exact textOutcome_calm _ _ _ s
  all_goals exact ⟨rfl, rfl, rfl, rfl⟩

theorem insertNew_calm (cls : UpClass) (body : List Byte) (tr ca : Bool) (ref : OwnerRef) {s : State}
    (h : receiving s.link.state = false) : Calm s (insertNew cls body tr ca ref s).1 := by
  unfold insertNew
  split
  · simp only
    rw [linkReact_of_not_receiving (by simpa using h)]
    exact ⟨rfl, rfl, rfl, rfl⟩
  · exact Calm.refl s

theorem offerEntry_calm (cls : UpClass) (body : List Byte) (tr ca : Bool) (ref : OwnerRef) {s : State}
    (h : receiving s.link.state = false) : Calm s (offerEntry cls body tr ca ref s).1 := by
  unfold offerEntry
  split
  · exact Calm.refl s
  split
  · exact Calm.refl s
  split
  · split
    · split
      · rename_i e _
        have k := (removeEntry_calm e.seq s).trans (tellDisplaced_calm e _)
        exact k.trans (insertNew_calm _ _ _ _ _ (k.receiving h))
      · exact Calm.refl s
    · exact Calm.refl s
  · exact insertNew_calm _ _ _ _ _ h

theorem tripTest_calm {s : State} (h : receiving s.link.state = false) : Calm s (tripTest s) := by
  unfold tripTest
  split
  · exact Calm.ite (fun _ => offerEntry_calm _ _ _ _ _ h) (fun _ => Calm.refl s)
  · exact Calm.refl s

theorem offerAlarm_calm (k : AlarmKind) {s : State} (h : receiving s.link.state = false) :
    Calm s (offerAlarm k s) := by
  unfold offerAlarm
  split
  · split <;> exact ⟨rfl, rfl, rfl, rfl⟩
  · have c := offerEntry_calm .alarm (k.body s) k.isTracking k.isCancelled .none h
    exact ⟨c.link, c.sup, c.rx, c.pins⟩

theorem resumeCall_calm {s : State} (h : receiving s.link.state = false) : Calm s (resumeCall s) := by
  unfold resumeCall
  split
  · have c := offerAlarm_calm .call (s := s.setEmerg { s.emerg with attempt := 1 }) h
    exact ⟨c.link, c.sup, c.rx, c.pins⟩
  · exact ⟨rfl, rfl, rfl, rfl⟩
  · have c := offerAlarm_calm .tracking (s := s.setEmerg { s.emerg with
      trackCount := satAdd Config.max16 s.emerg.trackCount 1 }) h
    exact ⟨c.link, c.sup, c.rx, c.pins⟩
  · exact Calm.refl s
  · exact Calm.refl s

theorem placeFrom_calm (src : HeldSource) (s : State) : Calm s (placeFrom src s) := by
  unfold placeFrom
  cases src <;> simp only
  · split
    · split <;> exact ⟨rfl, rfl, rfl, rfl⟩
    · exact Calm.refl s
  · split
    · split <;> exact ⟨rfl, rfl, rfl, rfl⟩
    · exact Calm.refl s
  all_goals split <;> exact ⟨rfl, rfl, rfl, rfl⟩

theorem placeOne_calm (s : State) : Calm s (placeOne s) := by
  unfold placeOne
  refine Calm.ite (fun _ => ?_) (fun _ => Calm.refl s)
  split
  · exact placeFrom_calm _ s
  · exact Calm.refl s

theorem placeMany_calm (n : Nat) (s : State) : Calm s (placeMany n s) := by
  induction n generalizing s with
  | zero => exact Calm.refl s
  | succ n ih => exact (placeOne_calm s).trans (ih _)

theorem placeHeld_calm (s : State) : Calm s (placeHeld s) := placeMany_calm _ s

/-! ### Events and factors -/

/-- A factor's cause changes the attention unit only. -/
theorem raiseFactor_attn (f : Factor) (s : State) : ∃ a, raiseFactor f s = s.setAttn a := by
  unfold raiseFactor
  split
  · exact ⟨_, rfl⟩
  · exact ⟨s.attn, rfl⟩

theorem raiseFactor_running {s : State} (f : Factor) (h : s.phase = .running) :
    raiseFactor f s = s.setAttn { s.attn with factors := s.attn.factors ||| f.mask } := if_pos h

theorem raiseFactor_in_reset {s : State} (f : Factor) (h : s.phase ≠ .running) :
    raiseFactor f s = s := if_neg h

/-- An event placed or dropped changes the event writer and the attention unit only. -/
theorem produce_changes (tag : Half) (p : Payload) (s : State) :
    ∃ e a, produce tag p s = (s.setEvw e).setAttn a := by
  unfold produce
  split
  · split
    · exact ⟨(placeEvent (eventNow tag p s) s).evw, s.attn, rfl⟩
    · unfold dropEvent
      obtain ⟨a, h⟩ := raiseFactor_attn .lost (s.setEvw { s.evw with
        generated := s.evw.generated + 1, lost := s.evw.lost + 1, countersStale := true })
      exact ⟨_, a, h⟩
  · exact ⟨s.evw, s.attn, rfl⟩

theorem produce_calm (tag : Half) (p : Payload) (s : State) : Calm s (produce tag p s) := by
  obtain ⟨e, a, h⟩ := produce_changes tag p s
  rw [h]
  exact ⟨rfl, rfl, rfl, rfl⟩

theorem reportLink_calm (l e : LinkState) (c : LinkCause) (tag : Half) (s : State) :
    Calm s (reportLink l e c tag s) := produce_calm _ _ s

/-! ### Arbitration and the port -/

/-- Arbitration changes the path only, and keeps the base, the snapshot and the guard counter. -/
theorem arbitrate_path (s : State) : ∃ p, arbitrate s = s.setPath p ∧ p.base = s.path.base ∧
    p.snapshot = s.path.snapshot ∧ p.guardCount = s.path.guardCount := by
  unfold arbitrate
  split
  · split
    · split <;> exact ⟨_, rfl, rfl, rfl, rfl⟩
    all_goals exact ⟨_, rfl, rfl, rfl, rfl⟩
  · exact ⟨_, rfl, rfl, rfl, rfl⟩

theorem arbitrate_busy {s : State} (h : s.path.port ≠ .free) : arbitrate s = s := by
  unfold arbitrate
  rw [if_neg h]

theorem arbitrate_quiet {s : State} (h : processorWaits s = false) (k : agentReady s = false) :
    arbitrate s = s := by
  unfold arbitrate
  split
  · rw [h, k]
  · rfl

/-- A word's end changes memory only, on the memory side. -/
theorem wordToMemory_mem (w : AgentWord) (s : State) : ∃ m, wordToMemory w s = s.setMem m := by
  cases w
  case read => exact ⟨s.mem, rfl⟩
  all_goals exact ⟨_, rfl⟩

theorem finishPort_mem (s : State) : ∃ m, finishPort s = s.setMem m := by
  unfold finishPort
  split
  · split
    · exact wordToMemory_mem _ s
    · exact ⟨s.mem, rfl⟩
  · split
    · split
      · exact ⟨_, rfl⟩
      · exact ⟨s.mem, rfl⟩
    · exact ⟨s.mem, rfl⟩
  · exact ⟨s.mem, rfl⟩

end Sys2Proof.Machine
end

