-- ==== Sys2Proof/Laws/Side.lean ====
section
/-! SUPPORT. What the path switch and the start of agent tasks leave alone: memory and every block but the path, the agent's tasks, the attention unit and the black box write mark. -/

namespace Sys2Proof.Machine

/-- t follows from s by changes of the path (not its base), the agent's tasks, the attention unit and the black box write mark alone. -/
structure Side (s t : State) : Prop where
  phase : t.phase = s.phase
  clock : t.clock = s.clock
  meter : t.meter = s.meter
  trip : t.trip = s.trip
  rx : t.rx = s.rx
  link : t.link = s.link
  uplink : t.uplink = s.uplink
  sup : t.sup = s.sup
  offers : t.offers = s.offers
  pool : t.pool = s.pool
  emerg : { t.emerg with boxMark := s.emerg.boxMark } = s.emerg
  base : t.path.base = s.path.base
  initial : t.agent.initial = s.agent.initial
  evw : t.evw = s.evw
  settings : t.settings = s.settings
  position : t.position = s.position
  mem : t.mem = s.mem

namespace Side

theorem refl (s : State) : Side s s :=
  ⟨rfl, rfl, rfl, rfl, rfl, rfl, rfl, rfl, rfl, rfl, rfl, rfl, rfl, rfl, rfl, rfl, rfl⟩

theorem trans {s t u : State} (h : Side s t) (k : Side t u) : Side s u := by
  refine ⟨k.phase.trans h.phase, k.clock.trans h.clock, k.meter.trans h.meter, k.trip.trans h.trip,
    k.rx.trans h.rx, k.link.trans h.link, k.uplink.trans h.uplink, k.sup.trans h.sup,
    k.offers.trans h.offers, k.pool.trans h.pool, ?_, k.base.trans h.base,
    k.initial.trans h.initial, k.evw.trans h.evw, k.settings.trans h.settings,
    k.position.trans h.position, k.mem.trans h.mem⟩
  have e1 := h.emerg
  have e2 := k.emerg
  rw [← e1, ← e2]

theorem before {s t u : State} (k : Side t u) (h : Side s t) : Side s u := trans h k

theorem ite {p : Prop} [Decidable p] {s t u : State} (h : p → Side s t) (k : ¬p → Side s u) :
    Side s (if p then t else u) := by
  by_cases c : p
  · rw [if_pos c]; exact h c
  · rw [if_neg c]; exact k c

theorem setPath {s : State} {x : Path} (h : x.base = s.path.base) : Side s (s.setPath x) :=
  ⟨rfl, rfl, rfl, rfl, rfl, rfl, rfl, rfl, rfl, rfl, rfl, h, rfl, rfl, rfl, rfl, rfl⟩

theorem setAgent {s : State} {x : Agent} (h : x.initial = s.agent.initial) : Side s (s.setAgent x) :=
  ⟨rfl, rfl, rfl, rfl, rfl, rfl, rfl, rfl, rfl, rfl, rfl, rfl, h, rfl, rfl, rfl, rfl⟩

theorem setAttn (s : State) (x : Attention) : Side s (s.setAttn x) :=
  ⟨rfl, rfl, rfl, rfl, rfl, rfl, rfl, rfl, rfl, rfl, rfl, rfl, rfl, rfl, rfl, rfl, rfl⟩

theorem setMark (s : State) (x : WriteMark) : Side s (s.setEmerg { s.emerg with boxMark := x }) :=
  ⟨rfl, rfl, rfl, rfl, rfl, rfl, rfl, rfl, rfl, rfl, rfl, rfl, rfl, rfl, rfl, rfl, rfl⟩

theorem box {s t : State} (h : Side s t) : t.emerg.box = s.emerg.box := by
  rw [← h.emerg]

end Side

theorem raiseFactor_side (f : Factor) (s : State) : Side s (raiseFactor f s) := by
  obtain ⟨a, h⟩ := raiseFactor_attn f s
  rw [h]
  exact Side.setAttn s a

theorem arbitrate_side (s : State) : Side s (arbitrate s) := by
  obtain ⟨p, h, hb, -, -⟩ := arbitrate_path s
  rw [h]
  exact Side.setPath hb

theorem holdAccess_side (a : Access) (st : AccessStage) (s : State) : Side s (holdAccess a st s) :=
  Side.setPath rfl

theorem answerWith_side (w : Word) (s : State) : Side s (answerWith w s) := Side.setPath rfl

theorem latchAndAnswer_side (s : State) : Side s (latchAndAnswer s) :=
  Side.before (answerWith_side _ _) (Side.setPath rfl)

theorem guardViolation_side (s : State) : Side s (guardViolation s) :=
  Side.before (raiseFactor_side _ _) (Side.setPath rfl)

theorem completeInside_side (off : Nat) (a : Access) (s : State) :
    Side s (completeInside off a s) := by
  unfold completeInside
  split
  · split
    · exact answerWith_side _ s
    · exact Side.ite (fun _ => Side.setAttn s _) (fun _ => raiseFactor_side _ s)
  · split
    · exact Side.ite (fun _ => latchAndAnswer_side s) (fun _ => answerWith_side _ s)
    · exact guardViolation_side s
  · exact guardViolation_side s

theorem treatAccess_side (off : Nat) (a : Access) (s : State) : Side s (treatAccess off a s) := by
  unfold treatAccess
  exact Side.ite (fun _ => holdAccess_side _ _ s)
    (fun _ => Side.before (completeInside_side _ _ _) (Side.setPath rfl))

theorem classify_side (a : Access) (s : State) : Side s (classify a s) := by
  unfold classify
  refine Side.ite (fun _ => ?_) (fun _ => holdAccess_side _ _ s)
  split
  · split
    · exact Side.ite (fun _ => treatAccess_side _ _ s) (fun _ => holdAccess_side _ _ s)
    · exact holdAccess_side _ _ s
  · exact holdAccess_side _ _ s

theorem resumeAccess_side (s : State) : Side s (resumeAccess s) := by
  unfold resumeAccess
  split
  · exact Side.ite (fun _ => classify_side _ s) (fun _ => Side.refl s)
  · exact Side.refl s

theorem beginTask_side (s : State) : Side s (beginTask s) := by
  unfold beginTask
  refine Side.ite (fun _ => ?_) (fun _ => Side.refl s)
  split
  · exact Side.ite (fun _ => Side.setAgent rfl) (fun _ => Side.refl s)
  · exact Side.refl s

theorem requestTask_side (k : TaskKind) (s : State) : Side s (requestTask k s) := by
  unfold requestTask
  exact Side.ite (fun _ => Side.refl s)
    (fun _ => Side.before (beginTask_side _) (Side.setAgent rfl))

theorem boxWriteDone_side (s : State) : Side s (boxWriteDone s) := by
  unfold boxWriteDone
  split
  · exact (Side.setMark s _).trans (requestTask_side _ _)
  · exact Side.setMark s _
  · exact Side.setMark s _

theorem initialBoxMark_side (s : State) : Side s (initialBoxMark s) := boxWriteDone_side s

end Sys2Proof.Machine
end

