-- ==== Sys2Proof/Laws/Books.lean ====
section
/-! SUPPORT. The laws of the offer table, the message pool and the queue's BIDs and TEXTs: what each operation does to them. -/

namespace Sys2Proof.Machine

/-! ### The laws on a set of BID and TEXT entries -/

/-- A set of BID and TEXT entries, each by class, owner and sequence number. -/
abbrev Keys := UpClass → OwnerRef → Nat → Prop

/-- The BIDs and TEXTs of the queue. -/
def keyIn (s : State) : Keys := fun c r q =>
  (c = .bid ∨ c = .text) ∧ ∃ e ∈ s.uplink.entries, e.cls = c ∧ e.ref = r ∧ e.seq = q

/-- A set of entries without the BID of an offer entry. -/
def dropBid (P : Keys) (i : Nat) : Keys := fun c r q => P c r q ∧ ¬(c = .bid ∧ r = .offer i)

/-- A set of entries without the TEXT of a slot. -/
def dropText (P : Keys) (i : Nat) : Keys := fun c r q => P c r q ∧ ¬(c = .text ∧ r = .slot i)

/-- The laws on jobs, bids and slots, of a set of entries that may differ from the queue's while a command is at work. -/
structure Weak (P : Keys) (s : State) : Prop where
  job : JobLaw s
  bid : ∀ r q, P .bid r q → ∃ i o, r = .offer i ∧ offerAt i s = some o ∧ o.bidSeq = some q
  named : ∀ i o q, offerAt i s = some o → o.bidSeq = some q →
    o.state = .bidSent ∧ P .bid (.offer i) q
  text : ∀ r q, P .text r q → ∃ i x, r = .slot i ∧ slotAt i s = some x ∧ x.ref = some q
  used : ∀ i x, slotAt i s = some x → x.held ≠ none ∨ x.ref ≠ none
  refs : ∀ i x q, slotAt i s = some x → x.ref = some q → P .text (.slot i) q
  rest : RestLaw s

/-- The queue law and the laws of the books are carried from s to t. -/
structure Kept (s t : State) : Prop where
  queue : QueueLaw s → QueueLaw t
  weak : QueueLaw s → Weak (keyIn s) s → Weak (keyIn t) t
  shut : QueueLaw s → Weak (keyIn s) s → OpenLaw s → OpenLaw t

theorem booksLaw_iff (s : State) : BooksLaw s ↔ Weak (keyIn s) s ∧ OpenLaw s := by
  constructor
  · rintro ⟨j, o, ⟨b1, b2⟩, ⟨t1, t2, t3⟩, r⟩
    refine ⟨⟨j, ?_, ?_, ?_, t2, ?_, r⟩, o⟩
    · rintro _ _ ⟨-, e, he, hc, rfl, rfl⟩
      obtain ⟨i, o, h1, h2, -, h3⟩ := b1 e he hc
      exact ⟨i, o, h1, h2, h3⟩
    · intro i o q h1 h2
      obtain ⟨h3, h4⟩ := b2 i o q h1 h2
      exact ⟨h3, Or.inl rfl, h4⟩
    · rintro _ _ ⟨-, e, he, hc, rfl, rfl⟩
      exact t1 e he hc
    · intro i x q h1 h2
      exact ⟨Or.inr rfl, t3 i x q h1 h2⟩
  · rintro ⟨w, o⟩
    refine ⟨w.job, o, ⟨?_, ?_⟩, ⟨?_, w.used, ?_⟩, w.rest⟩
    · intro e he hc
      obtain ⟨i, o, h1, h2, h3⟩ := w.bid e.ref e.seq ⟨Or.inl rfl, e, he, hc, rfl, rfl⟩
      exact ⟨i, o, h1, h2, (w.named i o _ h2 h3).1, h3⟩
    · intro i o q h1 h2
      obtain ⟨h3, -, h4⟩ := w.named i o q h1 h2
      exact ⟨h3, h4⟩
    · intro e he hc
      exact w.text e.ref e.seq ⟨Or.inr rfl, e, he, hc, rfl, rfl⟩
    · intro i x q h1 h2
      exact (w.refs i x q h1 h2).2

namespace Kept

theorem refl (s : State) : Kept s s := ⟨id, fun _ h => h, fun _ _ h => h⟩

theorem trans {s t u : State} (h : Kept s t) (k : Kept t u) : Kept s u :=
  ⟨fun q => k.queue (h.queue q), fun q w => k.weak (h.queue q) (h.weak q w),
   fun q w o => k.shut (h.queue q) (h.weak q w) (h.shut q w o)⟩

theorem before {s t u : State} (k : Kept t u) (h : Kept s t) : Kept s u := h.trans k

theorem ite {p : Prop} [Decidable p] {s t u : State} (h : p → Kept s t) (k : ¬p → Kept s u) :
    Kept s (if p then t else u) := by
  by_cases c : p
  · rw [if_pos c]; exact h c
  · rw [if_neg c]; exact k c

end Kept

theorem Weak.congr {P Q : Keys} {s : State} (h : ∀ c r q, Q c r q ↔ P c r q) (w : Weak P s) :
    Weak Q s := by
  have e : Q = P := funext fun c => funext fun r => funext fun q => propext (h c r q)
  rw [e]; exact w

/-! ### Steps that leave a set of entries as it is -/

/-- t has the offers' and slots' laws of s for every set of entries, and the same BIDs and TEXTs. -/
structure Holds (s t : State) : Prop where
  weak : ∀ P, Weak P s → Weak P t
  shut : ∀ P, Weak P s → OpenLaw s → OpenLaw t
  keys : ∀ c r q, keyIn t c r q ↔ keyIn s c r q

namespace Holds

theorem refl (s : State) : Holds s s := ⟨fun _ h => h, fun _ _ h => h, fun _ _ _ => Iff.rfl⟩

theorem trans {s t u : State} (h : Holds s t) (k : Holds t u) : Holds s u :=
  ⟨fun P w => k.weak P (h.weak P w), fun P w o => k.shut P (h.weak P w) (h.shut P w o),
   fun c r q => (k.keys c r q).trans (h.keys c r q)⟩

theorem before {s t u : State} (k : Holds t u) (h : Holds s t) : Holds s u := h.trans k

theorem ite {p : Prop} [Decidable p] {s t u : State} (h : p → Holds s t) (k : ¬p → Holds s u) :
    Holds s (if p then t else u) := by
  by_cases c : p
  · rw [if_pos c]; exact h c
  · rw [if_neg c]; exact k c

theorem kept {s t : State} (h : Holds s t) (k : QueueLaw s → QueueLaw t) : Kept s t :=
  ⟨k, fun _ w => (h.weak _ w).congr h.keys, fun _ w o => h.shut _ w o⟩

end Holds

/-- The released state, the controller's state, the offers, the slots and the queue's entries are those of s. -/
structure Still (s t : State) : Prop where
  phase : t.phase = s.phase
  em : t.emerg.state = s.emerg.state
  offers : t.offers.entries = s.offers.entries
  slots : t.pool.slots = s.pool.slots
  entries : t.uplink.entries = s.uplink.entries

theorem offerAt_of_entries {s t : State} (h : t.offers.entries = s.offers.entries) (i : Nat) :
    offerAt i t = offerAt i s := by unfold offerAt; rw [h]

theorem slotAt_of_slots {s t : State} (h : t.pool.slots = s.pool.slots) (i : Nat) :
    slotAt i t = slotAt i s := by unfold slotAt; rw [h]

theorem Weak.same {P : Keys} {s t : State} (hp : t.phase = s.phase)
    (ho : t.offers.entries = s.offers.entries) (hs : t.pool.slots = s.pool.slots) (w : Weak P s) :
    Weak P t := by
  have a := fun i => offerAt_of_entries ho i
  have b := fun i => slotAt_of_slots hs i
  obtain ⟨h1, h2, h3, h4, h5, h6, h7⟩ := w
  refine ⟨?_, ?_, ?_, ?_, ?_, ?_, ?_⟩
  · intro i j o p; rw [a i, a j]; exact h1 i j o p
  · intro r q h
    obtain ⟨i, o, k⟩ := h2 r q h
    exact ⟨i, o, by rw [a i]; exact k⟩
  · intro i o q; rw [a i]; exact h3 i o q
  · intro r q h
    obtain ⟨i, x, k⟩ := h4 r q h
    exact ⟨i, x, by rw [b i]; exact k⟩
  · intro i x; rw [b i]; exact h5 i x
  · intro i x q; rw [b i]; exact h6 i x q
  · intro h i; rw [a i, b i]; exact h7 (by rw [← hp]; exact h) i

theorem openLaw_same {s t : State} (he : t.emerg.state = s.emerg.state)
    (ho : t.offers.entries = s.offers.entries) (h : OpenLaw s) : OpenLaw t := by
  intro k i o
  rw [offerAt_of_entries ho]
  exact h (by rw [← he]; exact k) i o

theorem keyIn_same {s t : State} (h : t.uplink.entries = s.uplink.entries) (c : UpClass)
    (r : OwnerRef) (q : Nat) : keyIn t c r q ↔ keyIn s c r q := by unfold keyIn; rw [h]

namespace Still

theorem refl (s : State) : Still s s := ⟨rfl, rfl, rfl, rfl, rfl⟩

theorem trans {s t u : State} (h : Still s t) (k : Still t u) : Still s u :=
  ⟨k.phase.trans h.phase, k.em.trans h.em, k.offers.trans h.offers, k.slots.trans h.slots,
   k.entries.trans h.entries⟩

theorem before {s t u : State} (k : Still t u) (h : Still s t) : Still s u := h.trans k

theorem ite {p : Prop} [Decidable p] {s t u : State} (h : p → Still s t) (k : ¬p → Still s u) :
    Still s (if p then t else u) := by
  by_cases c : p
  · rw [if_pos c]; exact h c
  · rw [if_neg c]; exact k c

theorem holds {s t : State} (h : Still s t) : Holds s t :=
  ⟨fun _ w => w.same h.phase h.offers h.slots, fun _ _ o => openLaw_same h.em h.offers o,
   keyIn_same h.entries⟩

theorem queue {s t : State} (h : Still s t) (q : QueueLaw s) : QueueLaw t := by
  unfold QueueLaw; rw [h.entries]; exact q

theorem kept {s t : State} (h : Still s t) : Kept s t := h.holds.kept h.queue

theorem setLink (s : State) (x : Link) : Still s (s.setLink x) := ⟨rfl, rfl, rfl, rfl, rfl⟩

theorem setRx (s : State) (x : Receiver) : Still s (s.setRx x) := ⟨rfl, rfl, rfl, rfl, rfl⟩

theorem setSup (s : State) (x : Supervisor) : Still s (s.setSup x) := ⟨rfl, rfl, rfl, rfl, rfl⟩

theorem setBook (s : State) (x : Book) : Still s (s.setBook x) := ⟨rfl, rfl, rfl, rfl, rfl⟩

theorem setAttn (s : State) (x : Attention) : Still s (s.setAttn x) := ⟨rfl, rfl, rfl, rfl, rfl⟩

theorem setPins (s : State) (x : Pins) : Still s (s.setPins x) := ⟨rfl, rfl, rfl, rfl, rfl⟩

theorem setTrip (s : State) (x : TripRecorder) : Still s (s.setTrip x) := ⟨rfl, rfl, rfl, rfl, rfl⟩

theorem setSettings (s : State) (x : SettingsShadow) : Still s (s.setSettings x) := ⟨rfl, rfl, rfl, rfl, rfl⟩

theorem setMeter (s : State) (x : Meter) : Still s (s.setMeter x) := ⟨rfl, rfl, rfl, rfl, rfl⟩

theorem setEvw (s : State) (x : EventWriter) : Still s (s.setEvw x) := ⟨rfl, rfl, rfl, rfl, rfl⟩

theorem setPath (s : State) (x : Path) : Still s (s.setPath x) := ⟨rfl, rfl, rfl, rfl, rfl⟩

theorem setAgent (s : State) (x : Agent) : Still s (s.setAgent x) := ⟨rfl, rfl, rfl, rfl, rfl⟩

theorem setReader (s : State) (x : Reader) : Still s (s.setReader x) := ⟨rfl, rfl, rfl, rfl, rfl⟩

theorem setPosition (s : State) (x : PositionShadow) : Still s (s.setPosition x) := ⟨rfl, rfl, rfl, rfl, rfl⟩

theorem setMem (s : State) (x : List Host.Cell) : Still s (s.setMem x) := ⟨rfl, rfl, rfl, rfl, rfl⟩

theorem setClock (s : State) (x : Word) : Still s (s.setClock x) := ⟨rfl, rfl, rfl, rfl, rfl⟩

theorem setSecs (s : State) (x : Nat) : Still s (s.setSecs x) := ⟨rfl, rfl, rfl, rfl, rfl⟩

theorem of_side {s t : State} (h : Side s t) : Still s t :=
  ⟨h.phase, by rw [← h.emerg], by rw [h.offers], by rw [h.pool], by rw [h.uplink]⟩

end Still

theorem raiseFactor_still (f : Factor) (s : State) : Still s (raiseFactor f s) :=
  Still.ite (fun _ => ⟨rfl, rfl, rfl, rfl, rfl⟩) (fun _ => Still.refl s)

theorem badFrame_still (s : State) : Still s (badFrame s) := by
  unfold badFrame
  exact Still.ite (fun _ => Still.before (raiseFactor_still _ _) ⟨rfl, rfl, rfl, rfl, rfl⟩)
    (fun _ => ⟨rfl, rfl, rfl, rfl, rfl⟩)

theorem rxIgnored_still (s : State) : Still s (rxIgnored s) := by
  unfold rxIgnored
  split
  · exact badFrame_still s
  · exact badFrame_still s
  · exact badFrame_still s
  · exact ⟨rfl, rfl, rfl, rfl, rfl⟩
  · exact ⟨rfl, rfl, rfl, rfl, rfl⟩
  · exact ⟨rfl, rfl, rfl, rfl, rfl⟩

theorem startKeyup_still (s : State) : Still s (startKeyup s) := by
  have h := rxIgnored_still s
  exact ⟨h.phase, h.em, h.offers, h.slots, h.entries⟩

theorem drawFor_still (e : Entry) (s : State) : Still s (drawFor e s) := by
  unfold drawFor
  exact Still.ite (fun _ => Still.before (startKeyup_still _) ⟨rfl, rfl, rfl, rfl, rfl⟩)
    (fun _ => ⟨rfl, rfl, rfl, rfl, rfl⟩)

theorem contendFor_still (e : Entry) (s : State) : Still s (contendFor e s) :=
  Still.before (drawFor_still e _) ⟨rfl, rfl, rfl, rfl, rfl⟩

theorem applyChannel_still (s : State) : Still s (applyChannel s) := by
  have h := rxIgnored_still s
  exact ⟨h.phase, h.em, h.offers, h.slots, h.entries⟩

theorem listenReact_still (s : State) : Still s (listenReact s) := by
  refine Still.ite (fun _ => applyChannel_still s) (fun _ => ?_)
  split
  · exact contendFor_still _ s
  · exact Still.refl s

theorem contendReact_still (s : State) : Still s (contendReact s) := by
  unfold contendReact
  split
  · split
    · exact contendFor_still _ s
    · exact Still.before (listenReact_still _) ⟨rfl, rfl, rfl, rfl, rfl⟩
  · split
    · exact Still.ite (fun _ => drawFor_still _ s) (fun _ => Still.refl s)
    · exact Still.refl s

theorem congestFactor_still (s : State) : Still s (congestFactor s) :=
  Still.ite (fun _ => raiseFactor_still _ s) (fun _ => Still.refl s)

theorem linkReact_still (s : State) : Still s (linkReact s) := by
  unfold linkReact
  split
  · exact listenReact_still s
  · exact Still.before (congestFactor_still _) (contendReact_still s)
  · exact Still.refl s

theorem enterListen_still (s : State) : Still s (enterListen s) :=
  Still.before (listenReact_still _) ⟨rfl, rfl, rfl, rfl, rfl⟩

theorem linkGiveUp_still (s : State) : Still s (linkGiveUp s) := by
  have h : Still s (if receiving s.link.state then rxIgnored s else s) :=
    Still.ite (fun _ => rxIgnored_still s) (fun _ => Still.refl s)
  exact ⟨h.phase, h.em, h.offers, h.slots, h.entries⟩

theorem produce_still (tag : Half) (p : Payload) (s : State) : Still s (produce tag p s) := by
  unfold produce
  refine Still.ite (fun _ => Still.ite (fun _ => ⟨rfl, rfl, rfl, rfl, rfl⟩) (fun _ => ?_))
    (fun _ => Still.refl s)
  exact Still.before (raiseFactor_still _ _) ⟨rfl, rfl, rfl, rfl, rfl⟩

theorem refuse_still (c : Byte) (r : Reason) (tag : Half) (s : State) :
    Still s (refuse c r tag s) := produce_still _ _ s

theorem pulse_still (d : Nat) (s : State) : Still s (pulse d s) := ⟨rfl, rfl, rfl, rfl, rfl⟩

theorem reportLink_still (a b : LinkState) (c : LinkCause) (tag : Half) (s : State) :
    Still s (reportLink a b c tag s) := produce_still _ _ s

theorem rdyUp_still (s : State) : Still s (rdyUp s) := by
  unfold rdyUp
  exact Still.before (enterListen_still _)
    (Still.before (reportLink_still _ _ _ _ _) ⟨rfl, rfl, rfl, rfl, rfl⟩)

theorem enterPowerOn_still (c : LinkCause) (tag : Half) (s : State) :
    Still s (enterPowerOn c tag s) := by
  unfold enterPowerOn
  simp only
  have h := fun u => Still.before (reportLink_still s.link.state .powerOnWait c tag u)
    (s := s)
  split
  · exact Still.before (rdyUp_still _) (h _ ⟨rfl, rfl, rfl, rfl, rfl⟩)
  · exact h _ ⟨rfl, rfl, rfl, rfl, rfl⟩

theorem overrideRadio_still (s : State) : Still s (overrideRadio s) :=
  Still.ite (fun _ => Still.before (enterPowerOn_still _ _ _) ⟨rfl, rfl, rfl, rfl, rfl⟩)
    (fun _ => Still.refl s)

theorem freeBuffer_still (c : Byte) (f : DownFrame) (s : State) : Still s (freeBuffer c f s) := by
  unfold freeBuffer
  split
  · exact Still.ite (fun _ => ⟨rfl, rfl, rfl, rfl, rfl⟩) (fun _ => ⟨rfl, rfl, rfl, rfl, rfl⟩)
  · exact ⟨rfl, rfl, rfl, rfl, rfl⟩
  · exact ⟨rfl, rfl, rfl, rfl, rfl⟩
  · exact Still.refl s

theorem setEmReport_still (c : EmCause) (tag : Half) (s : State) : Still s (setEmReport c tag s) :=
  ⟨rfl, rfl, rfl, rfl, rfl⟩

theorem addTripReport_still (tag : Half) (p : Payload) (s : State) :
    Still s (addTripReport tag p s) := ⟨rfl, rfl, rfl, rfl, rfl⟩

/-! ### One entry of the offer table, one slot of the pool -/

theorem offerAt_setOffer {i : Nat} {o : Offer} {s : State} (h : offerAt i s = some o)
    (x : Option Offer) (j : Nat) : offerAt j (setOffer i x s) = if j = i then x else offerAt j s := by
  have hl : i < s.offers.entries.length := by
    rcases Nat.lt_or_ge i s.offers.entries.length with k | k
    · exact k
    · unfold offerAt at h
      rw [List.getD_eq_default _ _ k] at h
      exact absurd h (by simp)
  unfold offerAt setOffer
  simp only [State.setOffers_offers, List.getD_eq_getElem?_getD, List.getElem?_set]
  by_cases k : i = j
  · subst k
    simp [hl]
  · rw [if_neg k, if_neg (fun e => k e.symm)]

theorem slotAt_setSlot {i : Nat} {x : Slot} {s : State} (h : slotAt i s = some x)
    (y : Option Slot) (j : Nat) : slotAt j (setSlot i y s) = if j = i then y else slotAt j s := by
  have hl : i < s.pool.slots.length := by
    rcases Nat.lt_or_ge i s.pool.slots.length with k | k
    · exact k
    · unfold slotAt at h
      rw [List.getD_eq_default _ _ k] at h
      exact absurd h (by simp)
  unfold slotAt setSlot
  simp only [State.setPool_pool, List.getD_eq_getElem?_getD, List.getElem?_set]
  by_cases k : i = j
  · subst k
    simp [hl]
  · rw [if_neg k, if_neg (fun e => k e.symm)]

theorem running_of_offer {P : Keys} {s : State} {i : Nat} {o : Offer} (w : Weak P s)
    (h : offerAt i s = some o) : s.phase = .running := by
  by_cases k : s.phase = .running
  · exact k
  · have := (w.rest k i).1
    rw [h] at this
    exact absurd this (by simp)

theorem running_of_slot {P : Keys} {s : State} {i : Nat} {x : Slot} (w : Weak P s)
    (h : slotAt i s = some x) : s.phase = .running := by
  by_cases k : s.phase = .running
  · exact k
  · have := (w.rest k i).2
    rw [h] at this
    exact absurd this (by simp)

/-- An entry that stays BID_SENT with its bid, or stays without one. -/
theorem Weak.setOffer_same {P : Keys} {s : State} {i : Nat} {o p : Offer} (w : Weak P s)
    (h : offerAt i s = some o) (hj : p.job = true → o.job = true) (hb : p.bidSeq = o.bidSeq)
    (hs : o.state = .bidSent → p.bidSeq ≠ none → p.state = .bidSent) :
    Weak P (setOffer i (some p) s) := by
  have a := offerAt_setOffer h (some p)
  refine ⟨?_, ?_, ?_, w.text, w.used, w.refs, fun k => absurd (running_of_offer w h) k⟩
  · intro j k x y
    rw [a j, a k]
    intro hx hy jx jy
    by_cases e1 : j = i
    · by_cases e2 : k = i
      · rw [e1, e2]
      · rw [if_pos e1] at hx
        rw [if_neg e2] at hy
        simp only [Option.some.injEq] at hx
        rw [← hx] at jx
        rw [e1]
        exact w.job i k o y h hy (hj jx) jy
    · by_cases e2 : k = i
      · rw [if_neg e1] at hx
        rw [if_pos e2] at hy
        simp only [Option.some.injEq] at hy
        rw [← hy] at jy
        rw [e2]
        exact w.job j i x o hx h jx (hj jy)
      · rw [if_neg e1] at hx
        rw [if_neg e2] at hy
        exact w.job j k x y hx hy jx jy
  · intro r q k
    obtain ⟨j, x, h1, h2, h3⟩ := w.bid r q k
    by_cases e : j = i
    · subst e
      rw [h] at h2
      cases h2
      exact ⟨j, p, h1, by rw [a, if_pos rfl], by rw [hb]; exact h3⟩
    · exact ⟨j, x, h1, by rw [a, if_neg e]; exact h2, h3⟩
  · intro j x q
    rw [a j]
    by_cases e : j = i
    · rw [if_pos e]
      intro hx hq
      simp only [Option.some.injEq] at hx
      rw [← hx] at hq ⊢
      obtain ⟨k1, k2⟩ := w.named i o q h (by rw [← hb]; exact hq)
      exact ⟨hs k1 (by rw [hq]; simp), by rw [e]; exact k2⟩
    · rw [if_neg e]
      exact w.named j x q

/-- An entry that loses its bid. -/
theorem Weak.setOffer_drop {P : Keys} {s : State} {i : Nat} {o : Offer} {p : Option Offer}
    (w : Weak P s) (h : offerAt i s = some o) 
    (hj : ∀ x, p = some x → x.job = true →
      ∀ j y, offerAt j s = some y → y.job = true → j = i)
    (hb : ∀ x, p = some x → x.bidSeq = none) : Weak (dropBid P i) (setOffer i p s) := by
  have a := offerAt_setOffer h p
  refine ⟨?_, ?_, ?_, fun r q k => w.text r q k.1, w.used,
    fun j x q h1 h2 => ⟨w.refs j x q h1 h2, fun k => by cases k.1⟩,
    fun k => absurd (running_of_offer w h) k⟩
  · intro j k x y
    rw [a j, a k]
    intro hx hy jx jy
    by_cases e1 : j = i
    · by_cases e2 : k = i
      · rw [e1, e2]
      · rw [if_pos e1] at hx
        rw [if_neg e2] at hy
        rw [e1]
        exact (hj x hx jx k y hy jy).symm
    · by_cases e2 : k = i
      · rw [if_neg e1] at hx
        rw [if_pos e2] at hy
        rw [e2]
        exact hj y hy jy j x hx jx
      · rw [if_neg e1] at hx
        rw [if_neg e2] at hy
        exact w.job j k x y hx hy jx jy
  · intro r q k
    obtain ⟨j, x, h1, h2, h3⟩ := w.bid r q k.1
    refine ⟨j, x, h1, ?_, h3⟩
    rw [a, if_neg]
    · exact h2
    · intro e
      exact k.2 ⟨rfl, by rw [h1, e]⟩
  · intro j x q
    rw [a j]
    by_cases e : j = i
    · rw [if_pos e]
      intro hx hq
      rw [hb x hx] at hq
      exact absurd hq (by simp)
    · rw [if_neg e]
      intro hx hq
      obtain ⟨k1, k2⟩ := w.named j x q hx hq
      exact ⟨k1, k2, fun k => e (by injection k.2)⟩

/-- No entry of the set is the BID of an offer entry without a bid sequence. -/
theorem dropBid_same {P : Keys} {s : State} {i : Nat} {o : Offer} (w : Weak P s)
    (h : offerAt i s = some o) (hb : o.bidSeq = none) (c : UpClass) (r : OwnerRef) (q : Nat) :
    P c r q ↔ dropBid P i c r q := by
  refine ⟨fun k => ⟨k, ?_⟩, fun k => k.1⟩
  rintro ⟨rfl, rfl⟩
  obtain ⟨j, x, h1, h2, h3⟩ := w.bid _ _ k
  injection h1 with e
  rw [← e, h] at h2
  cases h2
  rw [hb] at h3
  exact absurd h3 (by simp)

theorem openLaw_setOffer {s : State} {i : Nat} {o : Offer} {p : Option Offer}
    (h : offerAt i s = some o) (hp : ∀ x, p = some x → x.state = .open → o.state = .open)
    (k : OpenLaw s) : OpenLaw (setOffer i p s) := by
  intro e j x
  rw [offerAt_setOffer h p j]
  by_cases c : j = i
  · rw [if_pos c]
    intro hx hs
    exact k e i o h (hp x hx hs)
  · rw [if_neg c]
    exact k e j x

/-- An entry that changes without gaining or losing a bid or a job. -/
theorem setOffer_holds {s : State} {i : Nat} {o p : Offer} (h : offerAt i s = some o)
    (hj : p.job = true → o.job = true) (hb : p.bidSeq = o.bidSeq)
    (hs : o.state = .bidSent → p.bidSeq ≠ none → p.state = .bidSent)
    (ho : p.state = .open → o.state = .open) : Holds s (setOffer i (some p) s) :=
  ⟨fun _ w => w.setOffer_same h hj hb hs,
   fun _ _ k => openLaw_setOffer h (fun x hx hx' => by cases hx; exact ho hx') k,
   fun _ _ _ => Iff.rfl⟩

/-- A slot that keeps its reference or has none. -/
theorem Weak.setSlot_same {P : Keys} {s : State} {i : Nat} {x : Slot} {y : Option Slot}
    (w : Weak P s) (h : slotAt i s = some x) (hr : y.bind (·.ref) = x.ref)
    (hu : ∀ z, y = some z → z.held ≠ none ∨ z.ref ≠ none) : Weak P (setSlot i y s) := by
  have a := slotAt_setSlot h y
  refine ⟨w.job, w.bid, w.named, ?_, ?_, ?_, fun k => absurd (running_of_slot w h) k⟩
  · intro r q k
    obtain ⟨j, z, h1, h2, h3⟩ := w.text r q k
    by_cases e : j = i
    · subst e
      rw [h] at h2
      cases h2
      cases y with
      | none => rw [← hr] at h3; exact absurd h3 (by simp)
      | some y => exact ⟨j, y, h1, by rw [a, if_pos rfl], by rw [← h3, ← hr]; rfl⟩
    · exact ⟨j, z, h1, by rw [a, if_neg e]; exact h2, h3⟩
  · intro j z
    rw [a j]
    by_cases e : j = i
    · rw [if_pos e]; exact hu z
    · rw [if_neg e]; exact w.used j z
  · intro j z q
    rw [a j]
    by_cases e : j = i
    · rw [if_pos e]
      intro hz hq
      rw [hz] at hr
      rw [e]
      exact w.refs i x q h (by rw [← hr]; exact hq)
    · rw [if_neg e]; exact w.refs j z q

/-- A slot that loses its TEXT. -/
theorem Weak.setSlot_drop {P : Keys} {s : State} {i : Nat} {x : Slot} {y : Option Slot}
    (w : Weak P s) (h : slotAt i s = some x) (hr : y.bind (·.ref) = none)
    (hu : ∀ z, y = some z → z.held ≠ none) : Weak (dropText P i) (setSlot i y s) := by
  have a := slotAt_setSlot h y
  refine ⟨w.job, fun r q k => w.bid r q k.1, fun j o q h1 h2 => ?_, ?_, ?_, ?_,
    fun k => absurd (running_of_slot w h) k⟩
  · obtain ⟨k1, k2⟩ := w.named j o q h1 h2
    exact ⟨k1, k2, fun k => by cases k.1⟩
  · intro r q k
    obtain ⟨j, z, h1, h2, h3⟩ := w.text r q k.1
    refine ⟨j, z, h1, ?_, h3⟩
    rw [a, if_neg]
    · exact h2
    · intro e
      exact k.2 ⟨rfl, by rw [h1, e]⟩
  · intro j z
    rw [a j]
    by_cases e : j = i
    · rw [if_pos e]; exact fun k => Or.inl (hu z k)
    · rw [if_neg e]; exact w.used j z
  · intro j z q
    rw [a j]
    by_cases e : j = i
    · rw [if_pos e]
      intro hz hq
      rw [hz] at hr
      exact absurd (hr.symm.trans hq) (by simp)
    · rw [if_neg e]
      intro hz hq
      exact ⟨w.refs j z q hz hq, fun k => e (by injection k.2)⟩

theorem setSlot_holds {s : State} {i : Nat} {x : Slot} {y : Option Slot} (h : slotAt i s = some x)
    (hr : y.bind (·.ref) = x.ref) (hu : ∀ z, y = some z → z.held ≠ none ∨ z.ref ≠ none) :
    Holds s (setSlot i y s) :=
  ⟨fun _ w => w.setSlot_same h hr hu, fun _ _ k => k, fun _ _ _ => Iff.rfl⟩

/-! ### Reports -/

theorem countHeld_still (s : State) : Still s (countHeld s) := ⟨rfl, rfl, rfl, rfl, rfl⟩

theorem placeEvent_still (e : Event) (s : State) : Still s (placeEvent e s) :=
  ⟨rfl, rfl, rfl, rfl, rfl⟩

theorem not_job_of_closing {o : Offer} (h : o.state = .closing) : o.job = false := by
  unfold Offer.job; rw [h]; rfl

/-- An entry whose report is placed. -/
theorem placedOffer_holds {s : State} {i : Nat} {o : Offer} (h : offerAt i s = some o) :
    Holds s (setOffer i o.placed s) := by
  unfold Offer.placed
  split
  · rename_i hc
    refine ⟨fun P w => ?_, fun P _ k => openLaw_setOffer h (fun x hx => by cases hx) k,
      fun _ _ _ => Iff.rfl⟩
    have hb : o.bidSeq = none := by
      cases hq : o.bidSeq with
      | none => rfl
      | some q =>
        have := (w.named i o q h hq).1
        rw [hc] at this
        exact absurd this (by decide)
    exact (w.setOffer_drop h (fun x hx => by cases hx) (fun x hx => by cases hx)).congr
      (dropBid_same w h hb)
  · exact setOffer_holds h id rfl (fun k _ => k) id

theorem placedSlot_holds {s : State} {i : Nat} {x : Slot} (h : slotAt i s = some x) :
    Holds s (setSlot i x.placed s) := by
  unfold Slot.placed
  split
  · rename_i hr
    rw [Option.isNone_iff_eq_none] at hr
    exact setSlot_holds h (by rw [hr]; rfl) (fun z hz => by cases hz)
  · rename_i hr
    refine setSlot_holds h rfl (fun z hz => Or.inr ?_)
    cases hz
    simpa using hr

theorem placeFrom_holds (src : HeldSource) (s : State) : Holds s (placeFrom src s) := by
  cases src <;> simp only [placeFrom]
  · split
    · rename_i o ho
      split
      · exact (placedOffer_holds (by exact ho)).trans (placeEvent_still _ _).holds
      · exact Holds.refl s
    · exact Holds.refl s
  · split
    · rename_i x hx
      split
      · exact (placedSlot_holds (by exact hx)).trans (placeEvent_still _ _).holds
      · exact Holds.refl s
    · exact Holds.refl s
  · split
    · exact Still.holds ⟨rfl, rfl, rfl, rfl, rfl⟩
    · exact Holds.refl s
  · split
    · exact Still.holds ⟨rfl, rfl, rfl, rfl, rfl⟩
    · exact Holds.refl s
  · split
    · exact Still.holds ⟨rfl, rfl, rfl, rfl, rfl⟩
    · exact Holds.refl s

theorem placeOne_holds (s : State) : Holds s (placeOne s) := by
  unfold placeOne
  refine Holds.ite (fun _ => ?_) (fun _ => Holds.refl s)
  split
  · exact placeFrom_holds _ s
  · exact Holds.refl s

theorem placeMany_holds (n : Nat) (s : State) : Holds s (placeMany n s) := by
  induction n generalizing s with
  | zero => exact Holds.refl s
  | succ n ih => exact (placeOne_holds s).trans (ih _)

theorem placeHeld_holds (s : State) : Holds s (placeHeld s) := placeMany_holds _ s

theorem placeHeld_kept (s : State) : Kept s (placeHeld s) :=
  (placeHeld_holds s).kept (placeHeld_quiet s).queue

/-! ### Closings -/

/-- An entry closes, and no BID of it is in the set any more. -/
theorem closeWith_weak {P : Keys} {s : State} {i : Nat} {o x : Offer} (r : Option ClosingReason)
    (tag : Half) (p : Payload) (w : Weak P s) (h : offerAt i s = some x) :
    Weak (dropBid P i) (closeWith i o r tag p s) := by
  unfold closeWith
  refine ((countHeld_still _).holds.weak _ (w.setOffer_drop h ?_ ?_))
  · intro y hy hj
    cases hy
    exact absurd hj (by simp [Offer.job])
  · intro y hy
    cases hy
    rfl

theorem closeWith_shut {s : State} {i : Nat} {o x : Offer} (r : Option ClosingReason)
    (tag : Half) (p : Payload) (h : offerAt i s = some x) (k : OpenLaw s) :
    OpenLaw (closeWith i o r tag p s) := by
  unfold closeWith
  refine openLaw_same rfl rfl (openLaw_setOffer h ?_ k)
  intro y hy hs
  cases hy
  exact absurd hs (by simp)

theorem closeWith_keys (i : Nat) (o : Offer) (r : Option ClosingReason) (tag : Half) (p : Payload)
    (s : State) (c : UpClass) (f : OwnerRef) (q : Nat) :
    keyIn (closeWith i o r tag p s) c f q ↔ keyIn s c f q := Iff.rfl

/-- An entry without a bid closes. -/
theorem closeWith_holds {s : State} {i : Nat} {o x : Offer} (r : Option ClosingReason)
    (tag : Half) (p : Payload) (h : offerAt i s = some x)
    (hb : ∀ P, Weak P s → x.bidSeq = none) : Holds s (closeWith i o r tag p s) :=
  ⟨fun _ w => (closeWith_weak r tag p w h).congr (dropBid_same w h (hb _ w)),
   fun _ _ k => closeWith_shut r tag p h k, closeWith_keys i o r tag p s⟩

theorem bidSeq_none {P : Keys} {s : State} {i : Nat} {o : Offer} (w : Weak P s)
    (h : offerAt i s = some o) (hs : o.state ≠ .bidSent) : o.bidSeq = none := by
  cases hq : o.bidSeq with
  | none => rfl
  | some q => exact absurd (w.named i o q h hq).1 hs

/-- An entry that is not BID_SENT closes. -/
theorem closeOffer_holds {s : State} {i : Nat} {o x : Offer} (r : ClosingReason) (n : ReleaseNote)
    (h : offerAt i s = some x) (hs : x.state ≠ .bidSent) : Holds s (closeOffer i o r n s) :=
  closeWith_holds _ _ _ h (fun _ w => bidSeq_none w h hs)

theorem mem_insertOpen (x y : Nat × Offer) (l : List (Nat × Offer)) :
    x ∈ insertOpen y l ↔ x = y ∨ x ∈ l := by
  induction l with
  | nil => simp [insertOpen]
  | cons z l ih =>
    simp only [insertOpen]
    split
    · simp only [List.mem_cons]
    · simp only [List.mem_cons, ih]
      tauto

theorem mem_openOffers (j : Nat) (o : Offer) (l : List (Option Offer)) (k : Nat) :
    (j, o) ∈ openOffers k l ↔ k ≤ j ∧ l.getD (j - k) none = some o ∧ o.state = .open := by
  induction l generalizing k with
  | nil => simp [openOffers]
  | cons a l ih =>
    have step : (k + 1 ≤ j ∧ l.getD (j - (k + 1)) none = some o ∧ o.state = .open) ↔
        (k ≤ j ∧ (a :: l).getD (j - k) none = some o ∧ o.state = .open ∧ j ≠ k) := by
      constructor
      · rintro ⟨h1, h2, h3⟩
        refine ⟨by omega, ?_, h3, by omega⟩
        rw [show j - k = (j - (k + 1)) + 1 by omega]
        simpa using h2
      · rintro ⟨h1, h2, h3, h4⟩
        refine ⟨by omega, ?_, h3⟩
        rw [show j - k = (j - (k + 1)) + 1 by omega] at h2
        simpa using h2
    cases a with
    | none =>
      simp only [openOffers, ih, step]
      constructor
      · rintro ⟨h1, h2, h3, -⟩; exact ⟨h1, h2, h3⟩
      · rintro ⟨h1, h2, h3⟩
        refine ⟨h1, h2, h3, ?_⟩
        rintro rfl
        simp at h2
    | some b =>
      simp only [openOffers]
      split
      · rename_i hb
        rw [mem_insertOpen, ih, step]
        constructor
        · rintro (h | ⟨h1, h2, h3, -⟩)
          · cases h
            exact ⟨Nat.le_refl _, by simp, hb⟩
          · exact ⟨h1, h2, h3⟩
        · rintro ⟨h1, h2, h3⟩
          by_cases e : j = k
          · left
            subst e
            simp at h2
            rw [h2]
          · exact Or.inr ⟨h1, h2, h3, e⟩
      · rename_i hb
        rw [ih, step]
        constructor
        · rintro ⟨h1, h2, h3, -⟩; exact ⟨h1, h2, h3⟩
        · rintro ⟨h1, h2, h3⟩
          refine ⟨h1, h2, h3, ?_⟩
          rintro rfl
          simp at h2
          rw [h2] at hb
          exact hb h3

theorem offerAt_closeOffer {i : Nat} {o x : Offer} {s : State} (h : offerAt i s = some x)
    (r : ClosingReason) (n : ReleaseNote) (j : Nat) :
    ∃ y : Offer, y.state = .closing ∧
      offerAt j (closeOffer i o r n s) = if j = i then some y else offerAt j s := by
  refine ⟨_, ?_, (offerAt_of_entries (s := setOffer i _ s) rfl j).trans (offerAt_setOffer h _ j)⟩
  rfl

/-- Closing a list of entries, none of them BID_SENT. -/
theorem closeAll_holds (r : ClosingReason) (l : List (Nat × Offer)) {s : State}
    (h : ∀ i o, (i, o) ∈ l → ∃ x, offerAt i s = some x ∧ x.state ≠ .bidSent) :
    Holds s (closeAll r l s) := by
  induction l generalizing s with
  | nil => exact Holds.refl s
  | cons y l ih =>
    obtain ⟨i, o⟩ := y
    obtain ⟨x, h1, h2⟩ := h i o (List.mem_cons_self ..)
    refine (closeOffer_holds r .noneOffered h1 h2).trans (ih ?_)
    intro j p hp
    obtain ⟨z, k1, k2⟩ := h j p (List.mem_cons_of_mem _ hp)
    obtain ⟨y, a, b⟩ := offerAt_closeOffer (o := o) h1 r .noneOffered j
    rw [b]
    by_cases e : j = i
    · rw [if_pos e]; exact ⟨y, rfl, by rw [a]; decide⟩
    · rw [if_neg e]; exact ⟨z, k1, k2⟩

/-- After the closings an entry is OPEN only if it was and is not in the list. -/
theorem closeAll_open (r : ClosingReason) (l : List (Nat × Offer)) {s : State}
    (h : ∀ i o, (i, o) ∈ l → ∃ x, offerAt i s = some x) (j : Nat) (o : Offer)
    (ho : offerAt j (closeAll r l s) = some o) (hs : o.state = .open) :
    offerAt j s = some o ∧ ∀ p, (j, p) ∉ l := by
  induction l generalizing s with
  | nil => exact ⟨ho, by simp⟩
  | cons y l ih =>
    obtain ⟨i, p⟩ := y
    obtain ⟨x, h1⟩ := h i p (List.mem_cons_self ..)
    have g : ∀ k q, (k, q) ∈ l → ∃ z, offerAt k (closeOffer i p r .noneOffered s) = some z := by
      intro k q hq
      obtain ⟨z, k1⟩ := h k q (List.mem_cons_of_mem _ hq)
      obtain ⟨y, -, b⟩ := offerAt_closeOffer (o := p) h1 r .noneOffered k
      rw [b]
      by_cases e : k = i
      · rw [if_pos e]; exact ⟨y, rfl⟩
      · rw [if_neg e]; exact ⟨z, k1⟩
    obtain ⟨a, b⟩ := ih g ho
    obtain ⟨y, c, d⟩ := offerAt_closeOffer (o := p) h1 r .noneOffered j
    rw [d] at a
    by_cases e : j = i
    · rw [if_pos e] at a
      cases a
      rw [hs] at c
      exact absurd c (by decide)
    · rw [if_neg e] at a
      refine ⟨a, fun q hq => ?_⟩
      rcases List.mem_cons.mp hq with k | k
      · exact e (congrArg Prod.fst k)
      · exact b q k

theorem openOffers_at {s : State} {i : Nat} {o : Offer}
    (h : (i, o) ∈ openOffers 0 s.offers.entries) : offerAt i s = some o ∧ o.state = .open := by
  have := (mem_openOffers i o s.offers.entries 0).mp h
  exact ⟨this.2.1, this.2.2⟩

theorem closeOpen_holds (r : ClosingReason) (s : State) : Holds s (closeOpen r s) :=
  closeAll_holds r _ (fun i o h => ⟨o, (openOffers_at h).1, by rw [(openOffers_at h).2]; decide⟩)

/-- After the closings no entry is OPEN. -/
theorem closeOpen_shuts (r : ClosingReason) (s : State) (j : Nat) (o : Offer)
    (h : offerAt j (closeOpen r s) = some o) : o.state ≠ .open := by
  intro hs
  obtain ⟨a, b⟩ := closeAll_open r _ (fun i o h => ⟨o, (openOffers_at h).1⟩) j o h hs
  exact b o ((mem_openOffers j o s.offers.entries 0).mpr ⟨Nat.zero_le _, a, hs⟩)

theorem dutyAfter_holds (d : Duty) (tag : Half) (c : DutyCause) (s : State) :
    Holds s (dutyAfter d tag c s) := by
  unfold dutyAfter
  simp only
  have h : Holds s (if effectiveDuty s = d then s
      else produce tag (.dutyChanged s.offers.driverDuty (effectiveDuty s) d c) s) :=
    Holds.ite (fun _ => Holds.refl s) (fun _ => (produce_still _ _ s).holds)
  exact Holds.ite (fun _ => h) (fun _ => h.trans (closeOpen_holds _ _))

/-! ### Changes of the queue -/

theorem updateEntry_holds {q : Nat} {f : Entry → Entry} (hc : ∀ e, (f e).cls = e.cls)
    (hr : ∀ e, (f e).ref = e.ref) (hs : ∀ e, (f e).seq = e.seq) (s : State) :
    Holds s (updateEntry q f s) := by
  refine ⟨fun _ w => w.same (s := s) (t := updateEntry q f s) rfl rfl rfl,
    fun _ _ o => openLaw_same rfl rfl o, fun c r k => ?_⟩
  have g : ∀ e : Entry, (if e.seq = q then f e else e).cls = e.cls ∧
      (if e.seq = q then f e else e).ref = e.ref ∧ (if e.seq = q then f e else e).seq = e.seq := by
    intro e
    split
    · exact ⟨hc e, hr e, hs e⟩
    · exact ⟨rfl, rfl, rfl⟩
  refine and_congr_right (fun _ => ⟨?_, ?_⟩)
  · rintro ⟨e, he, h1, h2, h3⟩
    obtain ⟨x, hx, rfl⟩ := List.mem_map.mp he
    obtain ⟨a, b, d⟩ := g x
    exact ⟨x, hx, a.symm.trans h1, b.symm.trans h2, d.symm.trans h3⟩
  · rintro ⟨x, hx, h1, h2, h3⟩
    obtain ⟨a, b, d⟩ := g x
    exact ⟨_, List.mem_map.mpr ⟨x, hx, rfl⟩, a.trans h1, b.trans h2, d.trans h3⟩

theorem updateEntry_kept {q : Nat} {f : Entry → Entry} (hc : ∀ e, (f e).cls = e.cls)
    (hr : ∀ e, (f e).ref = e.ref) (hs : ∀ e, (f e).seq = e.seq) (s : State) :
    Kept s (updateEntry q f s) :=
  (updateEntry_holds hc hr hs s).kept (updateEntry_quiet hc hs s).queue

theorem eq_of_seq {s : State} (h : QueueLaw s) {e x : Entry} (he : e ∈ s.uplink.entries)
    (hx : x ∈ s.uplink.entries) (hq : e.seq = x.seq) : e = x := by
  have := h.2.2
  exact List.inj_on_of_nodup_map this he hx hq

theorem keyIn_remove (q : Nat) (s : State) (c : UpClass) (r : OwnerRef) (k : Nat) :
    keyIn (removeEntry q s) c r k ↔ keyIn s c r k ∧ k ≠ q := by
  constructor
  · rintro ⟨hc, e, he, h1, h2, h3⟩
    obtain ⟨a, b⟩ := List.mem_filter.mp he
    refine ⟨⟨hc, e, a, h1, h2, h3⟩, ?_⟩
    rw [← h3]
    simpa using b
  · rintro ⟨⟨hc, e, he, h1, h2, h3⟩, n⟩
    exact ⟨hc, e, List.mem_filter.mpr ⟨he, by simpa [h3] using n⟩, h1, h2, h3⟩

theorem keyIn_remove_bid {s : State} {e : Entry} {i : Nat} (ql : QueueLaw s)
    (w : Weak (keyIn s) s) (he : e ∈ s.uplink.entries) (hc : e.cls = .bid) (hr : e.ref = .offer i)
    (c : UpClass) (r : OwnerRef) (k : Nat) :
    keyIn (removeEntry e.seq s) c r k ↔ dropBid (keyIn s) i c r k := by
  rw [keyIn_remove]
  refine and_congr_right (fun h => ?_)
  constructor
  · rintro n ⟨rfl, rfl⟩
    obtain ⟨j, o, h1, h2, h3⟩ := w.bid _ _ h
    obtain ⟨j', o', k1, k2, k3⟩ := w.bid e.ref e.seq ⟨Or.inl rfl, e, he, hc, rfl, rfl⟩
    rw [hr] at k1
    cases h1
    cases k1
    rw [h2] at k2
    cases k2
    rw [h3] at k3
    exact n (by injection k3)
  · rintro n rfl
    obtain ⟨-, x, hx, x1, x2, x3⟩ := h
    have := eq_of_seq ql hx he x3
    subst this
    exact n ⟨x1.symm.trans hc, x2.symm.trans hr⟩

theorem keyIn_remove_text {s : State} {e : Entry} {i : Nat} (ql : QueueLaw s)
    (w : Weak (keyIn s) s) (he : e ∈ s.uplink.entries) (hc : e.cls = .text) (hr : e.ref = .slot i)
    (c : UpClass) (r : OwnerRef) (k : Nat) :
    keyIn (removeEntry e.seq s) c r k ↔ dropText (keyIn s) i c r k := by
  rw [keyIn_remove]
  refine and_congr_right (fun h => ?_)
  constructor
  · rintro n ⟨rfl, rfl⟩
    obtain ⟨j, o, h1, h2, h3⟩ := w.text _ _ h
    obtain ⟨j', o', k1, k2, k3⟩ := w.text e.ref e.seq ⟨Or.inr rfl, e, he, hc, rfl, rfl⟩
    rw [hr] at k1
    cases h1
    cases k1
    rw [h2] at k2
    cases k2
    rw [h3] at k3
    exact n (by injection k3)
  · rintro n rfl
    obtain ⟨-, x, hx, x1, x2, x3⟩ := h
    have := eq_of_seq ql hx he x3
    subst this
    exact n ⟨x1.symm.trans hc, x2.symm.trans hr⟩

theorem keyIn_remove_other {s : State} {e : Entry} (ql : QueueLaw s) (he : e ∈ s.uplink.entries)
    (hb : e.cls ≠ .bid) (ht : e.cls ≠ .text) (c : UpClass) (r : OwnerRef) (k : Nat) :
    keyIn (removeEntry e.seq s) c r k ↔ keyIn s c r k := by
  rw [keyIn_remove]
  refine ⟨fun h => h.1, fun h => ⟨h, ?_⟩⟩
  rintro rfl
  obtain ⟨hc, x, hx, x1, x2, x3⟩ := h
  have := eq_of_seq ql hx he x3
  subst this
  rcases hc with hc | hc
  · exact hb (x1.trans hc)
  · exact ht (x1.trans hc)

theorem removeEntry_weak {P : Keys} (q : Nat) {s : State} (w : Weak P s) :
    Weak P (removeEntry q s) := w.same (s := s) (t := removeEntry q s) rfl rfl rfl

theorem removeEntry_shut (q : Nat) {s : State} (o : OpenLaw s) : OpenLaw (removeEntry q s) :=
  openLaw_same rfl rfl o

/-- An entry that is neither BID nor TEXT leaves. -/
theorem removeOther_kept {s : State} {e : Entry} (he : e ∈ s.uplink.entries) (hb : e.cls ≠ .bid)
    (ht : e.cls ≠ .text) : Kept s (removeEntry e.seq s) :=
  ⟨(removeEntry_quiet _ s).queue,
   fun ql w => (removeEntry_weak _ w).congr (keyIn_remove_other ql he hb ht),
   fun _ _ o => removeEntry_shut _ o⟩

/-! ### Texts -/

theorem textOutcome_keys (e : Entry) (p : Nat → Payload) (b : Bool) (s : State) (c : UpClass)
    (r : OwnerRef) (q : Nat) : keyIn (textOutcome e p b s) c r q ↔ keyIn s c r q := by
  unfold textOutcome
  split
  · split <;> exact Iff.rfl
  · exact Iff.rfl

theorem textOutcome_shut (e : Entry) (p : Nat → Payload) (b : Bool) {s : State} (o : OpenLaw s) :
    OpenLaw (textOutcome e p b s) := by
  unfold textOutcome
  split
  · split <;> exact o
  · exact o

/-- The outcome of a TEXT that leaves the queue. -/
theorem textOutcome_weak {P : Keys} {s : State} {e : Entry} {i : Nat} (p : Nat → Payload)
    (w : Weak P s) (hr : e.ref = .slot i) (hk : P .text e.ref e.seq) :
    Weak (dropText P i) (textOutcome e p false s) := by
  obtain ⟨j, x, h1, h2, h3⟩ := w.text _ _ hk
  rw [hr] at h1
  cases h1
  have h4 : s.pool.slots.getD i none = some x := h2
  unfold textOutcome
  rw [hr]
  simp only [h4]
  refine (countHeld_still _).holds.weak _ (w.setSlot_drop h2 rfl ?_)
  intro z hz
  cases hz
  simp

/-- The outcome of a TEXT that stays for its close of transmission. -/
theorem textOutcome_holds (e : Entry) (p : Nat → Payload) (s : State) :
    Holds s (textOutcome e p true s) := by
  unfold textOutcome
  split
  · split
    · rename_i x hx
      refine (setSlot_holds (x := x) hx rfl ?_).trans (countHeld_still _).holds
      intro z hz
      cases hz
      exact Or.inl (by simp)
    · exact Holds.refl s
  · exact Holds.refl s

theorem clearSlotRef_weak {P : Keys} {s : State} {e : Entry} {i : Nat} (w : Weak P s)
    (hr : e.ref = .slot i) (hk : P .text e.ref e.seq) :
    Weak (dropText P i) (clearSlotRef e s) := by
  obtain ⟨j, x, h1, h2, h3⟩ := w.text _ _ hk
  rw [hr] at h1
  cases h1
  have h4 : s.pool.slots.getD i none = some x := h2
  unfold clearSlotRef
  rw [hr]
  simp only [h4]
  refine w.setSlot_drop h2 ?_ ?_
  · split <;> rfl
  · intro z hz
    split at hz
    · cases hz
    · rename_i hn
      cases hz
      simpa using hn

theorem clearSlotRef_keys (e : Entry) (s : State) (c : UpClass) (r : OwnerRef) (q : Nat) :
    keyIn (clearSlotRef e s) c r q ↔ keyIn s c r q := by
  unfold clearSlotRef
  split
  · split <;> exact Iff.rfl
  · exact Iff.rfl

theorem clearSlotRef_shut (e : Entry) {s : State} (o : OpenLaw s) : OpenLaw (clearSlotRef e s) := by
  unfold clearSlotRef
  split
  · split <;> exact o
  · exact o

theorem textSlot {P : Keys} {s : State} {e : Entry} (w : Weak P s) (hk : P .text e.ref e.seq) :
    ∃ i, e.ref = .slot i := by
  obtain ⟨i, -, h, -⟩ := w.text _ _ hk
  exact ⟨i, h⟩

theorem keyIn_of_mem {s : State} {e : Entry} (he : e ∈ s.uplink.entries)
    (hc : e.cls = .bid ∨ e.cls = .text) : keyIn s e.cls e.ref e.seq :=
  ⟨hc, e, he, rfl, rfl, rfl⟩

/-- A displaced entry leaves and its owner is told. -/
theorem displace_kept {s : State} {e : Entry} (he : e ∈ s.uplink.entries) (hb : e.cls ≠ .bid) :
    Kept s (tellDisplaced e (removeEntry e.seq s)) := by
  have hq := ((removeEntry_quiet e.seq s).trans (tellDisplaced_quiet e _)).queue
  by_cases ht : e.cls = .text
  · have eq : tellDisplaced e (removeEntry e.seq s) = textFailed .displaced e (removeEntry e.seq s) := by
      unfold tellDisplaced
      rw [ht]
    refine ⟨hq, fun ql w => ?_, fun _ _ o => ?_⟩
    · have hk : keyIn s .text e.ref e.seq := by
        have := keyIn_of_mem he (Or.inr ht)
        rw [ht] at this
        exact this
      obtain ⟨i, hi⟩ := textSlot w hk
      rw [eq]
      refine (textOutcome_weak _ (removeEntry_weak e.seq w) hi hk).congr (fun c r q => ?_)
      exact (textOutcome_keys _ _ _ _ c r q).trans (keyIn_remove_text ql w he ht hi c r q)
    · rw [eq]
      exact textOutcome_shut _ _ _ (removeEntry_shut _ o)
  · refine (removeOther_kept he hb ht).trans (Still.kept ?_)
    unfold tellDisplaced
    split
    · rename_i h; exact absurd h ht
    · exact ⟨rfl, rfl, rfl, rfl, rfl⟩
    · exact ⟨rfl, rfl, rfl, rfl, rfl⟩
    · exact Still.refl _

/-! ### Admission -/

/-- What an insertion does to the books: it adds the entry's own key. -/
theorem insertNew_books (cls : UpClass) (body : List Byte) (tr ca : Bool) (ref : OwnerRef)
    (s : State) :
    (insertNew cls body tr ca ref s).1.phase = s.phase ∧
    (insertNew cls body tr ca ref s).1.emerg.state = s.emerg.state ∧
    (insertNew cls body tr ca ref s).1.offers.entries = s.offers.entries ∧
    (insertNew cls body tr ca ref s).1.pool.slots = s.pool.slots ∧
    (∀ q, (insertNew cls body tr ca ref s).2 = .admitted q → ∀ c r k,
      keyIn (insertNew cls body tr ca ref s).1 c r k ↔
        (keyIn s c r k ∨ ((c = .bid ∨ c = .text) ∧ cls = c ∧ ref = r ∧ q = k))) ∧
    ((insertNew cls body tr ca ref s).2.ok = false →
      (insertNew cls body tr ca ref s).1 = s) := by
  unfold insertNew
  split
  · rename_i q hq
    have h := linkReact_still ((s.setUplink { s.uplink with
      entries := insertEntry (freshEntry cls body tr ca ref q s.uplink.nextTime) s.uplink.entries,
      nextTime := s.uplink.nextTime + 1 }).setLink
        { s.link with seqCounter := nextSeq q s.settings.accepted.seqMax })
    refine ⟨h.phase, h.em, h.offers, h.slots, ?_, fun k => by simp [Admission.ok] at k⟩
    intro q' hq' c r k
    cases hq'
    refine (h.holds.keys c r k).trans ?_
    constructor
    · rintro ⟨hc, e, he, h1, h2, h3⟩
      rcases (mem_insertEntry _ _ _).mp he with rfl | he
      · exact Or.inr ⟨hc, h1, h2, h3⟩
      · exact Or.inl ⟨hc, e, he, h1, h2, h3⟩
    · rintro (⟨hc, e, he, h1, h2, h3⟩ | ⟨hc, h1, h2, h3⟩)
      · exact ⟨hc, e, (mem_insertEntry _ _ _).mpr (Or.inr he), h1, h2, h3⟩
      · exact ⟨hc, _, (mem_insertEntry _ _ _).mpr (Or.inl rfl), h1, h2, h3⟩
  · exact ⟨rfl, rfl, rfl, rfl, fun q h => by simp at h, fun _ => rfl⟩

/-- An insertion of an entry that is neither BID nor TEXT. -/
theorem insertOther_holds {cls : UpClass} (body : List Byte) (tr ca : Bool) (ref : OwnerRef)
    (s : State) (hb : cls ≠ .bid) (ht : cls ≠ .text) : Holds s (insertNew cls body tr ca ref s).1 := by
  obtain ⟨h1, h2, h3, h4, h5, h6⟩ := insertNew_books cls body tr ca ref s
  refine ⟨fun _ w => w.same h1 h3 h4, fun _ _ o => openLaw_same h2 h3 o, fun c r k => ?_⟩
  cases h : (insertNew cls body tr ca ref s).2 with
  | admitted q =>
    rw [h5 q h]
    refine ⟨fun g => ?_, Or.inl⟩
    rcases g with g | ⟨g1, g2, -⟩
    · exact g
    · rcases g1 with g1 | g1
      · exact absurd (g2.trans g1) hb
      · exact absurd (g2.trans g1) ht
  | linkDown => rw [h6 (by rw [h]; rfl)]
  | full => rw [h6 (by rw [h]; rfl)]

/-- An offered entry is inserted in a state that keeps the books, or changes nothing. -/
theorem offerEntry_cases (cls : UpClass) (body : List Byte) (tr ca : Bool) (ref : OwnerRef)
    (s : State) :
    (∃ u, Kept s u ∧ u.phase = s.phase ∧ u.emerg = s.emerg ∧ u.offers = s.offers ∧
      (cls ≠ .alarm → cls ≠ .bid → u = s) ∧
      offerEntry cls body tr ca ref s = insertNew cls body tr ca ref u) ∨
    ((offerEntry cls body tr ca ref s).1 = s ∧ (offerEntry cls body tr ca ref s).2.ok = false) := by
  unfold offerEntry
  split
  · exact Or.inr ⟨rfl, rfl⟩
  split
  · exact Or.inr ⟨rfl, rfl⟩
  split
  · split
    · rename_i hc
      split
      · rename_i e he
        left
        have hb : e.cls ≠ .bid := by
          have h1 := List.mem_of_getLast? he
          have h2 := (List.mem_filter.mp h1).2
          intro h3
          simp [Entry.candidate, h3] at h2
        have hr := RadioSide.before (tellDisplaced_radio e _) (removeEntry_radio e.seq s)
        refine ⟨_, displace_kept (displaced_mem he) hb, hr.phase, hr.emerg, hr.offers, ?_, rfl⟩
        intro h1 h2
        rcases hc with hc | hc
        · exact absurd hc h1
        · exact absurd hc h2
      · exact Or.inr ⟨rfl, rfl⟩
    · exact Or.inr ⟨rfl, rfl⟩
  · exact Or.inl ⟨s, Kept.refl s, rfl, rfl, rfl, fun _ _ => rfl, rfl⟩

/-- An offer of an entry that displaces nothing and is neither BID nor TEXT. -/
theorem offerOther_holds {cls : UpClass} (body : List Byte) (tr ca : Bool) (ref : OwnerRef)
    (s : State) (ha : cls ≠ .alarm) (hb : cls ≠ .bid) (ht : cls ≠ .text) :
    Holds s (offerEntry cls body tr ca ref s).1 := by
  rcases offerEntry_cases cls body tr ca ref s with ⟨u, -, -, -, -, h1, h2⟩ | ⟨h, -⟩
  · rw [h2, h1 ha hb]
    exact insertOther_holds body tr ca ref s hb ht
  · rw [h]
    exact Holds.refl s

theorem offerOrDrop_holds {cls : UpClass} (body : List Byte) (ref : OwnerRef) (s : State)
    (ha : cls ≠ .alarm) (hb : cls ≠ .bid) (ht : cls ≠ .text) :
    Holds s (offerOrDrop cls body ref s).1 := by
  have h := offerOther_holds body false false ref s ha hb ht
  unfold offerOrDrop
  simp only
  split
  · exact h
  · exact h.trans (Still.holds ⟨rfl, rfl, rfl, rfl, rfl⟩)

theorem offerRelease_holds (id : Word) (s : State) : Holds s (offerRelease id s).1 :=
  offerOrDrop_holds _ _ s (by decide) (by decide) (by decide)

theorem offerAck_holds (c q : Byte) (r : AckResult) (s : State) : Holds s (offerAck c q r s) :=
  offerOrDrop_holds _ _ s (by decide) (by decide) (by decide)

theorem tripTest_holds (s : State) : Holds s (tripTest s) := by
  unfold tripTest
  split
  · exact Holds.ite (fun _ => offerOther_holds _ _ _ _ s (by decide) (by decide) (by decide))
      (fun _ => Holds.refl s)
  · exact Holds.refl s

theorem tripTest_kept (s : State) : Kept s (tripTest s) :=
  (tripTest_holds s).kept (tripTest_quiet s).queue

theorem offerAck_kept (c q : Byte) (r : AckResult) (s : State) : Kept s (offerAck c q r s) :=
  (offerAck_holds c q r s).kept (offerAck_quiet c q r s).queue

/-- A change of the emergency controller that does not leave QUIET. -/
theorem setEmerg_holds {s : State} {x : Emergency}
    (h : s.emerg.state = .quiet → x.state = .quiet) : Holds s (s.setEmerg x) :=
  ⟨fun _ w => w.same (s := s) (t := s.setEmerg x) rfl rfl rfl, fun _ _ o k => o (fun e => k (h e)), fun _ _ _ => Iff.rfl⟩

theorem setEmerg_kept {s : State} {x : Emergency} (h : s.emerg.state = .quiet → x.state = .quiet) :
    Kept s (s.setEmerg x) := (setEmerg_holds h).kept id

theorem offerAlarm_kept (k : AlarmKind) (s : State) : Kept s (offerAlarm k s) := by
  unfold offerAlarm
  split
  · split
    · exact setEmerg_kept id
    · exact Kept.before (setEmerg_kept id)
        (updateEntry_kept (by intro _; rfl) (by intro _; rfl) (by intro _; rfl) s)
    · exact Kept.before (setEmerg_kept id)
        (updateEntry_kept (by intro _; rfl) (by intro _; rfl) (by intro _; rfl) s)
  · refine Kept.before (setEmerg_kept id) ?_
    have hq := (offerEntry_quiet .alarm (k.body s) k.isTracking k.isCancelled .none s).queue
    rcases offerEntry_cases .alarm (k.body s) k.isTracking k.isCancelled .none s with
      ⟨u, h1, -, -, -, -, h2⟩ | ⟨h, -⟩
    · have g := insertOther_holds (cls := .alarm) (k.body s) k.isTracking k.isCancelled .none u
        (by decide) (by decide)
      refine ⟨hq, fun ql w => ?_, fun ql w o => ?_⟩
      · rw [h2]
        exact (g.weak _ (h1.weak ql w)).congr g.keys
      · rw [h2]
        exact g.shut _ (h1.weak ql w) (h1.shut ql w o)
    · rw [h]
      exact Kept.refl s

theorem alarmLeft_kept (s : State) : Kept s (alarmLeft s) := by
  unfold alarmLeft
  split
  · exact offerAlarm_kept _ s
  · exact Kept.refl s

theorem entryWith_mem {q : Nat} {s : State} {e : Entry} (h : entryWith q s = some e) :
    e ∈ s.uplink.entries ∧ e.seq = q := by
  unfold entryWith at h
  exact ⟨List.mem_of_find?_eq_some h, by simpa using List.find?_some h⟩

theorem alarmEntry_mem {s : State} {e : Entry} (h : alarmEntry s = some e) :
    e ∈ s.uplink.entries ∧ e.cls = .alarm := by
  unfold alarmEntry at h
  exact ⟨List.mem_of_find?_eq_some h, by simpa using List.find?_some h⟩

/-- A withdrawal of an entry that is neither BID nor TEXT. -/
theorem withdrawOther_kept {s : State} {e : Entry} (he : e ∈ s.uplink.entries)
    (hb : e.cls ≠ .bid) (ht : e.cls ≠ .text) : Kept s (withdrawEntry e.seq s) := by
  have h : Kept s (takeOut e.seq s) :=
    Kept.before (linkReact_still _).kept (removeOther_kept he hb ht)
  unfold withdrawEntry
  split
  · split
    · exact updateEntry_kept (by intro _; rfl) (by intro _; rfl) (by intro _; rfl) s
    · exact h
    · exact h
  · exact Kept.refl s

theorem withdrawAlarm_kept (s : State) : Kept s (withdrawAlarm s) := by
  unfold withdrawAlarm
  split
  · rename_i e he
    obtain ⟨h1, h2⟩ := alarmEntry_mem he
    exact withdrawOther_kept h1 (by rw [h2]; decide) (by rw [h2]; decide)
  · exact Kept.refl s

/-- The hand-over of a frame whose owner keeps the books. -/
theorem handOver_kept {owner : State → State} {s : State} (h : Kept s (owner s)) (c : DownClass)
    (r : AckResult) (f : DownFrame) : Kept s (handOver c owner r f s) := by
  unfold handOver
  refine Kept.ite (fun _ => Kept.ite (fun _ => ?_)
    (fun _ => h.trans (freeBuffer_still _ _ _).kept))
    (fun _ => Kept.before (freeBuffer_still _ _ _).kept (Still.kept ⟨rfl, rfl, rfl, rfl, rfl⟩))
  split
  · exact (offerAck_kept _ _ _ s).trans (freeBuffer_still _ _ _).kept
  · refine Kept.before (freeBuffer_still _ _ _).kept (Kept.before (t := offerAck c.code f.seq r (owner s))
      (Still.kept ⟨rfl, rfl, rfl, rfl, rfl⟩) (h.trans (offerAck_kept _ _ _ _)))

/-! ### Entries that lose their BID, slots that lose their TEXT -/

/-- From s to t the offer entry i loses its BID; the queue's BIDs and TEXTs stay. -/
structure LosesBid (i : Nat) (s t : State) : Prop where
  weak : ∀ P, Weak P s → Weak (dropBid P i) t
  shut : ∀ P, Weak P s → OpenLaw s → OpenLaw t
  keys : ∀ c r q, keyIn t c r q ↔ keyIn s c r q

/-- From s to t the slot i loses its TEXT, for a set of entries in which the entry e is that TEXT. -/
structure LosesText (i : Nat) (e : Entry) (s t : State) : Prop where
  weak : ∀ P, Weak P s → P .text e.ref e.seq → Weak (dropText P i) t
  shut : OpenLaw s → OpenLaw t
  keys : ∀ c r q, keyIn t c r q ↔ keyIn s c r q

theorem LosesBid.after {i : Nat} {s t u : State} (h : Holds s t) (k : LosesBid i t u) :
    LosesBid i s u :=
  ⟨fun P w => k.weak P (h.weak P w), fun P w o => k.shut P (h.weak P w) (h.shut P w o),
   fun c r q => (k.keys c r q).trans (h.keys c r q)⟩

theorem LosesBid.then {i : Nat} {s t u : State} (h : LosesBid i s t) (k : Holds t u) :
    LosesBid i s u :=
  ⟨fun P w => k.weak _ (h.weak P w), fun P w o => k.shut _ (h.weak P w) (h.shut P w o),
   fun c r q => (k.keys c r q).trans (h.keys c r q)⟩

theorem closeWith_loses {s : State} {i : Nat} {o x : Offer} (r : Option ClosingReason) (tag : Half)
    (p : Payload) (h : offerAt i s = some x) : LosesBid i s (closeWith i o r tag p s) :=
  ⟨fun _ w => closeWith_weak r tag p w h, fun _ _ k => closeWith_shut r tag p h k,
   closeWith_keys i o r tag p s⟩

theorem closeOffer_loses {s : State} {i : Nat} {o x : Offer} (r : ClosingReason) (n : ReleaseNote)
    (h : offerAt i s = some x) : LosesBid i s (closeOffer i o r n s) := closeWith_loses _ _ _ h

theorem setOffer_loses {s : State} {i : Nat} {o p : Offer} (h : offerAt i s = some o)
    (hj : p.job = true → o.job = true) (hb : p.bidSeq = none)
    (ho : p.state = .open → o.state = .open) : LosesBid i s (setOffer i (some p) s) :=
  ⟨fun _ w => w.setOffer_drop h
      (fun x hx jx j y hy jy => by cases hx; exact w.job j i y o hy h jy (hj jx))
      (fun x hx => by cases hx; exact hb),
   fun _ _ k => openLaw_setOffer h (fun x hx hx' => by cases hx; exact ho hx') k,
   fun _ _ _ => Iff.rfl⟩

theorem bidGone_loses {s : State} {i : Nat} {o : Offer} (h : offerAt i s = some o) :
    LosesBid i s (bidGone i o s) := setOffer_loses h id rfl id

theorem bidAnswered_loses {s : State} {i : Nat} {o : Offer} (h : offerAt i s = some o) :
    LosesBid i s (bidAnswered true i o s) := by
  unfold bidAnswered
  split
  · exact setOffer_loses h id rfl id
  · exact bidGone_loses h

theorem bidAnswered_holds {s : State} {i : Nat} {o : Offer} (h : offerAt i s = some o) :
    Holds s (bidAnswered false i o s) := by
  unfold bidAnswered
  split
  · exact setOffer_holds h id rfl (fun k _ => k) id
  · exact Holds.refl s

theorem setProgress_holds (p : BidProgress) {s : State} {i : Nat} {o : Offer}
    (h : offerAt i s = some o) : Holds s (setProgress p i o s) :=
  Holds.ite (fun _ => setOffer_holds h id rfl (fun k _ => k) id) (fun _ => Holds.refl s)

/-- The entry i becomes AWARDED where no other entry is a job. -/
theorem awardEntry_loses {s : State} {i : Nat} {o x : Offer} (direct : Bool) (tag : Half)
    (h : offerAt i s = some x)
    (hj : ∀ P, Weak P s → ∀ j y, offerAt j s = some y → y.job = true → j = i) :
    LosesBid i s (awardEntry i o direct tag s) := by
  unfold awardEntry
  refine LosesBid.then (t := setOffer i (some { o with
    state := .awarded, remaining := none, progress := none, bidSeq := none, deferred := none,
    held := some (heldNow tag (.offerAwarded o.id o.zone o.kind direct o.text o.truncated) s) }) s)
    ?_ ?_
  · refine ⟨fun P w => w.setOffer_drop h (fun _ _ _ => hj P w) (fun y hy => by cases hy; rfl),
      fun _ _ k => openLaw_setOffer h (fun y hy hs => ?_) k, fun _ _ _ => Iff.rfl⟩
    cases hy
    exact absurd hs (by simp)
  · exact ((countHeld_still _).holds.trans (placeHeld_holds _)).trans (dutyAfter_holds _ _ _ _)

theorem job_of_bidSent {o : Offer} (h : o.state = .bidSent) : o.job = true := by
  unfold Offer.job; rw [h]; rfl

theorem Holds.offerRelease_at {i : Nat} {o : Offer} {s : State} (id : Word)
    (h : offerAt i s = some o) : offerAt i (offerRelease id s).1 = some o := by
  rw [offerAt_of_entries (s := s) (t := (offerRelease id s).1)
    (by rw [(offerRelease_radio id s).offers])]
  exact h

theorem applyDeferred_loses {s : State} {i : Nat} {o : Offer} (h : offerAt i s = some o)
    (hs : ∀ P, Weak P s → o.job = true) : LosesBid i s (applyDeferred i o s) := by
  have g := Holds.offerRelease_at o.id h
  unfold applyDeferred
  split
  · exact awardEntry_loses _ _ h (fun P w j y hy jy => w.job j i y o hy h jy (hs P w))
  · exact LosesBid.after (offerRelease_holds _ _) (closeOffer_loses _ _ g)
  · exact LosesBid.after (offerRelease_holds _ _) (closeWith_loses _ _ _ g)
  · exact closeOffer_loses _ _ h
  · exact closeOffer_loses _ _ h

/-- The offer entry of a BID of the set. -/
theorem bidAt {P : Keys} {s : State} {e : Entry} (w : Weak P s) (hk : P .bid e.ref e.seq) :
    ∃ i o, e.ref = .offer i ∧ offerAt i s = some o ∧ o.bidSeq = some e.seq ∧ o.state = .bidSent ∧
      ∀ f, withBidOffer e f s = f i o s := by
  obtain ⟨i, o, h1, h2, h3⟩ := w.bid _ _ hk
  refine ⟨i, o, h1, h2, h3, (w.named i o _ h2 h3).1, fun f => ?_⟩
  have h4 : s.offers.entries.getD i none = some o := h2
  unfold withBidOffer
  rw [h1]
  simp only [h4]

theorem withBidOffer_holds {f : Nat → Offer → State → State} {e : Entry} {s : State}
    (h : ∀ i o, offerAt i s = some o → Holds s (f i o s)) : Holds s (withBidOffer e f s) := by
  unfold withBidOffer
  split
  · split
    · rename_i o ho
      exact h _ o ho
    · exact Holds.refl s
  · exact Holds.refl s

/-! ### An entry leaves the queue -/

/-- A BID leaves the queue, then its offer entry loses it. -/
theorem removeBid_kept {s t : State} {e : Entry} {i : Nat} (he : e ∈ s.uplink.entries)
    (hc : e.cls = .bid) (hr : e.ref = .offer i) (h : LosesBid i (removeEntry e.seq s) t)
    (hq : QueueLaw s → QueueLaw t) : Kept s t :=
  ⟨hq, fun ql w => (h.weak _ (removeEntry_weak _ w)).congr (fun c r q =>
      (h.keys c r q).trans (keyIn_remove_bid ql w he hc hr c r q)),
   fun _ w o => h.shut _ (removeEntry_weak _ w) (removeEntry_shut _ o)⟩

/-- An offer entry loses its BID, which then leaves the queue. -/
theorem loseBid_kept {s t : State} {e : Entry} {i : Nat} (he : e ∈ s.uplink.entries)
    (hc : e.cls = .bid) (hr : e.ref = .offer i) (h : LosesBid i s t)
    (hq : QueueLaw s → QueueLaw t) : Kept s (removeEntry e.seq t) :=
  ⟨fun ql => (removeEntry_quiet _ t).queue (hq ql),
   fun ql w => (removeEntry_weak _ (h.weak _ w)).congr (fun c r q => by
      rw [keyIn_remove, h.keys, ← keyIn_remove]
      exact keyIn_remove_bid ql w he hc hr c r q),
   fun _ w o => removeEntry_shut _ (h.shut _ w o)⟩

theorem removeText_kept {s t : State} {e : Entry} {i : Nat} (he : e ∈ s.uplink.entries)
    (hc : e.cls = .text) (hr : e.ref = .slot i) (h : LosesText i e (removeEntry e.seq s) t)
    (hq : QueueLaw s → QueueLaw t) : Kept s t :=
  ⟨hq, fun ql w => (h.weak _ (removeEntry_weak _ w)
      (by have := keyIn_of_mem he (Or.inr hc); rw [hc] at this; exact this)).congr (fun c r q =>
      (h.keys c r q).trans (keyIn_remove_text ql w he hc hr c r q)),
   fun _ _ o => h.shut (removeEntry_shut _ o)⟩

theorem loseText_kept {s t : State} {e : Entry} {i : Nat} (he : e ∈ s.uplink.entries)
    (hc : e.cls = .text) (hr : e.ref = .slot i) (h : LosesText i e s t)
    (hq : QueueLaw s → QueueLaw t) : Kept s (removeEntry e.seq t) :=
  ⟨fun ql => (removeEntry_quiet _ t).queue (hq ql),
   fun ql w => (removeEntry_weak _ (h.weak _ w
      (by have := keyIn_of_mem he (Or.inr hc); rw [hc] at this; exact this))).congr (fun c r q => by
      rw [keyIn_remove, h.keys, ← keyIn_remove]
      exact keyIn_remove_text ql w he hc hr c r q),
   fun _ _ o => removeEntry_shut _ (h.shut o)⟩

/-- A law that holds once the books are known to hold. -/
theorem Kept.assume {s t : State} (hq : QueueLaw s → QueueLaw t)
    (h : QueueLaw s → Weak (keyIn s) s → Kept s t) : Kept s t :=
  ⟨hq, fun ql w => (h ql w).weak ql w, fun ql w o => (h ql w).shut ql w o⟩

theorem key_bid {s : State} {e : Entry} (he : e ∈ s.uplink.entries) (hc : e.cls = .bid) :
    keyIn s .bid e.ref e.seq := by
  have := keyIn_of_mem he (Or.inl hc)
  rw [hc] at this
  exact this

theorem key_text {s : State} {e : Entry} (he : e ∈ s.uplink.entries) (hc : e.cls = .text) :
    keyIn s .text e.ref e.seq := by
  have := keyIn_of_mem he (Or.inr hc)
  rw [hc] at this
  exact this

theorem textFailed_loses {s : State} {e : Entry} {i : Nat} (r : FailReason)
    (hr : e.ref = .slot i) : LosesText i e s (textFailed r e s) :=
  ⟨fun _ w hk => textOutcome_weak _ w hr hk, fun o => textOutcome_shut _ _ _ o,
   textOutcome_keys _ _ _ _⟩

theorem textOutcome_loses {s : State} {e : Entry} {i : Nat} (p : Nat → Payload)
    (hr : e.ref = .slot i) : LosesText i e s (textOutcome e p false s) :=
  ⟨fun _ w hk => textOutcome_weak _ w hr hk, fun o => textOutcome_shut _ _ _ o,
   textOutcome_keys _ _ _ _⟩

theorem clearSlotRef_loses {s : State} {e : Entry} {i : Nat} (hr : e.ref = .slot i) :
    LosesText i e s (clearSlotRef e s) :=
  ⟨fun _ w hk => clearSlotRef_weak w hr hk, fun o => clearSlotRef_shut _ o,
   clearSlotRef_keys _ _⟩

/-! ### The close of transmission -/

theorem keyedEntry_mem {s : State} {e : Entry} (h : keyedEntry s = some e) :
    e ∈ s.uplink.entries := by
  unfold keyedEntry at h
  split at h
  · rename_i x hx
    split at h
    · simp only [Option.some.injEq] at h
      rw [← h]
      cases hk : s.link.keyed with
      | none => rw [hk] at hx; simp at hx
      | some q => rw [hk] at hx; exact (entryWith_mem hx).1
    · exact absurd h (by simp)
  · exact absurd h (by simp)

theorem closeAnswered_kept {s : State} {e : Entry} (he : e ∈ s.uplink.entries) :
    Kept s (closeAnswered e s) := by
  have hq := (closeAnswered_quiet e s).queue
  refine Kept.assume hq (fun ql w => ?_)
  have other : e.cls ≠ .bid → e.cls ≠ .text → Kept s (removeEntry e.seq s) := removeOther_kept he
  unfold closeAnswered at hq ⊢
  cases hc : e.cls <;> simp only [hc] at hq other ⊢
  case text =>
    obtain ⟨i, hi⟩ := textSlot w (key_text he hc)
    exact removeText_kept he hc hi (clearSlotRef_loses hi) hq
  case bid =>
    obtain ⟨i, o, h1, h2, h3, h4, h5⟩ := bidAt (removeEntry_weak e.seq w) (key_bid he hc)
    rw [h5] at hq ⊢
    exact removeBid_kept he hc h1 (bidGone_loses h2) hq
  case trip => exact (other (by decide) (by decide)).trans (Still.kept ⟨rfl, rfl, rfl, rfl, rfl⟩)
  case alarm => exact (other (by decide) (by decide)).trans (alarmLeft_kept _)
  all_goals exact other (by decide) (by decide)

theorem closeSent_kept {s : State} {e : Entry} (he : e ∈ s.uplink.entries) :
    Kept s (closeSent e s) := by
  unfold closeSent
  split
  · rename_i hc
    refine Kept.before (alarmLeft_kept _) (Kept.before (setEmerg_kept id)
      (removeOther_kept he (by rw [hc]; decide) (by rw [hc]; decide)))
  · rename_i hc
    exact removeOther_kept he (by rw [hc]; decide) (by rw [hc]; decide)
  · rename_i hc
    exact removeOther_kept he (by rw [hc]; decide) (by rw [hc]; decide)
  · have h1 : Kept s (updateEntry e.seq (fun x => { x with
        state := .awaitAck, ackTimer := some s.settings.accepted.ackTimeout }) s) :=
      updateEntry_kept (by intro _; rfl) (by intro _; rfl) (by intro _; rfl) s
    refine Kept.before ((withBidOffer_holds (fun i o h => setProgress_holds _ h)).kept
      (withBidOffer_quiet (setProgress_quiet _) e _).queue) h1
  · exact updateEntry_kept (by intro _; rfl) (by intro _; rfl) (by intro _; rfl) s

theorem closeTransmission_kept (s : State) : Kept s (closeTransmission s) := by
  have hq := (closeTransmission_quiet s).queue
  have hk : Still s (clearKeyed s) := ⟨rfl, rfl, rfl, rfl, rfl⟩
  unfold closeTransmission at hq ⊢
  cases h : keyedEntry s with
  | none => exact hk.kept
  | some e =>
    have he := keyedEntry_mem h
    have he' : e ∈ (clearKeyed s).uplink.entries := he
    simp only [h] at hq ⊢
    by_cases h2 : e.cls = .bid ∧ e.abandon = true
    · rw [if_pos h2] at hq ⊢
      refine Kept.assume hq (fun ql w => ?_)
      have w' : Weak (keyIn s) (removeEntry e.seq (clearKeyed s)) :=
        removeEntry_weak _ (hk.holds.weak _ w)
      obtain ⟨i, o, h3, h4, h5, h6, h7⟩ := bidAt w' (key_bid he h2.1)
      rw [h7] at hq ⊢
      exact hk.kept.trans (removeBid_kept he' h2.1 h3
        (applyDeferred_loses h4 (fun _ _ => job_of_bidSent h6)) (fun _ => hq ql))
    · rw [if_neg h2]
      by_cases h3 : e.answered = true
      · rw [if_pos h3]
        exact hk.kept.trans (closeAnswered_kept he')
      · rw [if_neg h3]
        exact hk.kept.trans (closeSent_kept he')

/-! ### The flush -/

theorem flushOutcome_step {P : Keys} {s : State} {e : Entry} (w : Weak P s)
    (hk : e.cls = .bid ∨ e.cls = .text → P e.cls e.ref e.seq) :
    (∀ c r q, keyIn (flushOutcome e s) c r q ↔ keyIn s c r q) ∧
    (OpenLaw s → OpenLaw (flushOutcome e s)) ∧
    ((e.cls = .bid ∧ ∃ i, e.ref = .offer i ∧ Weak (dropBid P i) (flushOutcome e s)) ∨
      (e.cls = .text ∧ ∃ i, e.ref = .slot i ∧ Weak (dropText P i) (flushOutcome e s)) ∨
      (e.cls ≠ .bid ∧ e.cls ≠ .text ∧ Weak P (flushOutcome e s))) := by
  by_cases hb : e.cls = .bid
  · have k : P .bid e.ref e.seq := by
      have := hk (Or.inl hb)
      rw [hb] at this
      exact this
    obtain ⟨i, o, h1, h2, -, -, h5⟩ := bidAt w k
    have g : LosesBid i s (flushOutcome e s) := by
      unfold flushOutcome
      split
      · simp only [hb, h5]
        exact bidGone_loses h2
      · simp only [hb, h5]
        exact closeOffer_loses _ _ h2
    exact ⟨g.keys, g.shut P w, Or.inl ⟨hb, i, h1, g.weak P w⟩⟩
  · by_cases ht : e.cls = .text
    · have k : P .text e.ref e.seq := by
        have := hk (Or.inr ht)
        rw [ht] at this
        exact this
      obtain ⟨i, hi⟩ := textSlot w k
      have g : LosesText i e s (flushOutcome e s) := by
        unfold flushOutcome
        split
        · simp only [ht]
          exact clearSlotRef_loses hi
        · simp only [ht]
          exact textFailed_loses _ hi
      exact ⟨g.keys, g.shut, Or.inr (Or.inl ⟨ht, i, hi, g.weak P w k⟩)⟩
    · have g : Still s (flushOutcome e s) := by
        unfold flushOutcome
        split
        · split
          · exact ⟨rfl, rfl, rfl, rfl, rfl⟩
          · rename_i h; exact absurd h ht
          · rename_i h; exact absurd h hb
          · exact Still.refl s
        · split
          · rename_i h; exact absurd h ht
          · rename_i h; exact absurd h hb
          · exact ⟨rfl, rfl, rfl, rfl, rfl⟩
          · exact ⟨rfl, rfl, rfl, rfl, rfl⟩
          · exact ⟨rfl, rfl, rfl, rfl, rfl⟩
          · exact Still.refl s
          · exact Still.refl s
      exact ⟨g.holds.keys, g.holds.shut P w, Or.inr (Or.inr ⟨hb, ht, g.holds.weak P w⟩)⟩

theorem flushOutcomes_books (es : List Entry) {P : Keys} {s : State} (w : Weak P s)
    (hn : (es.map (·.seq)).Nodup)
    (hP : ∀ c r q, P c r q ↔
      ((c = .bid ∨ c = .text) ∧ ∃ e ∈ es, e.cls = c ∧ e.ref = r ∧ e.seq = q)) :
    (∀ c r q, keyIn (flushOutcomes es s) c r q ↔ keyIn s c r q) ∧
    (OpenLaw s → OpenLaw (flushOutcomes es s)) ∧
    Weak (fun _ _ _ => False) (flushOutcomes es s) := by
  induction es generalizing P s with
  | nil =>
    refine ⟨fun _ _ _ => Iff.rfl, id, w.congr (fun c r q => ?_)⟩
    rw [hP]
    simp
  | cons e es ih =>
    have hn' := List.nodup_cons.mp hn
    obtain ⟨g1, g2, g3⟩ := flushOutcome_step w (e := e)
      (fun h => (hP _ _ _).mpr ⟨h, e, List.mem_cons_self .., rfl, rfl, rfl⟩)
    have go : ∀ Q : Keys, Weak Q (flushOutcome e s) →
        (∀ c r q, Q c r q ↔
          ((c = .bid ∨ c = .text) ∧ ∃ x ∈ es, x.cls = c ∧ x.ref = r ∧ x.seq = q)) →
        (∀ c r q, keyIn (flushOutcomes (e :: es) s) c r q ↔ keyIn s c r q) ∧
        (OpenLaw s → OpenLaw (flushOutcomes (e :: es) s)) ∧
        Weak (fun _ _ _ => False) (flushOutcomes (e :: es) s) := by
      intro Q wQ hQ
      obtain ⟨i1, i2, i3⟩ := ih wQ hn'.2 hQ
      exact ⟨fun c r q => (i1 c r q).trans (g1 c r q), fun o => i2 (g2 o), i3⟩
    have ne : ∀ x ∈ es, x.seq ≠ e.seq := fun x hx h =>
      hn'.1 (List.mem_map.mpr ⟨x, hx, h⟩)
    rcases g3 with ⟨hc, i, hi, wd⟩ | ⟨hc, i, hi, wd⟩ | ⟨hb, ht, wd⟩
    · refine go _ wd (fun c r q => ⟨?_, ?_⟩)
      · rintro ⟨h, n⟩
        obtain ⟨hc', x, hx, x1, x2, x3⟩ := (hP c r q).mp h
        rcases List.mem_cons.mp hx with rfl | hx
        · exact absurd ⟨x1.symm.trans hc, x2.symm.trans hi⟩ n
        · exact ⟨hc', x, hx, x1, x2, x3⟩
      · rintro ⟨hc', x, hx, x1, x2, x3⟩
        refine ⟨(hP c r q).mpr ⟨hc', x, List.mem_cons_of_mem _ hx, x1, x2, x3⟩, ?_⟩
        rintro ⟨rfl, rfl⟩
        obtain ⟨j, o, h1, h2, h3⟩ := w.bid (.offer i) x.seq
          ((hP _ _ _).mpr ⟨Or.inl rfl, x, List.mem_cons_of_mem _ hx, x1, x2, rfl⟩)
        obtain ⟨j', o', k1, k2, k3⟩ := w.bid (.offer i) e.seq
          ((hP _ _ _).mpr ⟨Or.inl rfl, e, List.mem_cons_self .., hc, hi, rfl⟩)
        cases h1
        cases k1
        rw [h2] at k2
        cases k2
        rw [h3] at k3
        exact ne x hx (by injection k3)
    · refine go _ wd (fun c r q => ⟨?_, ?_⟩)
      · rintro ⟨h, n⟩
        obtain ⟨hc', x, hx, x1, x2, x3⟩ := (hP c r q).mp h
        rcases List.mem_cons.mp hx with rfl | hx
        · exact absurd ⟨x1.symm.trans hc, x2.symm.trans hi⟩ n
        · exact ⟨hc', x, hx, x1, x2, x3⟩
      · rintro ⟨hc', x, hx, x1, x2, x3⟩
        refine ⟨(hP c r q).mpr ⟨hc', x, List.mem_cons_of_mem _ hx, x1, x2, x3⟩, ?_⟩
        rintro ⟨rfl, rfl⟩
        obtain ⟨j, o, h1, h2, h3⟩ := w.text (.slot i) x.seq
          ((hP _ _ _).mpr ⟨Or.inr rfl, x, List.mem_cons_of_mem _ hx, x1, x2, rfl⟩)
        obtain ⟨j', o', k1, k2, k3⟩ := w.text (.slot i) e.seq
          ((hP _ _ _).mpr ⟨Or.inr rfl, e, List.mem_cons_self .., hc, hi, rfl⟩)
        cases h1
        cases k1
        rw [h2] at k2
        cases k2
        rw [h3] at k3
        exact ne x hx (by injection k3)
    · refine go _ wd (fun c r q => ?_)
      rw [hP]
      refine and_congr_right (fun hc' => ⟨?_, ?_⟩)
      · rintro ⟨x, hx, x1, x2, x3⟩
        rcases List.mem_cons.mp hx with rfl | hx
        · rcases hc' with rfl | rfl
          · exact absurd x1 hb
          · exact absurd x1 ht
        · exact ⟨x, hx, x1, x2, x3⟩
      · rintro ⟨x, hx, x1, x2, x3⟩
        exact ⟨x, List.mem_cons_of_mem _ hx, x1, x2, x3⟩

theorem flushQueue_kept (s : State) : Kept s (flushQueue s) := by
  have hq := (flushQueue_quiet s).queue
  have hf : ∀ c r q, keyIn (s.setUplink { s.uplink with
      entries := s.uplink.entries.filter (fun e => e.cls == .alarm) }) c r q ↔ False := by
    intro c r q
    constructor
    · rintro ⟨hc, e, he, h1, -, -⟩
      have := (List.mem_filter.mp he).2
      simp only [beq_iff_eq] at this
      rcases hc with rfl | rfl <;> exact absurd (this.symm.trans h1) (by decide)
    · exact False.elim
  have main : QueueLaw s → Weak (keyIn s) s →
      (∀ c r q, keyIn (flushQueue s) c r q ↔ False) ∧ (OpenLaw s → OpenLaw (flushQueue s)) ∧
      Weak (fun _ _ _ => False) (flushQueue s) := by
    intro ql w
    have w' : Weak (keyIn s) (s.setUplink { s.uplink with
        entries := s.uplink.entries.filter (fun e => e.cls == .alarm) }) :=
      w.same (s := s) (t := s.setUplink _) rfl rfl rfl
    obtain ⟨a, b, d⟩ := flushOutcomes_books (s.uplink.entries.filter (fun e => e.cls != .alarm)) w'
      (List.Nodup.sublist (List.Sublist.map _ List.filter_sublist) ql.2.2) (by
        intro c r q
        refine and_congr_right (fun hc => ⟨?_, ?_⟩)
        · rintro ⟨e, he, h1, h2, h3⟩
          refine ⟨e, List.mem_filter.mpr ⟨he, ?_⟩, h1, h2, h3⟩
          rcases hc with rfl | rfl <;> rw [h1] <;> decide
        · rintro ⟨e, he, h1, h2, h3⟩
          exact ⟨e, (List.mem_filter.mp he).1, h1, h2, h3⟩)
    exact ⟨fun c r q => (a c r q).trans (hf c r q), b, d⟩
  refine ⟨hq, fun ql w => ?_, fun ql w o => (main ql w).2.1 o⟩
  obtain ⟨a, -, d⟩ := main ql w
  exact d.congr a

end Sys2Proof.Machine
end

