-- ==== Sys2Proof/Laws/Tick.lean ====
section
/-! SUPPORT. What counting a second tick changes, in the terms of the state before it. -/

namespace Sys2Proof.Machine

/-- The position shadow after the count of a tick. -/
theorem tickFix_position (s : State) : tickFix s = s.setPosition (tickFix s).position := by
  unfold tickFix
  split <;> rfl

/-- The timers have counted the tick at hand already. -/
theorem openTick_counted {s : State} (h : s.book.counted = true) : openTick s = s := if_pos h

/-- The timers count the tick at hand, one update per part. -/
theorem openTick_eq {s : State} (h : s.book.counted = false) : openTick s =
    (((((s.setBook { s.book with counted := true }).setOffers
      { s.offers with entries := s.offers.entries.map (fun e =>
          e.map (fun o => { o with remaining := countDown o.remaining })) }).setSup
      { s.sup with ready := countDown s.sup.ready, powerOff := countDown s.sup.powerOff,
                   stuckBusy := countDown s.sup.stuckBusy, healthy := countDown s.sup.healthy }).setEmerg
      { s.emerg with repeatTimer := countDown s.emerg.repeatTimer,
                     cooldownTimer := countDown s.emerg.cooldownTimer,
                     trackTimer := countDown s.emerg.trackTimer,
                     graceTimer := countDown s.emerg.graceTimer }).setTrip
      { s.trip with holdoff := countDown s.trip.holdoff }).setLink
      { s.link with clock := s.link.clock.map (· + 1) } := by
  unfold openTick
  rw [if_neg (by simp [h])]
  rfl

/-- The timers' ends and the held reports leave the rest as the count left it. -/
theorem secondTick_quiet (s : State) : Quiet (countTick (meterTick s)) (secondTick s) :=
  (endTimers_quiet _).trans (placeHeld_quiet _)

/-- The timers' count leaves everything but the timers alone. -/
theorem openTick_same (s : State) :
    (openTick s).meter = s.meter ∧ (openTick s).clock = s.clock ∧
    (openTick s).trip = { s.trip with holdoff := (openTick s).trip.holdoff } ∧
    (openTick s).settings = s.settings ∧ (openTick s).emerg.box = s.emerg.box ∧
    (openTick s).mem = s.mem ∧ (openTick s).path = s.path ∧ (openTick s).agent = s.agent ∧
    (openTick s).reader = s.reader ∧ (openTick s).evw = s.evw ∧
    (openTick s).uplink = s.uplink ∧ (openTick s).pool = s.pool ∧ (openTick s).rx = s.rx ∧
    (openTick s).attn = s.attn ∧ (openTick s).phase = s.phase ∧
    (openTick s).pins = s.pins ∧ (openTick s).link = { s.link with clock := (openTick s).link.clock } ∧
    (openTick s).position = s.position := by
  cases h : s.book.counted
  · rw [openTick_eq h]; simp
  · rw [openTick_counted h]; simp

/-- The timers' count leaves the supervisor's cycles and mark and the call's state alone. -/
theorem openTick_states (s : State) :
    (openTick s).sup.cycles = s.sup.cycles ∧ (openTick s).sup.override = s.sup.override ∧
    (openTick s).emerg.state = s.emerg.state ∧ (openTick s).link.state = s.link.state := by
  cases h : s.book.counted
  · rw [openTick_eq h]; simp
  · rw [openTick_counted h]; simp

/-- A timer that the tick at hand ends. -/
theorem atTick_due {timer : State → Option Nat} {f : State → State} {s : State}
    (h : timer (openTick s) = some 0) : atTick timer f s = f (openTick s) := if_pos h

/-- A timer that the tick at hand does not end. -/
theorem atTick_early {timer : State → Option Nat} {f : State → State} {s : State}
    (h : timer (openTick s) ≠ some 0) : atTick timer f s = s := if_neg h

/-- A timer that the tick at hand ends, whatever arrival of that tick came before. -/
theorem atTickOr_due {timer : State → Option Nat} {f : State → State} {taken : State → Bool}
    {keep : State → State → State} {s : State} (h : timer (openTick s) = some 0) :
    atTickOr timer f taken keep s = f (openTick s) := if_pos h

/-- A timer that the tick at hand does not end, as no arrival of that tick has stopped or restarted it. -/
theorem atTickOr_early {timer : State → Option Nat} {f : State → State} {taken : State → Bool}
    {keep : State → State → State} {s : State} (h : timer (openTick s) ≠ some 0)
    (k : taken s = false) : atTickOr timer f taken keep s = s := by
  rw [atTickOr, if_neg h, lateTick, if_neg (by simp [k])]

/-- A timer's end that an arrival of the tick at hand came before: the tick has begun, what it started is spared. -/
theorem atTickOr_taken {timer : State → Option Nat} {f : State → State} {taken : State → Bool}
    {keep : State → State → State} {s : State} (h : timer (openTick s) ≠ some 0)
    (k : taken s = true) : atTickOr timer f taken keep s = keep s (openTick s) := by
  rw [atTickOr, if_neg h, lateTick, if_pos k]

/-- A timer at its full length is spared. -/
@[simp] theorem spare_full (n : Nat) (c : Option Nat) : spare n (some n) c = some n := if_pos rfl

/-- A stopped timer, or one that has counted before, is not spared. -/
theorem spare_counted {n : Nat} {now : Option Nat} (h : now ≠ some n) (c : Option Nat) :
    spare n now c = c := if_neg h

/-- Sparing changes nothing where the tick was counted before. -/
theorem lateTick_counted {taken : State → Bool} {keep : State → State → State} {s : State}
    (h : s.book.counted = true) (k : keep s s = s) : lateTick taken keep s = s := by
  rw [lateTick, openTick_counted h, k, ite_self]

/-- A timer of the tick at hand is itself where it is spared from no count. -/
@[simp] theorem spare_self (n : Nat) (t : Option Nat) : spare n t t = t := ite_self t

@[simp] theorem spareSup_self (s : State) : spareSup s s = s := by
  simp [spareSup, State.setSup, State.setLink]

@[simp] theorem spareCall_self (s : State) : spareCall s s = s := by
  simp [spareCall, State.setEmerg]

@[simp] theorem spareRaise_self (s : State) : spareRaise s s = s := by
  simp [spareRaise]

@[simp] theorem spareRelease_self (s : State) : spareRelease s s = s := by
  simp [spareRelease, State.setTrip]

/-- The count of a tick leaves the meter, the memory side and the accepted settings alone. -/
theorem countTick_same (s : State) :
    (countTick s).meter = s.meter ∧ (countTick s).clock = s.clock + 1 ∧
    (countTick s).trip = { s.trip with holdoff := (openTick s).trip.holdoff } ∧
    (countTick s).settings = s.settings ∧ (countTick s).emerg.box = s.emerg.box ∧
    (countTick s).mem = s.mem ∧ (countTick s).path = s.path ∧ (countTick s).agent = s.agent ∧
    (countTick s).reader = s.reader ∧ (countTick s).evw = s.evw ∧
    (countTick s).uplink = s.uplink ∧ (countTick s).pool = s.pool ∧ (countTick s).rx = s.rx ∧
    (countTick s).attn = s.attn ∧ (countTick s).phase = s.phase := by
  unfold countTick
  rw [tickFix_position (tickClock s)]
  cases h : s.book.counted
  · rw [openTick_eq h, openTick_eq (by exact h)]; simp [markTick, tickClock]
  · rw [openTick_counted h, openTick_counted (by exact h)]; simp [markTick, tickClock]

end Sys2Proof.Machine
end

