-- ==== Sys2Proof/Laws/BooksAll.lean ====
section
/-! SUPPORT. The laws of the offer table, the message pool and the queue across the commands: one lemma per operation. -/

namespace Sys2Proof.Machine

/-! ### Faults of the radio -/

theorem tripLeaves_still (s : State) : Still s (tripLeaves s) := Still.setTrip s _

theorem giveUpWork_kept (s : State) : Kept s (giveUpWork s) := by
  unfold giveUpWork
  split
  · exact (closeTransmission_kept s).trans (linkGiveUp_still _).kept
  · exact (closeTransmission_kept s).trans (linkGiveUp_still _).kept
  · exact (linkGiveUp_still s).kept

theorem enterFailed_kept (l : LinkState) (c : LinkCause) (s : State) :
    Kept s (enterFailed l c s) := by
  unfold enterFailed
  refine Kept.before (flushQueue_kept _) (Still.kept ?_)
  exact Still.before (reportLink_still _ _ _ _ _)
    (Still.before (raiseFactor_still _ _) ⟨rfl, rfl, rfl, rfl, rfl⟩)

theorem takeFault_kept (c : LinkCause) (s : State) : Kept s (takeFault c s) := by
  unfold takeFault
  simp only
  refine Kept.before ?_ (giveUpWork_kept s)
  refine Kept.ite (fun _ => ?_) (fun _ => enterFailed_kept _ _ _)
  refine Kept.before (tripTest_kept _) (Still.kept ?_)
  exact Still.before (reportLink_still _ _ _ _ _) ⟨rfl, rfl, rfl, rfl, rfl⟩

theorem faultEnd_kept (c : LinkCause) (s : State) : Kept s (placeHeld (takeFault c s)) :=
  (takeFault_kept c s).trans (placeHeld_kept _)

theorem powerOffEnd_kept (s : State) : Kept s (powerOffEnd s) :=
  Kept.before (tripTest_kept _) (enterPowerOn_still _ _ s).kept

theorem healthyEnd_kept (s : State) : Kept s (healthyEnd s) :=
  Still.kept ⟨rfl, rfl, rfl, rfl, rfl⟩

theorem reqRestart_kept (tag : Half) (s : State) : Kept s (reqRestart tag s) :=
  Kept.ite (fun _ => Kept.before (tripTest_kept _)
      (Still.kept (Still.before (enterPowerOn_still _ _ _) ⟨rfl, rfl, rfl, rfl, rfl⟩)))
    (fun _ => (refuse_still _ _ _ s).kept)

/-! ### Keying and the ends of ACK timers -/

theorem tellKeyed_kept (e : Entry) (s : State) : Kept s (tellKeyed e s) := by
  have hq := (tellKeyed_quiet e s).queue
  unfold tellKeyed at hq ⊢
  cases hc : e.cls <;> simp only [hc] at hq ⊢
  case bid => exact (withBidOffer_holds (fun i o g => setProgress_holds _ g)).kept hq
  case alarm => exact setEmerg_kept id
  all_goals exact Kept.refl s

theorem keyEntry_kept (e : Entry) (s : State) : Kept s (keyEntry e s) := by
  have h : Kept s (updateEntry e.seq (fun x => x.keyed s) s) :=
    updateEntry_kept (by intro _; rfl) (by intro _; rfl) (by intro _; rfl) s
  exact Kept.before (Still.setLink _ _).kept (Kept.before (tellKeyed_kept e _) h)

theorem keyupEnd_kept (s : State) : Kept s (keyupEnd s) := by
  unfold keyupEnd
  split
  · exact keyEntry_kept _ s
  · exact Still.kept ⟨rfl, rfl, rfl, rfl, rfl⟩

theorem tailEnd_kept (s : State) : Kept s (tailEnd s) := by
  unfold tailEnd
  exact Kept.before (placeHeld_kept _) (Kept.before (tripTest_kept _)
    (Kept.before (Still.setLink _ _).kept (closeTransmission_kept s)))

theorem transmissionEnd_kept (s : State) : Kept s (transmissionEnd s) := by
  unfold transmissionEnd
  exact Kept.ite (fun _ => Kept.before (tailEnd_kept _) (Still.setLink s _).kept)
    (fun _ => (Still.setLink s _).kept)

/-- An entry leaves the queue as the last effect, once its owner was told. -/
theorem leaveQueue_kept {s t : State} {q : Nat} (h : Kept s (removeEntry q t)) :
    Kept s (leaveQueue q t) :=
  Kept.before (tripTest_kept _) (h.trans (linkReact_still _).kept)

theorem ackMatch_mem {c : Byte} {q : Nat} {s : State} {e : Entry} (h : ackMatch c q s = some e) :
    e ∈ s.uplink.entries := by
  unfold ackMatch at h
  exact List.mem_of_find?_eq_some h

/-- The tell of an answered entry that leaves now. -/
theorem tellAnswered_leaves {s : State} {e : Entry} (r : AckResult) (he : e ∈ s.uplink.entries) :
    Kept s (removeEntry e.seq (if e.cls = .trip then tripLeaves (tellAnswered e r false s)
      else tellAnswered e r false s)) := by
  have hq : QueueLaw s → QueueLaw (tellAnswered e r false s) := (tellAnswered_quiet e r false s).queue
  refine Kept.assume (fun ql => ?_) (fun ql w => ?_)
  · refine (removeEntry_quiet _ _).queue ?_
    split
    · exact (tripLeaves_quiet _).queue (hq ql)
    · exact hq ql
  · unfold tellAnswered at hq ⊢
    cases hc : e.cls <;> simp only [hc] at hq ⊢
    case bid =>
      rw [if_neg (by decide)]
      obtain ⟨i, o, h1, h2, h3, h4, h5⟩ := bidAt w (key_bid he hc)
      rw [h5] at hq ⊢
      exact loseBid_kept he hc h1 (bidAnswered_loses h2) hq
    case text =>
      rw [if_neg (by decide)]
      obtain ⟨i, hi⟩ := textSlot w (key_text he hc)
      exact loseText_kept he hc hi (textOutcome_loses _ hi) hq
    case trip =>
      rw [if_pos trivial]
      have g : Still s (match e.ref with
          | .trip n => addTripReport 0 (.tripReported n (s.trip.backlog.length - 1)) s
          | _ => s) := by
        split
        · exact ⟨rfl, rfl, rfl, rfl, rfl⟩
        · exact Still.refl s
      have g' := Still.before (tripLeaves_still _) g
      exact g'.kept.trans (removeOther_kept (by rw [g'.entries]; exact he) (by rw [hc]; decide)
        (by rw [hc]; decide))
    all_goals
      rw [if_neg (by decide)]
      exact removeOther_kept he (by rw [hc]; decide) (by rw [hc]; decide)

theorem ackEntry_kept {s : State} {e : Entry} (r : AckResult) (he : e ∈ s.uplink.entries) :
    Kept s (ackEntry e r s) := by
  unfold ackEntry
  split
  · have h : Kept s (updateEntry e.seq (fun x => { x with answered := true }) s) :=
      updateEntry_kept (by intro _; rfl) (by intro _; rfl) (by intro _; rfl) s
    refine h.trans ?_
    have hq := (tellAnswered_quiet e r true
      (updateEntry e.seq (fun x => { x with answered := true }) s)).queue
    unfold tellAnswered at hq ⊢
    cases hc : e.cls <;> simp only [hc] at hq ⊢
    case bid => exact (withBidOffer_holds (fun i o g => bidAnswered_holds g)).kept hq
    case text => exact (textOutcome_holds _ _ _).kept hq
    case trip =>
      split
      · exact Still.kept ⟨rfl, rfl, rfl, rfl, rfl⟩
      · exact Kept.refl _
    all_goals exact Kept.refl _
  · exact leaveQueue_kept (tellAnswered_leaves r he)
  · exact leaveQueue_kept (tellAnswered_leaves r he)

theorem ownAck_kept (f : DownFrame) (s : State) : Kept s (ownAck f s) := by
  unfold ownAck
  split
  · split
    · rename_i e he
      exact ackEntry_kept _ (ackMatch_mem he)
    · exact Still.kept ⟨rfl, rfl, rfl, rfl, rfl⟩
  · exact Still.kept ⟨rfl, rfl, rfl, rfl, rfl⟩

theorem takeAck_kept (f : DownFrame) (s : State) : Kept s (takeAck f s) :=
  (handOver_kept (ownAck_kept f s) _ _ _).trans (placeHeld_kept _)

theorem ackTimeout_kept {s : State} {e : Entry} (he : e ∈ s.uplink.entries) :
    Kept s (ackTimeout e s) := by
  unfold ackTimeout
  refine Kept.ite (fun _ => ?_) (fun _ => ?_)
  · have h : Kept s (updateEntry e.seq (fun x => { x with state := .queued, ackTimer := none }) s) :=
      updateEntry_kept (by intro _; rfl) (by intro _; rfl) (by intro _; rfl) s
    refine Kept.before (linkReact_still _).kept (h.trans ?_)
    exact Kept.ite (fun _ => (withBidOffer_holds (fun i o g => setProgress_holds _ g)).kept
      (withBidOffer_quiet (setProgress_quiet _) e _).queue) (fun _ => Kept.refl _)
  · refine Kept.before (placeHeld_kept _) (leaveQueue_kept ?_)
    have hq := (tellExhausted_quiet e s).queue
    refine Kept.assume (fun ql => (removeEntry_quiet _ _).queue (hq ql)) (fun ql w => ?_)
    unfold tellExhausted at hq ⊢
    cases hc : e.cls <;> simp only [hc] at hq ⊢
    case bid =>
      obtain ⟨i, o, h1, h2, h3, h4, h5⟩ := bidAt w (key_bid he hc)
      rw [h5] at hq ⊢
      exact loseBid_kept he hc h1 (closeOffer_loses _ _ h2) hq
    case text =>
      obtain ⟨i, hi⟩ := textSlot w (key_text he hc)
      exact loseText_kept he hc hi (textFailed_loses _ hi) hq
    case trip =>
      have g := Still.setTrip s { s.trip with holdoff := some Config.holdoffSeconds }
      exact g.kept.trans (removeOther_kept (by rw [g.entries]; exact he) (by rw [hc]; decide)
        (by rw [hc]; decide))
    all_goals exact removeOther_kept he (by rw [hc]; decide) (by rw [hc]; decide)

/-! ### Finding an offer, a job, a free place -/

theorem findOfferFrom_at {id : Word} {l : List (Option Offer)} {k i : Nat} {o : Offer}
    (h : findOfferFrom id k l = some (i, o)) : k ≤ i ∧ l.getD (i - k) none = some o := by
  induction l generalizing k with
  | nil => simp [findOfferFrom] at h
  | cons a l ih =>
    have next : findOfferFrom id (k + 1) l = some (i, o) →
        k ≤ i ∧ (a :: l).getD (i - k) none = some o := by
      intro h
      obtain ⟨h1, h2⟩ := ih h
      refine ⟨by omega, ?_⟩
      rw [show i - k = (i - (k + 1)) + 1 by omega]
      simpa using h2
    cases a with
    | none => exact next h
    | some b =>
      simp only [findOfferFrom] at h
      split at h
      · simp only [Option.some.injEq, Prod.mk.injEq] at h
        obtain ⟨rfl, rfl⟩ := h
        exact ⟨Nat.le_refl _, by simp⟩
      · exact next h

theorem findOffer_at {id : Word} {s : State} {i : Nat} {o : Offer}
    (h : findOffer id s = some (i, o)) : offerAt i s = some o := (findOfferFrom_at h).2

theorem findJobFrom_at {l : List (Option Offer)} {k i : Nat} {o : Offer}
    (h : findJobFrom k l = some (i, o)) : k ≤ i ∧ l.getD (i - k) none = some o ∧ o.job = true := by
  induction l generalizing k with
  | nil => simp [findJobFrom] at h
  | cons a l ih =>
    have next : findJobFrom (k + 1) l = some (i, o) →
        k ≤ i ∧ (a :: l).getD (i - k) none = some o ∧ o.job = true := by
      intro h
      obtain ⟨h1, h2, h3⟩ := ih h
      refine ⟨by omega, ?_, h3⟩
      rw [show i - k = (i - (k + 1)) + 1 by omega]
      simpa using h2
    cases a with
    | none => exact next h
    | some b =>
      simp only [findJobFrom] at h
      split at h
      · rename_i hb
        simp only [Option.some.injEq, Prod.mk.injEq] at h
        obtain ⟨rfl, rfl⟩ := h
        exact ⟨Nat.le_refl _, by simp, hb⟩
      · exact next h

theorem findJob_at {s : State} {i : Nat} {o : Offer} (h : findJob s = some (i, o)) :
    offerAt i s = some o ∧ o.job = true := ⟨(findJobFrom_at h).2.1, (findJobFrom_at h).2.2⟩

theorem findJobFrom_none {l : List (Option Offer)} {k : Nat} (h : findJobFrom k l = none) (j : Nat)
    (o : Offer) (ho : l.getD j none = some o) : o.job = false := by
  induction l generalizing k j with
  | nil => simp at ho
  | cons a l ih =>
    cases a with
    | none =>
      cases j with
      | zero => simp at ho
      | succ j => exact ih (k := k + 1) h j (by simpa using ho)
    | some b =>
      simp only [findJobFrom] at h
      split at h
      · exact absurd h (by simp)
      · rename_i hb
        cases j with
        | zero =>
          simp at ho
          rw [← ho]
          simpa using hb
        | succ j => exact ih (k := k + 1) h j (by simpa using ho)

theorem findJob_none {s : State} (h : findJob s = none) (j : Nat) (o : Offer)
    (ho : offerAt j s = some o) : o.job = false := findJobFrom_none h j o ho

theorem firstFree_at {α : Type} {l : List (Option α)} {k i : Nat} (h : firstFree k l = some i) :
    k ≤ i ∧ i - k < l.length ∧ l.getD (i - k) none = none := by
  induction l generalizing k with
  | nil => simp [firstFree] at h
  | cons a l ih =>
    cases a with
    | none =>
      simp only [firstFree, Option.some.injEq] at h
      subst h
      simp
    | some b =>
      obtain ⟨h1, h2, h3⟩ := ih h
      refine ⟨by omega, ?_, ?_⟩
      · simp only [List.length_cons]
        omega
      · rw [show i - k = (i - (k + 1)) + 1 by omega]
        simpa using h3

/-! ### Offers -/

theorem setDuty_kept (d : Duty) (tag : Half) (s : State) : Kept s (setDuty d tag s) := by
  unfold setDuty
  simp only
  have h : Kept s (produce tag (.dutyChanged d
      (effectiveDuty (s.setOffers { s.offers with driverDuty := d })) (effectiveDuty s) .dutySet)
      (s.setOffers { s.offers with driverDuty := d })) :=
    Still.kept (Still.before (produce_still _ _ _) ⟨rfl, rfl, rfl, rfl, rfl⟩)
  exact Kept.ite (fun _ => h)
    (fun _ => h.trans ((closeOpen_holds _ _).kept (closeOpen_quiet _ _).queue))

theorem reqDuty_kept (tag : Half) (v : Byte) (s : State) : Kept s (reqDuty tag v s) := by
  unfold reqDuty
  split
  · exact (setDuty_kept _ _ s).trans (placeHeld_kept _)
  · exact (refuse_still _ _ _ s).kept

/-- A set of entries with the BID of an offer entry. -/
def addBid (P : Keys) (i q : Nat) : Keys := fun c r k =>
  P c r k ∨ (c = .bid ∧ r = .offer i ∧ k = q)

/-- A set of entries with the TEXT of a slot. -/
def addText (P : Keys) (i q : Nat) : Keys := fun c r k =>
  P c r k ∨ (c = .text ∧ r = .slot i ∧ k = q)

/-- An entry takes its BID. -/
theorem Weak.setOffer_add {P : Keys} {s : State} {i q : Nat} {o p : Offer} (w : Weak P s)
    (h : offerAt i s = some o) (hb : o.bidSeq = none) (hq : p.bidSeq = some q)
    (hs : p.state = .bidSent)
    (hj : ∀ j y, offerAt j s = some y → y.job = true → j = i) :
    Weak (addBid P i q) (setOffer i (some p) s) := by
  have a := offerAt_setOffer h (some p)
  refine ⟨?_, ?_, ?_, ?_, w.used, fun j x k h1 h2 => Or.inl (w.refs j x k h1 h2),
    fun k => absurd (running_of_offer w h) k⟩
  · intro j k x y
    rw [a j, a k]
    intro hx hy jx jy
    by_cases e1 : j = i
    · by_cases e2 : k = i
      · rw [e1, e2]
      · rw [if_neg e2] at hy
        exact absurd (hj k y hy jy) e2
    · rw [if_neg e1] at hx
      exact absurd (hj j x hx jx) e1
  · rintro r k (g | ⟨-, rfl, rfl⟩)
    · obtain ⟨j, x, h1, h2, h3⟩ := w.bid r k g
      refine ⟨j, x, h1, ?_, h3⟩
      rw [a, if_neg]
      · exact h2
      · rintro rfl
        rw [h] at h2
        cases h2
        rw [hb] at h3
        exact absurd h3 (by simp)
    · exact ⟨i, p, rfl, by rw [a, if_pos rfl], hq⟩
  · intro j x k
    rw [a j]
    by_cases e : j = i
    · rw [if_pos e]
      intro hx hk
      cases hx
      rw [hq] at hk
      cases hk
      exact ⟨hs, Or.inr ⟨rfl, by rw [e], rfl⟩⟩
    · rw [if_neg e]
      intro hx hk
      obtain ⟨k1, k2⟩ := w.named j x k hx hk
      exact ⟨k1, Or.inl k2⟩
  · rintro r k (g | ⟨g, -, -⟩)
    · exact w.text r k g
    · exact absurd g (by decide)

/-- A free slot takes its TEXT. -/
theorem Weak.setSlot_add {P : Keys} {s : State} {i q : Nat} {y : Slot} (w : Weak P s)
    (hp : s.phase = .running) (hl : i < s.pool.slots.length) (h : slotAt i s = none)
    (hq : y.ref = some q) : Weak (addText P i q) (setSlot i (some y) s) := by
  have a : ∀ j, slotAt j (setSlot i (some y) s) = if j = i then some y else slotAt j s := by
    intro j
    unfold slotAt setSlot
    simp only [State.setPool_pool, List.getD_eq_getElem?_getD, List.getElem?_set]
    by_cases k : i = j
    · subst k
      simp [hl]
    · rw [if_neg k, if_neg (fun e => k e.symm)]
  refine ⟨w.job, ?_, fun j o k h1 h2 => ⟨(w.named j o k h1 h2).1, Or.inl (w.named j o k h1 h2).2⟩,
    ?_, ?_, ?_, fun k => absurd hp k⟩
  · rintro r k (g | ⟨g, -, -⟩)
    · exact w.bid r k g
    · exact absurd g (by decide)
  · rintro r k (g | ⟨-, rfl, rfl⟩)
    · obtain ⟨j, x, h1, h2, h3⟩ := w.text r k g
      refine ⟨j, x, h1, ?_, h3⟩
      rw [a, if_neg]
      · exact h2
      · rintro rfl
        rw [h] at h2
        cases h2
    · exact ⟨i, y, rfl, by rw [a, if_pos rfl], hq⟩
  · intro j x
    rw [a j]
    by_cases e : j = i
    · rw [if_pos e]
      intro hx
      cases hx
      exact Or.inr (by rw [hq]; simp)
    · rw [if_neg e]; exact w.used j x
  · intro j x k
    rw [a j]
    by_cases e : j = i
    · rw [if_pos e]
      intro hx hk
      cases hx
      rw [hq] at hk
      cases hk
      exact Or.inr ⟨rfl, by rw [e], rfl⟩
    · rw [if_neg e]
      intro hx hk
      exact Or.inl (w.refs j x k hx hk)

theorem offerBid_kept {i : Nat} {o : Offer} (tag : Half) {s : State} (h : offerAt i s = some o)
    (hs : o.state = .open) (hj : findJob s = none) : Kept s (offerBid i o tag s) := by
  have hq := (offerBid_quiet i o tag s).queue
  refine Kept.assume hq (fun ql w => ?_)
  unfold offerBid at hq ⊢
  simp only at hq ⊢
  rcases offerEntry_cases .bid (bidBody o.id s) false false (.offer i) s with
    ⟨u, k, k1, k2, k3, -, k4⟩ | ⟨k1, k2⟩
  · rw [k4] at hq ⊢
    obtain ⟨b1, b2, b3, b4, b5, b6⟩ := insertNew_books .bid (bidBody o.id s) false false (.offer i) u
    have hu : offerAt i u = some o := by
      rw [offerAt_of_entries (s := s) (t := u) (by rw [k3])]
      exact h
    cases hr : (insertNew .bid (bidBody o.id s) false false (.offer i) u).2 with
    | admitted q =>
      simp only [hr] at hq ⊢
      have ht : offerAt i (insertNew .bid (bidBody o.id s) false false (.offer i) u).1 = some o := by
        rw [offerAt_of_entries b3]
        exact hu
      refine ⟨hq, fun ql w => ?_, fun ql w ol => ?_⟩
      · have w1 := (k.weak ql w).same b1 b3 b4
        refine (w1.setOffer_add ht (bidSeq_none w1 ht (by rw [hs]; decide))
          (p := o.bidding q tag) rfl rfl ?_).congr (fun c r x => ?_)
        · intro j y hy jy
          rw [offerAt_of_entries b3, offerAt_of_entries (s := s) (t := u) (by rw [k3])] at hy
          rw [findJob_none hj j y hy] at jy
          exact absurd jy (by simp)
        · refine (b5 q hr c r x).trans (or_congr_right ?_)
          constructor
          · rintro ⟨-, g1, g2, g3⟩
            exact ⟨g1.symm, g2.symm, g3.symm⟩
          · rintro ⟨rfl, rfl, rfl⟩
            exact ⟨Or.inl rfl, rfl, rfl, rfl⟩
      · refine openLaw_setOffer ht (fun x hx hs' => ?_)
          (openLaw_same b2 b3 (k.shut ql w ol))
        cases hx
        exact absurd hs' (by simp [Offer.bidding])
    | linkDown =>
      simp only
      rw [b6 (by rw [hr]; rfl)]
      exact k.trans (refuse_still _ _ _ _).kept
    | full =>
      simp only
      rw [b6 (by rw [hr]; rfl)]
      exact k.trans (refuse_still _ _ _ _).kept
  · cases hr : (offerEntry .bid (bidBody o.id s) false false (.offer i) s).2 with
    | admitted q => rw [hr] at k2; simp [Admission.ok] at k2
    | linkDown =>
      simp only
      rw [k1]
      exact (refuse_still _ _ _ _).kept
    | full =>
      simp only
      rw [k1]
      exact (refuse_still _ _ _ _).kept

theorem reqAccept_kept (tag : Half) (id : Word) (s : State) : Kept s (reqAccept tag id s) := by
  unfold reqAccept
  split
  · exact (refuse_still _ _ _ s).kept
  · rename_i i o h
    refine Kept.ite (fun _ => (refuse_still _ _ _ s).kept) (fun _ => ?_)
    refine Kept.ite (fun _ => (refuse_still _ _ _ s).kept) (fun _ => ?_)
    refine Kept.ite (fun _ => (refuse_still _ _ _ s).kept) (fun hs => ?_)
    refine Kept.ite (fun _ => (refuse_still _ _ _ s).kept) (fun hj => ?_)
    exact (offerBid_kept tag (findOffer_at h) (by simpa using hs) (by simpa using hj)).trans
      (placeHeld_kept _)

/-- An entry that is not BID_SENT closes, whatever of it has been replaced. -/
theorem closeOther_kept {s : State} {i : Nat} {o x : Offer} (r : ClosingReason) (n : ReleaseNote)
    (h : offerAt i s = some x) (hs : x.state ≠ .bidSent) : Kept s (closeOffer i o r n s) :=
  (closeOffer_holds r n h hs).kept (closeOffer_quiet _ _ _ _ s).queue

theorem reqDecline_kept (tag : Half) (id : Word) (s : State) : Kept s (reqDecline tag id s) := by
  unfold reqDecline
  split
  · exact (refuse_still _ _ _ s).kept
  · rename_i i o h
    refine Kept.ite (fun hs => ?_) (fun _ => (refuse_still _ _ _ s).kept)
    exact (closeOther_kept _ _ (findOffer_at h) (by rw [hs]; decide)).trans (placeHeld_kept _)

theorem admitOffer_kept {i : Nat} (b : OfferBody) (n : Nat) {s : State}
    (hf : firstFree 0 s.offers.entries = some i) (hp : s.phase = .running)
    (he : s.emerg.state = .quiet) : Kept s (admitOffer i b n s) := by
  unfold admitOffer
  refine Kept.before (Still.kept (Still.before (pulse_still _ _) (produce_still _ _ _))) ?_
  obtain ⟨-, hl, hn⟩ := firstFree_at hf
  have a : ∀ j, offerAt j (s.setOffers { s.offers with
      entries := s.offers.entries.set i (some (newOffer b s.offers.nextAdmit)),
      nextAdmit := s.offers.nextAdmit + 1 }) =
      if j = i then some (newOffer b s.offers.nextAdmit) else offerAt j s := by
    intro j
    unfold offerAt
    simp only [State.setOffers_offers, List.getD_eq_getElem?_getD, List.getElem?_set]
    by_cases k : i = j
    · subst k
      simp at hl
      simp [hl]
    · rw [if_neg k, if_neg (fun e => k e.symm)]
  have hi : offerAt i s = none := hn
  refine ⟨id, fun _ w => ?_, fun _ _ o k => absurd he k⟩
  refine Weak.congr (P := keyIn s) (fun _ _ _ => Iff.rfl) ?_
  refine ⟨?_, ?_, ?_, w.text, w.used, w.refs, fun k => absurd hp k⟩
  · intro j k x y
    rw [a j, a k]
    intro hx hy jx jy
    by_cases e1 : j = i
    · rw [if_pos e1] at hx
      cases hx
      exact absurd jx (by simp [Offer.job, newOffer])
    · by_cases e2 : k = i
      · rw [if_pos e2] at hy
        cases hy
        exact absurd jy (by simp [Offer.job, newOffer])
      · rw [if_neg e1] at hx
        rw [if_neg e2] at hy
        exact w.job j k x y hx hy jx jy
  · intro r q k
    obtain ⟨j, x, h1, h2, h3⟩ := w.bid r q k
    refine ⟨j, x, h1, ?_, h3⟩
    rw [a, if_neg]
    · exact h2
    · rintro rfl
      rw [hi] at h2
      cases h2
  · intro j x q
    rw [a j]
    by_cases e : j = i
    · rw [if_pos e]
      intro hx hq
      cases hx
      exact absurd hq (by simp [newOffer])
    · rw [if_neg e]
      exact w.named j x q

theorem ownOffer_kept (f : DownFrame) {s : State} (hp : s.phase = .running) :
    Kept s (ownOffer f s) := by
  unfold ownOffer
  refine Kept.ite (fun _ => Still.kept ⟨rfl, rfl, rfl, rfl, rfl⟩) (fun he => ?_)
  refine Kept.ite (fun _ => Kept.refl s) (fun _ => Kept.ite (fun _ => Kept.refl s) (fun _ => ?_))
  split
  · exact Still.kept ⟨rfl, rfl, rfl, rfl, rfl⟩
  · split
    · exact Still.kept ⟨rfl, rfl, rfl, rfl, rfl⟩
    · rename_i i hi
      exact admitOffer_kept _ _ hi hp (by simpa using he)

theorem takeOffer_kept (f : DownFrame) {s : State} (hp : s.phase = .running) :
    Kept s (takeOffer f s) := handOver_kept (ownOffer_kept f hp) _ _ _

theorem deferAnswer_kept (a : BidAnswer) {i : Nat} {o : Offer} {s : State}
    (h : offerAt i s = some o) : Kept s (deferAnswer a i o s) := by
  have set : ∀ u, offerAt i u = some o → Kept u (setOffer i (some { o with
      deferred := some (Deferred.after o.deferred a), remaining := none }) u) := by
    intro u hu
    refine Holds.kept (setOffer_holds hu ?_ rfl ?_ ?_) (setOffer_quiet _ _ _).queue
    · exact id
    · exact fun k _ => k
    · exact id
  unfold deferAnswer
  simp only
  cases hb : o.bidSeq with
  | none =>
    have := set s h
    rw [hb] at this
    exact this
  | some q =>
    have k : Kept s (updateEntry q (fun x => { x with abandon := true, answered := true }) s) :=
      updateEntry_kept (by intro _; rfl) (by intro _; rfl) (by intro _; rfl) s
    have := set (updateEntry q (fun x => { x with abandon := true, answered := true }) s) h
    rw [hb] at this
    exact k.trans this

/-- An entry whose BID is not ON_AIR loses it after the withdrawal. -/
theorem withdrawn_kept {i : Nat} {o : Offer} {s t : State} (h : offerAt i s = some o)
    (hs : (o.bidSeq.bind (fun q => entryWith q s)).map (·.state) ≠ some .onAir)
    (hl : ∀ u, offerAt i u = some o → (∀ P, Weak P s → Weak P u) →
      u = withdrawBid o s → LosesBid i u t)
    (hq : QueueLaw s → QueueLaw t) : Kept s t := by
  refine Kept.assume hq (fun ql w => ?_)
  cases hb : o.bidSeq with
  | none =>
    have e : withdrawBid o s = s := by unfold withdrawBid; rw [hb]
    have g := hl s h (fun _ w => w) e.symm
    refine ⟨hq, fun ql w => ?_, fun _ w ol => g.shut _ w ol⟩
    refine (g.weak _ w).congr (fun c r q => (g.keys c r q).trans (dropBid_same w h hb c r q))
  | some q =>
    obtain ⟨k1, hc, e, he, e1, e2, e3⟩ := w.named i o q h hb
    have hw : entryWith q s = some e := by
      unfold entryWith
      cases hf : s.uplink.entries.find? (fun e => e.seq == q) with
      | none =>
        have := List.find?_eq_none.mp hf e he
        simp [e3] at this
      | some x =>
        have hx := List.mem_of_find?_eq_some hf
        have hx2 := List.find?_some hf
        simp only [beq_iff_eq] at hx2
        rw [eq_of_seq ql hx he (by rw [hx2, e3])]
    have hst : e.state ≠ .onAir := by
      intro k
      apply hs
      rw [hb]
      simp [hw, k]
    have ew : withdrawBid o s = linkReact (removeEntry e.seq s) := by
      unfold withdrawBid
      simp only [hb]
      unfold withdrawEntry
      simp only [hw]
      rw [e3]
      cases hk : e.state with
      | onAir => exact absurd hk hst
      | queued => rfl
      | awaitAck => rfl
    have st := linkReact_still (removeEntry e.seq s)
    have g := hl (linkReact (removeEntry e.seq s))
      (by rw [offerAt_of_entries st.offers]; exact h)
      (fun P w => st.holds.weak P (removeEntry_weak _ w)) ew.symm
    exact removeBid_kept he e1 e2 (g.after st.holds) hq

theorem not_onAir {o : Offer} {s : State} (h : answerDeferred o s = false) :
    (o.bidSeq.bind (fun q => entryWith q s)).map (·.state) ≠ some .onAir := by
  unfold answerDeferred at h
  simp only [Bool.or_eq_false_iff] at h
  intro k
  rw [k] at h
  simp at h

theorem awardId_kept (id : Word) (s : State) : Kept s (awardId id s) := by
  have rel := (offerRelease_holds id s).kept (offerRelease_quiet id s).queue
  unfold awardId
  split
  · exact Kept.before (produce_still _ _ _).kept rel
  · rename_i i o h
    have h0 := findOffer_at h
    split
    · rename_i hs
      cases hd : answerDeferred o s with
      | true =>
        rw [if_pos rfl]
        exact deferAnswer_kept _ h0
      | false =>
        rw [if_neg (by decide)]
        refine withdrawn_kept h0 (not_onAir hd) (fun u hu _ e => ?_)
          (fun ql => (awardEntry_quiet _ _ _ _ _).queue ((withdrawBid_quiet o s).queue ql))
        rw [← e]
        exact awardEntry_loses _ _ hu
          (fun P w j y hy jy => w.job j i y o hy hu jy (job_of_bidSent hs))
    · exact Kept.refl s
    · rename_i hs
      refine Kept.ite (fun hd => ?_) (fun _ => ?_)
      · have hj : findJob s = none := by
          unfold directAllowed at hd
          simp only [Bool.and_eq_true] at hd
          simpa using hd.1.1
        have g := awardEntry_loses (o := o) true 0 h0 (fun P _ j y hy jy => by
          rw [findJob_none hj j y hy] at jy
          exact absurd jy (by simp))
        refine ⟨(awardEntry_quiet _ _ _ _ _).queue, fun _ w => ?_, fun _ w ol => g.shut _ w ol⟩
        exact (g.weak _ w).congr (fun c r q => (g.keys c r q).trans
          (dropBid_same w h0 (bidSeq_none w h0 (by rw [hs]; decide)) c r q))
      · refine rel.trans ((closeWith_holds _ _ _ (Holds.offerRelease_at id h0)
          (fun P w => bidSeq_none w (Holds.offerRelease_at id h0) (by rw [hs]; decide))).kept
            (closeWith_quiet _ _ _ _ _ _).queue)
    · exact Kept.before (produce_still _ _ _).kept rel

theorem takeAward_kept (f : DownFrame) (s : State) : Kept s (takeAward f s) := by
  unfold takeAward
  refine Kept.before (placeHeld_kept _) (Kept.before (tripTest_kept _) (handOver_kept ?_ _ _ _))
  unfold ownAward
  split
  · exact awardId_kept _ s
  · exact Kept.refl s

theorem bidTaken_kept {i : Nat} {o : Offer} {s : State} (h : offerAt i s = some o) :
    Kept s (bidTaken i o s) := by
  unfold bidTaken
  cases hd : answerDeferred o s with
  | true => rw [if_pos rfl]; exact deferAnswer_kept _ h
  | false =>
    rw [if_neg (by decide)]
    refine withdrawn_kept h (not_onAir hd) (fun u hu _ e => ?_)
      (fun ql => (closeOffer_quiet _ _ _ _ _).queue ((withdrawBid_quiet o s).queue ql))
    rw [← e]
    exact closeOffer_loses _ _ hu

theorem takeReject_kept (f : DownFrame) (s : State) : Kept s (takeReject f s) := by
  unfold takeReject
  refine Kept.before (placeHeld_kept _) (Kept.before (tripTest_kept _) (handOver_kept ?_ _ _ _))
  unfold ownReject
  split
  · rename_i i o h
    have h0 : offerAt i s = some o := by
      cases hb : idBody f.body with
      | none => rw [hb] at h; simp at h
      | some id => rw [hb] at h; exact findOffer_at h
    split
    · rename_i hs
      exact closeOther_kept _ _ h0 (by rw [hs]; decide)
    · exact bidTaken_kept h0
    · exact Kept.refl s
    · exact Kept.refl s
  · exact Kept.refl s

theorem cancelJob_kept {i : Nat} {o : Offer} {s : State} (h : offerAt i s = some o)
    (hs : o.state = .awarded) : Kept s (cancelJob i o s) := by
  have hq := (cancelJob_quiet i o s).queue
  unfold cancelJob at hq ⊢
  refine Holds.kept ?_ hq
  exact Holds.before (dutyAfter_holds _ _ _ _) (Holds.before (placeHeld_holds _)
    (closeWith_holds _ _ _ h (fun P w => bidSeq_none w h (by rw [hs]; decide))))

theorem takeWithdraw_kept (f : DownFrame) (s : State) : Kept s (takeWithdraw f s) := by
  unfold takeWithdraw
  refine Kept.before (placeHeld_kept _) (Kept.before (tripTest_kept _) (handOver_kept ?_ _ _ _))
  unfold ownWithdraw
  split
  · rename_i i o h
    have h0 : offerAt i s = some o := by
      cases hb : idBody f.body with
      | none => rw [hb] at h; simp at h
      | some id => rw [hb] at h; exact findOffer_at h
    split
    · rename_i hs
      exact closeOther_kept _ _ h0 (by rw [hs]; decide)
    · exact bidTaken_kept h0
    · rename_i hs
      exact cancelJob_kept h0 hs
    · exact Kept.refl s
  · exact Kept.refl s

theorem windowEnd_kept (i : Nat) (s : State) : Kept s (windowEnd i s) := by
  unfold windowEnd
  split
  · rename_i o h
    exact Kept.ite (fun hs => closeOther_kept _ _ (by exact h) (by rw [hs.1]; decide))
      (fun _ => Kept.refl s)
  · exact Kept.refl s

theorem awardWaitEnd_kept (s : State) : Kept s (awardWaitEnd s) := by
  have hq := (awardWaitEnd_quiet s).queue
  unfold awardWaitEnd at hq ⊢
  split
  · rename_i i o h
    simp only [h] at hq
    refine Holds.kept ?_ hq
    have hj : offerAt i s = some o ∧ o.bidSeq = none := by
      unfold waitingAward at h
      split at h
      · rename_i j p hf
        split at h
        · rename_i hc
          simp only [Option.some.injEq, Prod.mk.injEq] at h
          obtain ⟨rfl, rfl⟩ := h
          exact ⟨(findJob_at hf).1, hc.2.2.2⟩
        · exact absurd h (by simp)
      · exact absurd h (by simp)
    unfold awardWaitOver
    exact (offerRelease_holds _ _).trans (closeWith_holds _ _ _ (Holds.offerRelease_at _ hj.1)
      (fun _ _ => hj.2))
  · exact Kept.refl s

/-! ### Texts -/

theorem offerText_kept {i : Nat} (tag : Half) (c : Byte) (x : List Byte) {s : State}
    (hp : s.phase = .running) (hf : firstFree 0 s.pool.slots = some i) :
    Kept s (offerText i tag c x s) := by
  have hq := (offerText_quiet i tag c x s).queue
  obtain ⟨-, hl, hn⟩ := firstFree_at hf
  have hi : slotAt i s = none := hn
  unfold offerText at hq ⊢
  simp only at hq ⊢
  rcases offerEntry_cases .text (textFrameBody c x) false false (.slot i) s with
    ⟨u, k, -, -, -, k0, k4⟩ | ⟨k1, k2⟩
  · rw [k4, k0 (by decide) (by decide)] at hq ⊢
    obtain ⟨b1, b2, b3, b4, b5, b6⟩ := insertNew_books .text (textFrameBody c x) false false (.slot i) s
    cases hr : (insertNew .text (textFrameBody c x) false false (.slot i) s).2 with
    | admitted q =>
      simp only [hr] at hq ⊢
      refine ⟨hq, fun ql w => ?_, fun ql w ol => openLaw_same b2 b3 ol⟩
      have w1 := w.same b1 b3 b4
      refine (w1.setSlot_add (y := { tag := tag, ref := some q, held := none, attempts := none })
        (by rw [b1]; exact hp) (by rw [b4]; simpa using hl)
        (by rw [slotAt_of_slots b4]; exact hi) rfl).congr (fun d r y => ?_)
      refine (b5 q hr d r y).trans (or_congr_right ?_)
      constructor
      · rintro ⟨-, g1, g2, g3⟩
        exact ⟨g1.symm, g2.symm, g3.symm⟩
      · rintro ⟨rfl, rfl, rfl⟩
        exact ⟨Or.inr rfl, rfl, rfl, rfl⟩
    | linkDown =>
      simp only
      rw [b6 (by rw [hr]; rfl)]
      exact (refuse_still _ _ _ _).kept
    | full =>
      simp only
      rw [b6 (by rw [hr]; rfl)]
      exact (refuse_still _ _ _ _).kept
  · cases hr : (offerEntry .text (textFrameBody c x) false false (.slot i) s).2 with
    | admitted q => rw [hr] at k2; simp [Admission.ok] at k2
    | linkDown =>
      simp only
      rw [k1]
      exact (refuse_still _ _ _ _).kept
    | full =>
      simp only
      rw [k1]
      exact (refuse_still _ _ _ _).kept

theorem reqSendText_kept (tag : Half) (c : Byte) (x : List Byte) {s : State}
    (hp : s.phase = .running) : Kept s (reqSendText tag c x s) := by
  unfold reqSendText
  refine Kept.ite (fun _ => (refuse_still _ _ _ s).kept) (fun _ => ?_)
  refine Kept.ite (fun _ => (refuse_still _ _ _ s).kept) (fun _ => ?_)
  refine Kept.ite (fun _ => (refuse_still _ _ _ s).kept) (fun _ => ?_)
  split
  · exact (refuse_still _ _ _ s).kept
  · rename_i i hi
    exact offerText_kept tag c _ hp hi

theorem takeText_kept (f : DownFrame) (s : State) : Kept s (takeText f s) := by
  unfold takeText
  refine handOver_kept (Still.kept ?_) _ _ _
  unfold ownText
  split
  · unfold textPulse
    exact Still.ite (fun _ => Still.before (pulse_still _ _) (produce_still _ _ s))
      (fun _ => produce_still _ _ s)
  · exact ⟨rfl, rfl, rfl, rfl, rfl⟩

/-! ### The meter and the trips -/

theorem applyChange_still (s : State) : Still s (applyChange s) := by
  unfold applyChange
  split
  · split
    · exact Still.before (produce_still _ _ _) ⟨rfl, rfl, rfl, rfl, rfl⟩
    · exact Still.refl s
  · exact Still.refl s

theorem addIncrement_still (a : ActiveCopy) (n : Nat) (s : State) : Still s (addIncrement a n s) :=
  Still.ite (fun _ => Still.before (applyChange_still _) ⟨rfl, rfl, rfl, rfl, rfl⟩)
    (fun _ => Still.setMeter s _)

theorem odoPulse_still (s : State) : Still s (odoPulse s) := by
  unfold odoPulse
  refine Still.ite (fun _ => ?_) (fun _ => ?_)
  · have h : Still s (countPulse s) := ⟨rfl, rfl, rfl, rfl, rfl⟩
    refine h.trans ?_
    unfold chargePulse
    split
    · exact Still.before (addIncrement_still _ _ _) (Still.setMeter _ _)
    · exact Still.refl _
  · unfold rejectPulse
    exact Still.before (raiseFactor_still _ _) ⟨rfl, rfl, rfl, rfl, rfl⟩

theorem meterTick_still (s : State) : Still s (meterTick s) := by
  unfold meterTick
  refine Still.before (Still.setMeter _ _) ?_
  unfold chargeTime
  split
  · exact Still.ite (fun _ => addIncrement_still _ _ s) (fun _ => Still.refl s)
  · exact Still.refl s

theorem reportMeter_still (c : Byte) (b : MeterState) (tag : Half) (x y z : Nat) (s : State) :
    Still s (reportMeter c b tag x y z s) := produce_still _ _ s

theorem hireBid_kept {i : Nat} {o : Offer} {s : State} (h : offerAt i s = some o) :
    Kept s (hireBid i o s) := by
  have hq := (hireBid_quiet i o s).queue
  unfold hireBid at hq ⊢
  simp only at hq ⊢
  split
  · have set : ∀ u d, offerAt i u = some o → Kept u (setOffer i (some { o with
        deferred := some d, remaining := none }) u) := by
      intro u d hu
      refine Holds.kept (setOffer_holds hu ?_ rfl ?_ ?_) (setOffer_quiet _ _ _).queue
      · exact id
      · exact fun k _ => k
      · exact id
    cases hb : o.bidSeq with
    | none =>
      have := fun d => set s d h
      simp only [hb] at this
      exact this _
    | some q =>
      have k : Kept s (updateEntry q (fun x => { x with abandon := true }) s) :=
        updateEntry_kept (by intro _; rfl) (by intro _; rfl) (by intro _; rfl) s
      have := fun d => set (updateEntry q (fun x => { x with abandon := true }) s) d h
      simp only [hb] at this
      exact k.trans (this _)
  · rename_i hd
    rw [if_neg hd] at hq
    refine withdrawn_kept h (fun k => hd (Or.inr k)) (fun u hu _ e => ?_) hq
    split
    · show LosesBid i u (closeOffer i o .abandoned .noneOffered (withdrawBid o s))
      rw [← e]
      exact closeOffer_loses _ _ hu
    · show LosesBid i u (closeOffer i o .abandoned (offerRelease o.id (withdrawBid o s)).2
        (offerRelease o.id (withdrawBid o s)).1)
      rw [← e]
      exact LosesBid.after (offerRelease_holds _ _) (closeOffer_loses _ _ (Holds.offerRelease_at _ hu))

theorem settleJob_kept (s : State) : Kept s (settleJob s).1 := by
  unfold settleJob
  split
  · rename_i i o h
    have h0 := (findJob_at h).1
    split
    · rename_i hs
      exact closeOther_kept _ _ h0 (by rw [hs]; decide)
    · exact hireBid_kept h0
  · exact Kept.refl s

theorem dutyAfter_kept (d : Duty) (tag : Half) (c : DutyCause) (s : State) :
    Kept s (dutyAfter d tag c s) := (dutyAfter_holds d tag c s).kept (dutyAfter_quiet d tag c s).queue

theorem hire_kept (a : ActiveCopy) (tag : Half) (s : State) : Kept s (hire a tag s) := by
  unfold hire
  refine Kept.before (tripTest_kept _) (Kept.before (dutyAfter_kept _ _ _ _) (Kept.before
    (Still.kept ?_) (settleJob_kept s)))
  exact Still.before (reportMeter_still _ _ _ _ _ _ _) ⟨rfl, rfl, rfl, rfl, rfl⟩

theorem reqHire_kept (tag : Half) (slot : Byte) (s : State) : Kept s (reqHire tag slot s) := by
  unfold reqHire
  refine Kept.ite (fun _ => (refuse_still _ _ _ s).kept) (fun _ => Kept.ite
    (fun _ => (refuse_still _ _ _ s).kept) (fun _ => ?_))
  split
  · exact (refuse_still _ _ _ s).kept
  · exact (hire_kept _ tag s).trans (placeHeld_kept _)

theorem reqStop_kept (tag : Half) (s : State) : Kept s (reqStop tag s) :=
  Still.kept (Still.ite (fun _ => Still.before (reportMeter_still _ _ _ _ _ _ _) (Still.setMeter s _))
    (fun _ => refuse_still _ _ _ s))

theorem reqResume_kept (tag : Half) (s : State) : Kept s (reqResume tag s) :=
  Still.kept (Still.ite (fun _ => Still.before (reportMeter_still _ _ _ _ _ _ _) (Still.setMeter s _))
    (fun _ => refuse_still _ _ _ s))

theorem reqExtra_kept (tag a : Half) (c : Byte) (s : State) : Kept s (reqExtra tag a c s) :=
  Still.kept (Still.ite (fun _ => refuse_still _ _ _ s) (fun _ => Still.ite
    (fun _ => refuse_still _ _ _ s)
    (fun _ => Still.before (reportMeter_still _ _ _ _ _ _ _) (Still.setMeter s _))))

theorem requestTask_still (k : TaskKind) (s : State) : Still s (requestTask k s) :=
  Still.of_side (requestTask_side k s)

theorem closeTrip_still (tag : Half) (s : State) : Still s (closeTrip tag s) := by
  unfold closeTrip
  split
  · refine Still.before (addTripReport_still _ _ _) ?_
    unfold requestTripLog
    exact Still.ite (fun _ => Still.before (requestTask_still _ _) (Still.setTrip s _))
      (fun _ => Still.setTrip s _)
  · exact Still.refl s

theorem clearHiring_kept (tag : Half) (s : State) : Kept s (clearHiring tag s) := by
  unfold clearHiring
  refine Kept.before (tripTest_kept _) (Kept.before (dutyAfter_kept _ _ _ _) (Still.kept ?_))
  exact Still.before (reportMeter_still _ _ _ _ _ _ _)
    (Still.before (Still.setMeter _ _) (closeTrip_still tag s))

theorem reqClear_kept (tag : Half) (s : State) : Kept s (reqClear tag s) :=
  Kept.ite (fun _ => (clearHiring_kept tag s).trans (placeHeld_kept _))
    (fun _ => (refuse_still _ _ _ s).kept)

theorem reqSelect_kept (tag : Half) (slot : Byte) (s : State) : Kept s (reqSelect tag slot s) := by
  unfold reqSelect
  refine Kept.ite (fun _ => (refuse_still _ _ _ s).kept) (fun _ => Kept.ite
    (fun _ => (refuse_still _ _ _ s).kept) (fun _ => ?_))
  split
  · exact (refuse_still _ _ _ s).kept
  · exact Still.kept (Still.before (reportMeter_still _ _ _ _ _ _ _) (Still.setMeter s _))

theorem takeTariff_kept (f : DownFrame) (s : State) : Kept s (takeTariff f s) := by
  unfold takeTariff
  refine handOver_kept (Still.kept ?_) _ _ _
  unfold ownTariff
  split
  · exact Still.before (produce_still _ _ _) (Still.setMeter s _)
  · exact Still.refl s

theorem reqShiftClose_kept (tag : Half) (s : State) : Kept s (reqShiftClose tag s) :=
  Kept.ite (fun _ => Kept.before (placeHeld_kept _) (Still.kept ⟨rfl, rfl, rfl, rfl, rfl⟩))
    (fun _ => (refuse_still _ _ _ s).kept)

theorem holdoffEnd_kept (s : State) : Kept s (holdoffEnd s) :=
  Kept.before (tripTest_kept _) (Still.setTrip s _).kept

/-! ### The emergency controller -/

theorem openLaw_of_rest {P : Keys} {s : State} (w : Weak P s) (h : s.phase ≠ .running) :
    OpenLaw s := by
  intro _ i o ho
  rw [(w.rest h i).1] at ho
  exact absurd ho (by simp)

theorem requestBoxWrite_still (s : State) : Still s (requestBoxWrite s) := by
  unfold requestBoxWrite
  refine Still.ite (fun _ => Still.ite (fun _ => ⟨rfl, rfl, rfl, rfl, rfl⟩) (fun _ => ?_))
    (fun _ => ⟨rfl, rfl, rfl, rfl, rfl⟩)
  exact Still.before (requestTask_still _ _) ⟨rfl, rfl, rfl, rfl, rfl⟩

theorem captureBox_still (x : RaiseSource) (s : State) : Still s (captureBox x s) := by
  unfold captureBox
  split
  · exact Still.refl s
  · exact Still.before (requestBoxWrite_still _) ⟨rfl, rfl, rfl, rfl, rfl⟩

theorem markTripEmergency_still (s : State) : Still s (markTripEmergency s) := Still.setTrip s _

theorem placeRaised_kept (s t : State) : Kept t (placeRaised s t) :=
  Kept.ite (fun _ => Kept.refl t) (fun _ => placeHeld_kept t)

/-- What follows the closings of a raise taken in s. -/
theorem callOffered_kept (x : RaiseSource) (tag : Half) (s v : State) :
    Kept v (placeRaised s (tripTest (setEmReport (raiseCause x) tag
      ((offerAlarm .call (overrideRadio v)).setEmerg
        { (offerAlarm .call (overrideRadio v)).emerg with
          repeatTimer := some
            (offerAlarm .call (overrideRadio v)).settings.accepted.repeatInterval })))) := by
  refine Kept.before (placeRaised_kept s _) ?_
  refine Kept.before (tripTest_kept _) (Kept.before (setEmReport_still _ _ _).kept ?_)
  refine Kept.before (setEmerg_kept ?_) (Kept.before (offerAlarm_kept _ _) (overrideRadio_still v).kept)
  exact id

/-- A taken raise leaves the books lawful, with no entry OPEN, from a state that may have some. -/
theorem raiseTaken_books (x : RaiseSource) (tag : Half) {s : State} (ql : QueueLaw s)
    (w : Weak (keyIn s) s) :
    Weak (keyIn (raiseTaken x tag s)) (raiseTaken x tag s) ∧ OpenLaw (raiseTaken x tag s) := by
  have h : Still s (markTripEmergency (raiseFactor .emergency s)) :=
    Still.before (markTripEmergency_still _) (raiseFactor_still _ s)
  unfold raiseTaken
  by_cases hp : s.phase = .running
  · simp only [if_pos hp]
    have c := closeOpen_holds .suppressed (markTripEmergency (raiseFactor .emergency s))
    have wv := ((h.holds.trans c).weak _ w).congr (h.holds.trans c).keys
    have ov : OpenLaw (closeOpen .suppressed (markTripEmergency (raiseFactor .emergency s))) :=
      fun _ j o ho => closeOpen_shuts _ _ j o ho
    have qv := (closeOpen_quiet .suppressed _).queue (h.queue ql)
    have k := callOffered_kept x tag s
      (closeOpen .suppressed (markTripEmergency (raiseFactor .emergency s)))
    exact ⟨k.weak qv wv, k.shut qv wv ov⟩
  · simp only [if_neg hp]
    have g := h.trans (setEmReport_still (raiseCause x) tag _)
    have wt := (g.holds.weak _ w).congr g.holds.keys
    exact ⟨wt, openLaw_of_rest wt (by rw [g.phase]; exact hp)⟩

theorem raise_kept (x : RaiseSource) (tag : Half) (s : State) : Kept s (raise x tag s) := by
  have hq := (raise_keeps x tag s).queue
  have go : ∀ e, QueueLaw s → Weak (keyIn s) s → ∀ t, Still s t →
      Weak (keyIn (raiseTaken x tag (t.setEmerg e))) (raiseTaken x tag (t.setEmerg e)) ∧
      OpenLaw (raiseTaken x tag (t.setEmerg e)) := by
    intro e ql w t h
    refine raiseTaken_books x tag (s := t.setEmerg e) (h.queue ql) ?_
    exact ((h.holds.weak _ w).same (s := t) (t := t.setEmerg e) rfl rfl rfl).congr h.holds.keys
  unfold raise at hq ⊢
  cases hs : s.emerg.state <;> simp only [hs] at hq ⊢
  case quiet =>
    exact ⟨hq, fun ql w => (go _ ql w _ (captureBox_still x s)).1,
      fun ql w _ => (go _ ql w _ (captureBox_still x s)).2⟩
  case exhausted =>
    exact ⟨hq, fun ql w => (go _ ql w _ (Still.refl s)).1,
      fun ql w _ => (go _ ql w _ (Still.refl s)).2⟩
  all_goals exact setEmerg_kept (fun k => absurd (hs.symm.trans k) (by decide))

theorem holdEnd_kept (s : State) : Kept s (holdEnd s) :=
  Kept.before (raise_kept _ _ _) (setEmerg_kept id)

theorem nextAttempt_kept (s : State) : Kept s (nextAttempt s) := by
  unfold nextAttempt
  exact Kept.before (setEmerg_kept id) (Kept.before (offerAlarm_kept _ _) (setEmerg_kept id))

theorem nextRound_kept {s : State} (h : s.emerg.state ≠ .quiet) : Kept s (nextRound s) := by
  unfold nextRound
  exact Kept.before (setEmReport_still _ _ _).kept (Kept.before (setEmerg_kept id)
    (Kept.before (offerAlarm_kept _ _) (setEmerg_kept (fun k => absurd k h))))

theorem roundEnd_kept {s : State} (h : s.emerg.state ≠ .quiet) : Kept s (roundEnd s) := by
  unfold roundEnd
  refine Kept.ite (fun _ => ?_) (fun _ => Kept.ite (fun _ => ?_) (fun _ => nextRound_kept h))
  · exact Kept.before (setEmReport_still _ _ _).kept (setEmerg_kept (fun k => absurd k h))
  · exact Kept.before (setEmReport_still _ _ _).kept (setEmerg_kept (fun k => absurd k h))

theorem repeatEnd_kept {s : State} (h : s.emerg.state ≠ .quiet) : Kept s (repeatEnd s) :=
  Kept.ite (fun _ => nextAttempt_kept s) (fun _ => roundEnd_kept h)

theorem trackNow_kept (s : State) : Kept s (trackNow s) := by
  unfold trackNow
  exact Kept.before (setEmerg_kept id) (Kept.before (offerAlarm_kept _ _) (setEmerg_kept id))

theorem graceEnd_kept (s : State) : Kept s (graceEnd s) := setEmerg_kept id

theorem cancelCall_kept (tag : Half) (s : State) : Kept s (cancelCall tag s) := by
  unfold cancelCall
  exact Kept.before (setEmReport_still _ _ _).kept (Kept.before (setEmerg_kept id)
    (Kept.before (offerAlarm_kept _ _) (setEmerg_kept (fun _ => rfl))))

theorem reqCancel_kept (tag : Half) (s : State) : Kept s (reqCancel tag s) := by
  have h : Kept s (if s.emerg.graceTimer.isSome then placeHeld (cancelCall tag s)
      else refuse 0x0D .graceOver tag s) :=
    Kept.ite (fun _ => (cancelCall_kept tag s).trans (placeHeld_kept _))
      (fun _ => (refuse_still _ _ _ s).kept)
  unfold reqCancel
  split
  · exact (refuse_still _ _ _ s).kept
  · exact h
  · exact h
  · exact (refuse_still _ _ _ s).kept
  · exact (refuse_still _ _ _ s).kept

theorem reqBoxClear_kept (tag : Half) (s : State) : Kept s (reqBoxClear tag s) := by
  refine Kept.ite (fun _ => Kept.before (placeHeld_kept _) (Still.kept ?_))
    (fun _ => (refuse_still _ _ _ s).kept)
  exact Still.before (setEmReport_still _ _ _)
    (Still.before (requestBoxWrite_still _) ⟨rfl, rfl, rfl, rfl, rfl⟩)

theorem withdrawAlarm_state (s : State) : (withdrawAlarm s).emerg = s.emerg := by
  unfold withdrawAlarm
  split
  · exact (withdrawEntry_radio _ s).emerg
  · rfl

theorem startTracking_kept {s : State} (h : s.emerg.state ≠ .quiet) :
    Kept s (startTracking s) := by
  unfold startTracking
  exact Kept.before (setEmReport_still _ _ _).kept (Kept.before
    (setEmerg_kept (fun k => absurd (by rw [withdrawAlarm_state] at k; exact k) h))
    (withdrawAlarm_kept s))

theorem takeAlarmAck_kept (f : DownFrame) (s : State) : Kept s (takeAlarmAck f s) := by
  unfold takeAlarmAck
  refine Kept.before (placeHeld_kept _) (Kept.before (tripTest_kept _) (handOver_kept ?_ _ _ _))
  unfold ownAlarmAck
  refine Kept.ite (fun _ => ?_) (fun _ => Kept.refl s)
  split
  · rename_i h; exact startTracking_kept (by rw [h]; decide)
  · rename_i h; exact startTracking_kept (by rw [h]; decide)
  · rename_i h; exact startTracking_kept (by rw [h]; decide)
  · exact Kept.refl s
  · exact Kept.refl s

theorem endCall_kept (s : State) : Kept s (endCall s) := by
  unfold endCall
  exact Kept.before (setEmReport_still _ _ _).kept (Kept.before (setEmerg_kept (fun _ => rfl))
    (withdrawAlarm_kept s))

theorem takeAlarmEnd_kept (f : DownFrame) (s : State) : Kept s (takeAlarmEnd f s) := by
  unfold takeAlarmEnd
  refine Kept.before (placeHeld_kept _) (Kept.before (tripTest_kept _) (handOver_kept ?_ _ _ _))
  exact Kept.ite (fun _ => endCall_kept s) (fun _ => Kept.refl s)

/-! ### The readers -/

theorem giveRequest_kept (r : RequestRecord) {s : State} (hp : s.phase = .running) :
    Kept s (giveRequest r s) := by
  unfold giveRequest
  split
  · exact reqAccept_kept _ _ s
  · exact reqDecline_kept _ _ s
  · exact reqDuty_kept _ _ s
  · exact reqSendText_kept _ _ _ hp
  · exact reqHire_kept _ _ s
  · exact reqStop_kept _ s
  · exact reqResume_kept _ s
  · exact reqExtra_kept _ _ _ s
  · exact reqClear_kept _ s
  · exact reqSelect_kept _ _ s
  · exact reqShiftClose_kept _ s
  · exact raise_kept _ _ s
  · exact reqCancel_kept _ s
  · exact reqBoxClear_kept _ s
  · exact reqRestart_kept _ s

theorem takeRequest_kept (b : List Byte) {s : State} (hp : s.phase = .running) :
    Kept s (takeRequest b s) := by
  unfold takeRequest advanceConsumer checkRequest
  refine Kept.before (placeHeld_kept _) (Kept.before (Still.kept
    (Still.before (requestTask_still _ _) (Still.setReader _ _))) ?_)
  exact Kept.ite (fun _ => (refuse_still _ _ _ s).kept)
    (fun _ => Kept.ite (fun _ => (refuse_still _ _ _ s).kept) (fun _ => giveRequest_kept _ hp))

theorem ownChannel_still (f : DownFrame) (s : State) : Still s (ownChannel f s) := by
  unfold ownChannel
  split
  · exact Still.before (linkReact_still _) (Still.setLink s _)
  · exact Still.refl s

theorem ownPoll_kept (s : State) : Kept s (ownPoll s) :=
  (offerOrDrop_holds _ _ s (by decide) (by decide) (by decide)).kept (ownPoll_quiet s).queue

theorem takePoll_kept (f : DownFrame) (s : State) : Kept s (takePoll f s) :=
  handOver_kept (ownPoll_kept s) _ _ _

theorem takeChannel_kept (f : DownFrame) (s : State) : Kept s (takeChannel f s) :=
  handOver_kept (ownChannel_still f s).kept _ _ _

theorem takeFrame_kept (c : Byte) (f : DownFrame) {s : State} (hp : s.phase = .running) :
    Kept s (takeFrame c f s) := by
  unfold takeFrame
  split
  · exact takeOffer_kept f hp
  · exact takeWithdraw_kept f s
  · exact takeAward_kept f s
  · exact takeReject_kept f s
  · exact takeText_kept f s
  · exact takeTariff_kept f s
  · exact takeAlarmAck_kept f s
  · exact takeAlarmEnd_kept f s
  · exact takeAck_kept f s
  · exact takePoll_kept f s
  · exact takeChannel_kept f s
  · exact (freeBuffer_still c f s).kept

theorem takeNext_kept (s : State) : Kept s (takeNext s) := by
  unfold takeNext
  refine Kept.ite (fun hp => ?_) (fun _ => Kept.refl s)
  split
  · exact Kept.ite
      (fun _ => Kept.before (takeRequest_kept _ (s := countDrawn s) hp.1) (Still.setBook s _).kept)
      (fun _ => Kept.before (takeFrame_kept _ _ (s := countDrawn s) hp.1) (Still.setBook s _).kept)
  · exact takeRequest_kept _ hp.1
  · exact takeFrame_kept _ _ hp.1
  · exact Kept.refl s

theorem takeOneWork_kept (s : State) : Kept s (takeOneWork s) :=
  (placeHeld_kept s).trans (takeNext_kept _)

theorem takeWork_kept (s : State) : Kept s (takeWork s) :=
  ((takeOneWork_kept s).trans (takeOneWork_kept _)).trans (takeOneWork_kept _)

/-! ### The receiver -/

theorem goodFrame_still (c : Byte) (f : DownFrame) (s : State) : Still s (goodFrame c f s) := by
  unfold goodFrame
  exact Still.ite (fun _ => Still.ite (fun _ => Still.setRx s _) (fun _ => Still.setRx s _))
    (fun _ => Still.setRx s _)

theorem judge_still (b : List Byte) (c : Bool) (s : State) : Still s (judge b c s) :=
  Still.ite (fun _ => badFrame_still s) (fun _ => goodFrame_still _ _ s)

theorem storeChar_still (d : Byte) (c : Bool) (s : State) : Still s (storeChar d c s) := by
  unfold storeChar
  simp only
  split
  · exact Still.ite (fun _ => Still.setRx s _) (fun _ => Still.ite (fun _ => badFrame_still s)
      (fun _ => Still.ite (fun _ => Still.setRx s _) (fun _ => Still.setRx s _)))
  · exact Still.ite (fun _ => Still.setRx s _) (fun _ => Still.setRx s _)
  · exact Still.ite (fun _ => Still.setRx s _) (fun _ => judge_still _ _ s)

theorem deframe_still (d : Byte) (c : Bool) (s : State) : Still s (deframe d c s) := by
  unfold deframe
  split
  · exact Still.ite (fun _ => Still.setRx s _) (fun _ => Still.refl s)
  · exact Still.ite (fun _ => Still.setRx s _) (fun _ => Still.ite (fun _ => Still.refl s)
      (fun _ => Still.setRx s _))
  · exact storeChar_still d c s
  · exact storeChar_still d c s
  · exact storeChar_still d c s
  · exact Still.ite (fun _ => Still.setRx s _) (fun _ => Still.setRx s _)

theorem receiveChar_kept (b : Byte) (p x y : Bool) (s : State) :
    Kept s (receiveChar b p x y s) := by
  unfold receiveChar
  simp only
  split
  · exact Kept.before (takeWork_kept _)
      (Still.before (linkReact_still _) (deframe_still _ _ s)).kept
  · exact (deframe_still _ _ s).kept

theorem gapEnd_still (s : State) : Still s (gapEnd s) := by
  have h := Still.before (linkReact_still _) (badFrame_still s)
  unfold gapEnd
  split
  · exact h
  · exact h
  · exact h
  · exact Still.before (linkReact_still _) (Still.setRx s _)
  · exact Still.refl s
  · exact Still.refl s

/-! ### The owners of snooped words -/

theorem restartLink_still (tag : Half) (s : State) : Still s (restartLink tag s) := by
  unfold restartLink
  split
  · exact Still.ite (fun _ => Still.refl s) (fun _ => enterPowerOn_still _ _ s)
  · exact enterPowerOn_still _ _ s
  · exact Still.refl s
  · exact Still.refl s
  · exact enterListen_still s

theorem adoptSettings_still (s : State) : Still s (adoptSettings s) := by
  unfold adoptSettings
  exact Still.ite (fun _ => Still.setSettings s _)
    (fun _ => (Still.setSettings s _).trans (Still.setClock _ _))

theorem closeOpen_kept (r : ClosingReason) (s : State) : Kept s (closeOpen r s) :=
  (closeOpen_holds r s).kept (closeOpen_quiet r s).queue

theorem acceptCommit_kept (tag : Half) (s : State) : Kept s (acceptCommit tag s) := by
  unfold acceptCommit
  exact Kept.before (tripTest_kept _) (Kept.before (closeOpen_kept _ _)
    (Still.before (restartLink_still _ _) (Still.before (Still.setLink _ _)
      (Still.before (Still.setRx _ _) (adoptSettings_still s)))).kept)

theorem recordCommit_still (tag : Half) (o : CommitOutcome) (n : Nat) (s : State) :
    Still s (recordCommit tag o n s) := ⟨rfl, rfl, rfl, rfl, rfl⟩

theorem takeCommit_kept (v : Word) (s : State) : Kept s (takeCommit v s) := by
  unfold takeCommit judgeCommit
  refine Kept.before (placeHeld_kept _) (Kept.ite (fun _ => (recordCommit_still _ _ _ s).kept)
    (fun _ => ?_))
  split
  · exact (recordCommit_still _ _ _ s).kept
  · exact (acceptCommit_kept _ s).trans (recordCommit_still _ _ _ _).kept

theorem takePosition_still (s : State) : Still s (takePosition s) := by
  unfold takePosition
  split
  · exact Still.setPosition s _
  · exact raiseFactor_still _ s

theorem snoopTake_kept (off : Nat) (v : Word) (s : State) : Kept s (snoopTake off v s) := by
  unfold snoopTake
  refine Kept.ite (fun _ => (Still.setSettings s _).kept) (fun _ => ?_)
  refine Kept.ite (fun _ => takeCommit_kept v s) (fun _ => Still.kept ?_)
  refine Still.ite (fun _ => Still.ite (fun _ => Still.setReader s _)
    (fun _ => raiseFactor_still _ s)) (fun _ => ?_)
  refine Still.ite (fun _ => Still.ite (fun _ => Still.setEvw s _)
    (fun _ => raiseFactor_still _ s)) (fun _ => ?_)
  refine Still.ite (fun _ => Still.setPosition s _) (fun _ => ?_)
  refine Still.ite (fun _ => takePosition_still s) (fun _ => ?_)
  exact Still.ite (fun _ => Still.setAttn s _) (fun _ => Still.refl s)

theorem snoopedWrite_kept (off : Nat) (l : BitVec 4) (v : Word) (s : State) :
    Kept s (snoopedWrite off l v s) := by
  unfold snoopedWrite
  exact Kept.ite (fun _ => Kept.before (snoopTake_kept _ _ _) (Still.setMem s _).kept)
    (fun _ => Kept.before (raiseFactor_still _ _).kept (Still.setMem s _).kept)

theorem whenOpen_kept {f : State → State} (h : ∀ s, Kept s (f s)) (s : State) :
    Kept s (whenOpen f s) := Kept.ite (fun _ => h s) (fun _ => Kept.refl s)

/-! ### The path and the agent -/

theorem arbitrate_kept (s : State) : Kept s (arbitrate s) := (Still.of_side (arbitrate_side s)).kept

theorem classify_kept (a : Access) (s : State) : Kept s (classify a s) :=
  (Still.of_side (classify_side a s)).kept

theorem resumeAccess_kept (s : State) : Kept s (resumeAccess s) :=
  (Still.of_side (resumeAccess_side s)).kept

theorem beginTask_kept (s : State) : Kept s (beginTask s) := (Still.of_side (beginTask_side s)).kept

theorem requestTask_kept (k : TaskKind) (s : State) : Kept s (requestTask k s) :=
  (requestTask_still k s).kept

theorem finishAccess_kept (a : Access) (s : State) : Kept s (finishAccess a s) := by
  unfold finishAccess
  have h : Still s (dropAccess (freePort (accessMemory a s))) := by
    refine Still.before (Still.setPath _ _) (Still.before (Still.setPath _ _) ?_)
    unfold accessMemory
    split
    · exact Still.setPath s _
    · exact Still.setMem s _
  refine Kept.before ?_ h.kept
  unfold snoopAccess
  split
  · exact Kept.ite (fun _ => snoopTake_kept _ _ _) (fun _ => (raiseFactor_still _ _).kept)
  · exact Kept.refl _

theorem wordToMemory_still (w : AgentWord) (s : State) : Still s (wordToMemory w s) := by
  unfold wordToMemory
  split
  all_goals first | exact Still.refl s | exact Still.setMem s _

theorem wordToPart_still (w : AgentWord) (s : State) : Still s (wordToPart w s) := by
  unfold wordToPart
  split
  · split
    · exact Still.setAgent s _
    · exact Still.refl s
  · exact Still.setEvw s _
  · exact Still.setEvw s _
  · unfold deposit
    split
    · exact Still.before (raiseFactor_still _ _) (Still.setEvw s _)
    · exact Still.refl s
  · exact Still.refl s
  · exact Still.refl s

theorem setWords_still (ws : List AgentWord) (s : State) : Still s (setWords ws s) := by
  unfold setWords
  split
  · exact Still.setAgent s _
  · exact Still.refl s

theorem tripLogDone_still (n : Nat) (s : State) : Still s (tripLogDone n s) := by
  unfold tripLogDone
  split
  · exact Still.ite (fun _ => Still.setTrip s _)
      (fun _ => Still.before (requestTask_still _ _) (Still.setTrip s _))
  · exact Still.refl s

theorem taskReport_kept (t : Task) (s : State) : Kept s (taskReport t s) := by
  unfold taskReport
  split
  · exact Kept.before (takeWork_kept _) (Still.setReader s _).kept
  · exact Kept.refl s
  · exact Kept.refl s
  · exact (tripLogDone_still _ s).kept
  · exact (Still.of_side (boxWriteDone_side s)).kept

theorem clearPass_kept (s : State) : Kept s (clearPass s) :=
  Kept.ite (fun _ => (Still.setPath s _).kept) (fun _ => Kept.refl s)

theorem completeTask_kept (s : State) : Kept s (completeTask s) := by
  unfold completeTask
  split
  · refine Kept.before (beginTask_kept _) (Kept.before (taskReport_kept _ _) ?_)
    exact Kept.before (clearPass_kept _) (Still.setAgent s _).kept
  · exact Kept.refl s

theorem afterWord_kept (w : AgentWord) (s : State) : Kept s (afterWord w s) := by
  unfold afterWord
  split
  · exact (placeHeld_kept s).trans (takeWork_kept _)
  · exact Kept.refl s

theorem taskWordEnd_kept (w : AgentWord) (ws : List AgentWord) (s : State) :
    Kept s (taskWordEnd w ws s) := by
  have h : ∀ x, Kept s (afterWord w (setWords x (wordToPart w (wordToMemory w s)))) := fun x =>
    (Still.before (setWords_still x _)
      (Still.before (wordToPart_still w _) (wordToMemory_still w s))).kept.trans (afterWord_kept w _)
  unfold taskWordEnd
  exact Kept.ite (fun _ => (h _).trans (completeTask_kept _)) (fun _ => h _)

theorem initialDone_kept (s : State) : Kept s (initialDone s) := by
  have h : Kept s (beginTask (s.setAgent { s.agent with initial := .done })) :=
    Kept.before (beginTask_kept _) (Still.setAgent s _).kept
  unfold initialDone
  refine Kept.before (resumeAccess_kept _)
    (Kept.before (Still.of_side (initialBoxMark_side _)).kept ?_)
  exact Kept.ite (fun _ => h.trans (requestTask_kept _ _)) (fun _ => h)

theorem initialWordEnd_kept (off : Nat) (v : Word) (left : List (Nat × Word)) (s : State) :
    Kept s (initialWordEnd off v left s) := by
  have h := (Still.before (Still.setAgent (agentWrite off v s)
    { s.agent with initial := .writing left }) (Still.setMem s _)).kept
  unfold initialWordEnd
  exact Kept.ite (fun _ => h.trans (initialDone_kept _)) (fun _ => h)

theorem agentStep_kept (s : State) : Kept s (agentStep s) := by
  unfold agentStep
  split
  · exact initialWordEnd_kept _ _ _ s
  · split
    · split
      · exact taskWordEnd_kept _ _ s
      · exact completeTask_kept s
      · exact beginTask_kept s
    · exact Kept.refl s
  · exact Kept.refl s

theorem runTask_kept (n : Nat) (s : State) : Kept s (runTask n s) := by
  induction n generalizing s with
  | zero => exact Kept.refl s
  | succ n ih =>
    exact Kept.ite (fun _ => agentStep_kept s) (fun _ => (agentStep_kept s).trans (ih _))

theorem runToDeposit_kept (n : Nat) (s : State) : Kept s (runToDeposit n s) := by
  induction n generalizing s with
  | zero => exact Kept.refl s
  | succ n ih =>
    exact Kept.ite (fun _ => agentStep_kept s) (fun _ => (agentStep_kept s).trans (ih _))

theorem withPort_kept {f : State → State} (h : ∀ s, Kept s (f s)) (s : State) :
    Kept s (withPort f s) :=
  Kept.before (Still.setPath _ _).kept (Kept.before (h _) (Still.setPath s _).kept)

theorem writeAll_still (l : List (Nat × Word)) (s : State) : Still s (writeAll l s) := by
  induction l generalizing s with
  | nil => exact Still.refl s
  | cons p l ih => exact Still.before (ih _) (Still.setMem s _)

theorem startEventTask_kept (s : State) : Kept s (startEventTask s) :=
  Kept.ite (fun _ => Kept.ite (fun _ => requestTask_kept _ s)
    (fun _ => Kept.ite (fun _ => requestTask_kept _ s) (fun _ => Kept.refl s)))
    (fun _ => Kept.refl s)

/-! ### The resets -/

/-- The laws of the books where no offer, no slot and no entry of the queue is in use. -/
theorem books_empty {s : State} (ho : ∀ i, offerAt i s = none) (hs : ∀ i, slotAt i s = none)
    (he : s.uplink.entries = []) : Weak (keyIn s) s ∧ OpenLaw s := by
  have n : ∀ c r q, ¬ keyIn s c r q := by
    rintro c r q ⟨-, e, h, -⟩
    rw [he] at h
    exact absurd h (by simp)
  refine ⟨⟨?_, fun r q h => absurd h (n _ _ _), ?_, fun r q h => absurd h (n _ _ _), ?_, ?_,
    fun _ i => ⟨ho i, hs i⟩⟩, ?_⟩
  · intro i j o p h
    rw [ho i] at h
    exact absurd h (by simp)
  · intro i o q h
    rw [ho i] at h
    exact absurd h (by simp)
  · intro i x h
    rw [hs i] at h
    exact absurd h (by simp)
  · intro i x q h
    rw [hs i] at h
    exact absurd h (by simp)
  · intro _ i o h
    rw [ho i] at h
    exact absurd h (by simp)

theorem getD_replicate_none {α : Type} (n i : Nat) :
    (List.replicate n (none : Option α)).getD i none = none := by
  rw [List.getD_eq_getElem?_getD, List.getElem?_replicate]
  split <;> rfl

theorem clearBlocks_books (s : State) :
    Weak (keyIn (clearBlocks s)) (clearBlocks s) ∧ OpenLaw (clearBlocks s) :=
  books_empty (fun i => getD_replicate_none _ i) (fun i => getD_replicate_none _ i) rfl

theorem fullReset_books (s : State) :
    Weak (keyIn (fullReset s)) (fullReset s) ∧ OpenLaw (fullReset s) :=
  books_empty (fun i => getD_replicate_none _ i) (fun i => getD_replicate_none _ i) rfl

theorem fullReset_kept (s : State) : Kept s (fullReset s) :=
  ⟨(fullReset_keeps s).queue, fun _ _ => (fullReset_books s).1, fun _ _ _ => (fullReset_books s).2⟩

theorem assertReset_kept (s : State) : Kept s (assertReset s) :=
  ⟨(assertReset_keeps s).queue, fun _ _ => (clearBlocks_books _).1,
   fun _ _ _ => (clearBlocks_books _).2⟩

/-- A change to normal running. -/
theorem setRunning_kept (s : State) : Kept s (s.setPhase .running) := by
  refine ⟨id, fun _ w => ?_, fun _ _ o => o⟩
  exact ⟨w.job, w.bid, w.named, w.text, w.used, w.refs, fun h => absurd rfl h⟩

theorem sampleLines_kept (s : State) : Kept s (sampleLines s) := by
  unfold sampleLines
  refine Kept.before (setRunning_kept _) ?_
  refine Kept.ite (fun _ => Kept.before (setEmerg_kept ?_) (Still.setPath s _).kept)
    (fun _ => (Still.setPath s _).kept)
  exact id

theorem startSupervisor_still (s : State) : Still s (startSupervisor s) :=
  Still.ite (fun _ => Still.before (reportLink_still _ _ _ _ _) (Still.setLink s _))
    (fun _ => Still.before (reportLink_still _ _ _ _ _)
      (Still.before (Still.setLink _ _) (Still.setSup s _)))

theorem resumeCall_kept (s : State) : Kept s (resumeCall s) := by
  unfold resumeCall
  split
  · refine Kept.before (setEmerg_kept ?_) (Kept.before (offerAlarm_kept _ _) (setEmerg_kept ?_))
    · exact id
    · exact id
  · refine setEmerg_kept ?_
    exact id
  · exact trackNow_kept s
  · exact Kept.refl s
  · exact Kept.refl s

theorem checkReady_kept (s : State) : Kept s (checkReady s) :=
  Kept.ite (fun _ => (rdyUp_still s).kept) (fun _ => Kept.refl s)

theorem releaseReset_kept (s : State) : Kept s (releaseReset s) := by
  have h : ∀ u, Still u (restartHoldoff (latch u)) := fun _ => ⟨rfl, rfl, rfl, rfl, rfl⟩
  have k : ∀ u, Still u (beginInitial (presentConditions u)) := fun _ => ⟨rfl, rfl, rfl, rfl, rfl⟩
  unfold releaseReset
  exact Kept.before (arbitrate_kept _) (Kept.before (placeHeld_kept _)
    (Kept.before (resumeAccess_kept _) (Kept.before (k _).kept (Kept.before (tripTest_kept _)
    (Kept.before (resumeCall_kept _) (Kept.before (checkReady_kept _) (Kept.before (h _).kept
    (Kept.before (startSupervisor_still _).kept (sampleLines_kept s)))))))))

/-! ### The second tick -/

/-- Every offer entry changes in ways that touch neither its state nor its bid. -/
theorem mapOffers_holds {g : Offer → Offer} (h1 : ∀ o, (g o).state = o.state)
    (h2 : ∀ o, (g o).bidSeq = o.bidSeq) (s : State) :
    Holds s (s.setOffers { s.offers with entries := s.offers.entries.map (fun e => e.map g) }) := by
  have a : ∀ i, offerAt i (s.setOffers { s.offers with
      entries := s.offers.entries.map (fun e => e.map g) }) = (offerAt i s).map g := by
    intro i
    unfold offerAt
    simp only [State.setOffers_offers, List.getD_eq_getElem?_getD, List.getElem?_map]
    cases s.offers.entries[i]? with
    | none => rfl
    | some x => rfl
  have job : ∀ o, (g o).job = o.job := fun o => by unfold Offer.job; rw [h1]
  refine ⟨fun P w => ?_, fun P w o => ?_, fun _ _ _ => Iff.rfl⟩
  · refine ⟨?_, ?_, ?_, w.text, w.used, w.refs, ?_⟩
    · intro i j x y
      rw [a i, a j]
      intro hx hy jx jy
      obtain ⟨o, ho, rfl⟩ := Option.map_eq_some_iff.mp hx
      obtain ⟨p, hp, rfl⟩ := Option.map_eq_some_iff.mp hy
      rw [job] at jx jy
      exact w.job i j o p ho hp jx jy
    · intro r q h
      obtain ⟨i, o, k1, k2, k3⟩ := w.bid r q h
      exact ⟨i, g o, k1, by rw [a, k2]; rfl, by rw [h2]; exact k3⟩
    · intro i x q
      rw [a]
      intro hx hq
      obtain ⟨o, ho, rfl⟩ := Option.map_eq_some_iff.mp hx
      rw [h2] at hq
      rw [h1]
      exact w.named i o q ho hq
    · intro h i
      obtain ⟨k1, k2⟩ := w.rest h i
      exact ⟨by rw [a, k1]; rfl, k2⟩
  · intro h i x
    rw [a]
    intro hx
    obtain ⟨p, hp, rfl⟩ := Option.map_eq_some_iff.mp hx
    rw [h1]
    exact o h i p hp

/-- Counting the timers leaves the offers' states and bids as they are. -/
theorem countTimers_holds (s : State) : Holds s (countTimers s) := by
  have t : ∀ u, Still u (tickLink (tickEmerg (tickSup u))) := fun _ => ⟨rfl, rfl, rfl, rfl, rfl⟩
  refine Holds.before (t _).holds (mapOffers_holds ?_ ?_ _)
  · intro o; rfl
  · intro o; rfl

theorem openTick_holds (s : State) : Holds s (openTick s) := by
  unfold openTick
  split
  · exact (Still.refl s).holds
  · exact Holds.before (countTimers_holds _) (Still.setBook s _).holds

theorem openTick_kept (s : State) : Kept s (openTick s) :=
  Holds.kept (openTick_holds s) (openTick_quiet s).queue

theorem atTick_kept {timer : State → Option Nat} {f : State → State} {s : State}
    (h : timer (openTick s) = some 0 → Kept (openTick s) (f (openTick s))) :
    Kept s (atTick timer f s) :=
  Kept.ite (fun k => (openTick_kept s).trans (h k)) (fun _ => Kept.refl s)

/-- Sparing timers leaves the books alone. -/
theorem spareSup_still (s t : State) : Still t (spareSup s t) := ⟨rfl, rfl, rfl, rfl, rfl⟩

theorem spareCall_still (s t : State) : Still t (spareCall s t) := ⟨rfl, rfl, rfl, rfl, rfl⟩

theorem spareRaise_still (s t : State) : Still t (spareRaise s t) :=
  Still.ite (fun _ => ⟨rfl, rfl, rfl, rfl, rfl⟩) (fun _ => ⟨rfl, rfl, rfl, rfl, rfl⟩)

theorem spareRelease_still (s t : State) : Still t (spareRelease s t) := ⟨rfl, rfl, rfl, rfl, rfl⟩

theorem lateTick_kept {taken : State → Bool} {keep : State → State → State}
    (k : ∀ s t, Still t (keep s t)) (s : State) : Kept s (lateTick taken keep s) :=
  Kept.ite (fun _ => (openTick_kept s).trans (k s _).kept) (fun _ => Kept.refl s)

theorem atTickOr_kept {timer : State → Option Nat} {f : State → State} {taken : State → Bool}
    {keep : State → State → State} {s : State}
    (h : timer (openTick s) = some 0 → Kept (openTick s) (f (openTick s)))
    (k : ∀ s t, Still t (keep s t)) : Kept s (atTickOr timer f taken keep s) :=
  Kept.ite (fun e => (openTick_kept s).trans (h e)) (fun _ => lateTick_kept k s)

theorem countTick_kept (s : State) : Kept s (countTick s) := by
  refine Holds.kept ?_ (countTick_keeps s).queue
  have h : Still s (tickFix (tickClock s)) :=
    Still.before (Still.ite (fun _ => Still.setPosition _ _) (fun _ => Still.refl _))
      ((Still.setClock s _).trans (Still.setSecs _ _))
  exact Holds.before (Still.setBook _ _).holds (Holds.before (openTick_holds _) h.holds)

theorem whenDue_kept {timer : State → Option Nat} {f : State → State} {s : State}
    (h : timer s = some 0 → Kept s (f s)) : Kept s (whenDue timer f s) :=
  Kept.ite h (fun _ => Kept.refl s)

theorem readyEnd_kept (s : State) : Kept s (readyEnd s) := faultEnd_kept _ s

theorem stuckBusyEnd_kept (s : State) : Kept s (stuckBusyEnd s) := faultEnd_kept _ s

theorem endSup_kept (s : State) : Kept s (endSup s) := by
  unfold endSup
  exact Kept.before (whenDue_kept (fun _ => powerOffEnd_kept _))
    (Kept.before (whenDue_kept (fun _ => readyEnd_kept _))
      (Kept.before (whenDue_kept (fun _ => stuckBusyEnd_kept _))
        (whenDue_kept (fun _ => healthyEnd_kept s))))

theorem endWindows_kept (n : Nat) (s : State) : Kept s (endWindows n s) := by
  induction n with
  | zero => exact Kept.refl s
  | succ n ih => exact ih.trans (whenDue_kept (fun _ => windowEnd_kept n _))

theorem dwellEnd_still (s : State) : Still s (dwellEnd s) :=
  Still.before (congestFactor_still _) (Still.setLink s _)

theorem endDwell_kept (s : State) : Kept s (endDwell s) := by
  unfold endDwell
  split
  · exact Kept.ite (fun _ => (dwellEnd_still s).kept) (fun _ => Kept.refl s)
  · exact Kept.refl s

theorem endEmerg_kept (s : State) : Kept s (endEmerg s) := by
  unfold endEmerg
  refine Kept.before (whenDue_kept (fun _ => graceEnd_kept _))
    (Kept.before (whenDue_kept (fun _ => trackNow_kept _))
      (Kept.before (whenDue_kept (fun h => nextRound_kept ?_))
        (whenDue_kept (fun h => repeatEnd_kept ?_))))
  · intro k
    unfold cooldownLeft at h
    rw [k, if_neg (by decide)] at h
    exact absurd h (by simp)
  · intro k
    unfold repeatLeft at h
    rw [k, if_neg (by decide)] at h
    exact absurd h (by simp)

theorem secondTick_kept (s : State) : Kept s (secondTick s) := by
  unfold secondTick endTimers endAward
  refine Kept.before (placeHeld_kept _) (Kept.before (endEmerg_kept _)
    (Kept.before (endDwell_kept _) (Kept.before (whenDue_kept (fun _ => holdoffEnd_kept _))
    (Kept.before (whenDue_kept (fun _ => awardWaitEnd_kept _)) (Kept.before (endWindows_kept _ _)
    (Kept.before (endSup_kept _) (Kept.before (countTick_kept _) (meterTick_still s).kept)))))))

/-! ### Carriers and slots -/

theorem cdRise_still (s : State) : Still s (cdRise s) := by
  unfold cdRise
  exact Still.ite (fun _ => ⟨rfl, rfl, rfl, rfl, rfl⟩) (fun _ => Still.setPins s _)

theorem cdFall_still (s : State) : Still s (cdFall s) := by
  have h : Still s (stopStuckBusy (setCd false s)) := ⟨rfl, rfl, rfl, rfl, rfl⟩
  exact Still.ite (fun _ => Still.ite (fun _ => Still.before (startKeyup_still _) h)
    (fun _ => Still.before (Still.setLink _ _) h)) (fun _ => h)

theorem slotEnd_still (s : State) : Still s (slotEnd s) :=
  Still.ite (fun _ => Still.before (startKeyup_still _) (Still.setLink s _))
    (fun _ => Still.setLink s _)

theorem rdyRise_still (s : State) : Still s (rdyRise s) :=
  Still.ite (fun _ => Still.before (rdyUp_still _) (Still.setPins s _)) (fun _ => Still.setPins s _)

theorem rdyFall_kept (s : State) : Kept s (rdyFall s) :=
  Kept.ite (fun _ => Kept.before (faultEnd_kept _ _) (Still.setPins s _).kept)
    (fun _ => (Still.setPins s _).kept)

/-! ### The switch -/

theorem eswFall_kept (s : State) : Kept s (eswFall s) := by
  unfold eswFall
  refine Kept.ite (fun _ => setEmerg_kept ?_) (fun _ => Kept.refl s)
  exact id

theorem eswRise_kept (s : State) : Kept s (eswRise s) := by
  refine setEmerg_kept ?_
  exact id

end Sys2Proof.Machine
end

