-- ==== Sys2Proof/Laws/Fare.lean ====
section
/-! SUPPORT. The live fare, the active copy and the black box: which operations leave them alone, and what the others do to them. -/

namespace Sys2Proof.Machine

/-- The meter's state, the live fare, the active copy and the black box are those of s. -/
structure Steady (s t : State) : Prop where
  state : t.meter.state = s.meter.state
  fare : t.meter.fare = s.meter.fare
  active : t.meter.active = s.meter.active
  box : t.emerg.box = s.emerg.box

/-- The fare does not fall and a captured box stays. -/
structure Firm (s t : State) : Prop where
  fare : FareLaw s t
  box : ∀ b, s.emerg.box = some b → t.emerg.box = some b

/-- The fare does not fall and a captured box stays or is emptied. -/
structure Fine (s t : State) : Prop where
  fare : FareLaw s t
  box : BoxLaw s t

/-- Fare and active copy of a hiring that goes on are those of s, and a captured box stays. -/
structure Hard (s t : State) : Prop where
  even : s.meter.state ≠ .vacant → t.meter.state ≠ .vacant →
    t.meter.fare = s.meter.fare ∧ t.meter.active = s.meter.active
  box : ∀ b, s.emerg.box = some b → t.emerg.box = some b

/-- Fare and active copy of a hiring that goes on are those of s, and a captured box stays or is emptied. -/
structure Plain (s t : State) : Prop where
  even : s.meter.state ≠ .vacant → t.meter.state ≠ .vacant →
    t.meter.fare = s.meter.fare ∧ t.meter.active = s.meter.active
  box : BoxLaw s t

namespace Steady

theorem refl (s : State) : Steady s s := ⟨rfl, rfl, rfl, rfl⟩

theorem before {s t u : State} (k : Steady t u) (h : Steady s t) : Steady s u :=
  ⟨k.state.trans h.state, k.fare.trans h.fare, k.active.trans h.active, k.box.trans h.box⟩

theorem ite {p : Prop} [Decidable p] {s t u : State} (h : p → Steady s t) (k : ¬p → Steady s u) :
    Steady s (if p then t else u) := by
  by_cases c : p
  · rw [if_pos c]; exact h c
  · rw [if_neg c]; exact k c

theorem of_quiet {s t : State} (h : Quiet s t) : Steady s t :=
  ⟨by rw [h.meter], by rw [h.meter], by rw [h.meter], h.box⟩

theorem of_side {s t : State} (h : Side s t) : Steady s t :=
  ⟨by rw [h.meter], by rw [h.meter], by rw [h.meter], h.box⟩

theorem hard {s t : State} (h : Steady s t) : Hard s t :=
  ⟨fun _ _ => ⟨h.fare, h.active⟩, fun b k => by rw [h.box]; exact k⟩

theorem thenPlain {s t u : State} (h : Steady s t) (k : Plain t u) : Plain s u := by
  refine ⟨fun a b => ?_, fun b e => k.box b (by rw [h.box]; exact e)⟩
  have := k.even (by rw [h.state]; exact a) b
  rw [h.fare, h.active] at this
  exact this

end Steady

theorem Hard.plain {s t : State} (h : Hard s t) : Plain s t :=
  ⟨h.even, fun b k => Or.inl (h.box b k)⟩

theorem Hard.firm {s t : State} (h : Hard s t) : Firm s t :=
  ⟨fun a b => ⟨Nat.le_of_eq (h.even a b).1.symm, Or.inl (h.even a b).2⟩, h.box⟩

theorem Plain.fine {s t : State} (h : Plain s t) : Fine s t :=
  ⟨fun a b => ⟨Nat.le_of_eq (h.even a b).1.symm, Or.inl (h.even a b).2⟩, h.box⟩

theorem Firm.fine {s t : State} (h : Firm s t) : Fine s t := ⟨h.fare, fun b k => Or.inl (h.box b k)⟩

theorem Steady.firm {s t : State} (h : Steady s t) : Firm s t := h.hard.firm

theorem Steady.plain {s t : State} (h : Steady s t) : Plain s t := h.hard.plain

/-- A change that leaves fare, copy and box alone after one that may not. -/
theorem Plain.thenSteady {s t u : State} (h : Plain s t) (k : Steady t u) : Plain s u := by
  refine ⟨fun a b => ?_, fun b e => by rw [k.box]; exact h.box b e⟩
  rw [k.fare, k.active]
  exact h.even a (by rw [← k.state]; exact b)

theorem Hard.thenSteady {s t u : State} (h : Hard s t) (k : Steady t u) : Hard s u :=
  ⟨(h.plain.thenSteady k).even, fun b e => by rw [k.box]; exact h.box b e⟩

theorem Firm.thenSteady {s t u : State} (h : Firm s t) (k : Steady t u) : Firm s u := by
  refine ⟨fun a b => ?_, fun b e => by rw [k.box]; exact h.box b e⟩
  rw [k.fare, k.active]
  exact h.fare a (by rw [← k.state]; exact b)

/-- A change of other items first. -/
theorem Firm.from {s t u : State} (h : Firm t u) (k : Steady s t)
    (c : t.meter.change = s.meter.change) : Firm s u := by
  refine ⟨fun a b => ?_, fun b e => h.box b (by rw [k.box]; exact e)⟩
  have := h.fare (by rw [k.state]; exact a) b
  rw [k.fare, k.active, k.state, c] at this
  exact this

/-! ### Pulses and the tick -/

theorem stepFare_spec (m : Meter) (n : Nat) :
    (stepFare m n).fare = min (m.fare + n) 9999999 ∧ (stepFare m n).state = m.state ∧
      (stepFare m n).active = m.active ∧ (stepFare m n).change = m.change := by
  have e : Config.fareCap = 9999999 := rfl
  unfold stepFare
  split
  · rename_i h
    rw [e] at h
    refine ⟨?_, rfl, rfl, rfl⟩
    show Config.fareCap = _
    omega
  · rename_i h
    rw [e] at h
    refine ⟨?_, rfl, rfl, rfl⟩
    show m.fare + n = _
    omega

theorem applyChange_spec (s : State) :
    (applyChange s).meter.fare = s.meter.fare ∧ (applyChange s).meter.state = s.meter.state ∧
      (applyChange s).emerg.box = s.emerg.box ∧
      ((applyChange s).meter.active = s.meter.active ∨ s.meter.change ≠ none) := by
  unfold applyChange
  split
  · rename_i c a hc ha
    split
    · rename_i t ht
      have q := produce_quiet 0 (.tariffApplied c.kind c.slot t.version a.slot a.tariff.version s.meter.fare)
        (updateTrip (addSegment c.slot t.version) (s.setMeter { s.meter with
          active := some { slot := c.slot, tariff := t }, change := none }))
      refine ⟨by rw [q.meter]; rfl, by rw [q.meter]; rfl, by rw [q.box]; rfl, Or.inr ?_⟩
      rw [hc]
      simp
    · exact ⟨rfl, rfl, rfl, Or.inl rfl⟩
  · exact ⟨rfl, rfl, rfl, Or.inl rfl⟩

/-- An increment in HIRED. -/
theorem addIncrement_firm {a : ActiveCopy} (n : Nat) {s : State} (h : s.meter.fare ≤ 9999999)
    (hs : s.meter.state = .hired) (ha : s.meter.active = some a) : Firm s (addIncrement a n s) := by
  unfold addIncrement
  split
  · unfold takeStep
    obtain ⟨u, hu⟩ : ∃ u, u = s.setMeter { s.meter with
      acc := less (s.meter.acc + n) Config.threshold } := ⟨_, rfl⟩
    rw [← hu]
    have uf : u.meter.fare = s.meter.fare ∧ u.meter.state = s.meter.state ∧
        u.meter.active = s.meter.active ∧ u.meter.change = s.meter.change ∧
        u.emerg.box = s.emerg.box := by rw [hu]; exact ⟨rfl, rfl, rfl, rfl, rfl⟩
    obtain ⟨f1, f2, f3, f4, f5⟩ := uf
    obtain ⟨g1, g2, g3, g4⟩ := stepFare_spec u.meter a.tariff.stepAmount
    obtain ⟨k1, k2, k3, k4⟩ := applyChange_spec
      (updateTrip (fun t => { t with segments := countStep t.segments })
        (u.setMeter (stepFare u.meter a.tariff.stepAmount)))
    have m : (updateTrip (fun t => { t with segments := countStep t.segments })
        (u.setMeter (stepFare u.meter a.tariff.stepAmount))).meter =
        stepFare u.meter a.tariff.stepAmount := rfl
    rw [m] at k1 k2 k4
    refine ⟨fun _ _ => ⟨?_, ?_⟩, fun b e => ?_⟩
    · rw [k1, g1, f1]
      omega
    · rcases k4 with k4 | k4
      · exact Or.inl (by rw [k4, g3, f3])
      · refine Or.inr ⟨hs, by rw [← f4, ← g4]; exact k4, fun b hb => ?_⟩
        rw [ha] at hb
        cases hb
        rw [k1, g1, f1]
    · rw [k3]
      exact f5.trans e
  · exact Steady.firm ⟨rfl, rfl, rfl, rfl⟩

theorem odoPulse_firm {s : State} (h : s.meter.fare ≤ 9999999) : Firm s (odoPulse s) := by
  unfold odoPulse
  split
  · have k : Steady s (countPulse s) := ⟨rfl, rfl, rfl, rfl⟩
    refine Firm.from ?_ k rfl
    unfold chargePulse
    split
    · rename_i a hs ha
      refine Firm.from (t := (countPulse s).setMeter { (countPulse s).meter with
        hiredPulses := satAdd Config.max32 (countPulse s).meter.hiredPulses 1 }) ?_
        ⟨rfl, rfl, rfl, rfl⟩ rfl
      exact addIncrement_firm _ (by exact h) hs ha
    · exact (Steady.refl _).firm
  · unfold rejectPulse
    refine (Steady.before (Steady.of_quiet (raiseFactor_quiet _ _)) ?_).firm
    exact ⟨rfl, rfl, rfl, rfl⟩

theorem meterTick_firm {s : State} (h : s.meter.fare ≤ 9999999) : Firm s (meterTick s) := by
  have g : ∀ t : State, Steady t (t.setMeter (newSecond (countSeconds t.meter))) := by
    intro t
    cases hs : t.meter.state <;> refine ⟨?_, ?_, ?_, rfl⟩ <;>
      simp [newSecond, countSeconds, hs]
  unfold meterTick
  refine Firm.thenSteady ?_ (g _)
  unfold chargeTime
  split
  · rename_i a hs ha
    split
    · exact addIncrement_firm _ h hs ha
    · exact (Steady.refl s).firm
  · exact (Steady.refl s).firm

theorem secondTick_firm {s : State} (h : s.meter.fare ≤ 9999999) : Firm s (secondTick s) := by
  refine ((meterTick_firm h).thenSteady ?_).thenSteady (Steady.of_quiet (secondTick_quiet s))
  have k := countTick_same (meterTick s)
  exact ⟨by rw [k.1], by rw [k.1], by rw [k.1], k.2.2.2.2.1⟩

/-! ### Requests -/

theorem refuse_steady (c : Byte) (r : Reason) (tag : Half) (s : State) :
    Steady s (refuse c r tag s) := Steady.of_quiet (refuse_quiet c r tag s)

theorem placeHeld_steady (s : State) : Steady s (placeHeld s) := Steady.of_quiet (placeHeld_quiet s)

theorem reportMeter_steady (c : Byte) (b : MeterState) (tag : Half) (x y z : Nat) (s : State) :
    Steady s (reportMeter c b tag x y z s) := Steady.of_quiet (reportMeter_quiet _ _ _ _ _ _ _)

/-- From a VACANT meter the fare's law asks nothing; the box is kept. -/
theorem hard_of_vacant {s t : State} (h : s.meter.state = .vacant)
    (b : t.emerg.box = s.emerg.box) : Hard s t :=
  ⟨fun k => absurd h k, fun x e => by rw [b]; exact e⟩

theorem hard_to_vacant {s t : State} (h : t.meter.state = .vacant)
    (b : t.emerg.box = s.emerg.box) : Hard s t :=
  ⟨fun _ k => absurd h k, fun x e => by rw [b]; exact e⟩

theorem hire_box (a : ActiveCopy) (tag : Half) (s : State) : (hire a tag s).emerg.box = s.emerg.box := by
  unfold hire
  simp only
  rw [(tripTest_quiet _).box, (dutyAfter_quiet _ _ _ _).box, (reportMeter_quiet _ _ _ _ _ _ _).box]
  exact (settleJob_quiet s).box

theorem reqHire_hard (tag : Half) (slot : Byte) (s : State) : Hard s (reqHire tag slot s) := by
  unfold reqHire
  split
  · exact (refuse_steady _ _ _ s).hard
  · split
    · exact (refuse_steady _ _ _ s).hard
    · rename_i hv
      split
      · exact (refuse_steady _ _ _ s).hard
      · refine hard_of_vacant (by simpa using hv) ?_
        rw [(placeHeld_quiet _).box, hire_box]

/-- A meter that goes from HIRED to HOLD or back. -/
theorem setRunning_hard {s : State} {x : MeterState} : Hard s (s.setMeter { s.meter with state := x }) :=
  ⟨fun _ _ => ⟨rfl, rfl⟩, fun _ e => e⟩

theorem reqStop_hard (tag : Half) (s : State) : Hard s (reqStop tag s) := by
  unfold reqStop
  split
  · exact setRunning_hard.thenSteady (reportMeter_steady _ _ _ _ _ _ _)
  · exact (refuse_steady _ _ _ s).hard

theorem reqResume_hard (tag : Half) (s : State) : Hard s (reqResume tag s) := by
  unfold reqResume
  split
  · exact setRunning_hard.thenSteady (reportMeter_steady _ _ _ _ _ _ _)
  · exact (refuse_steady _ _ _ s).hard

theorem reqExtra_hard (tag a : Half) (c : Byte) (s : State) : Hard s (reqExtra tag a c s) := by
  unfold reqExtra
  split
  · exact (refuse_steady _ _ _ s).hard
  · split
    · exact (refuse_steady _ _ _ s).hard
    · refine (Steady.before (reportMeter_steady _ _ _ _ _ _ _) ?_).hard
      exact ⟨rfl, rfl, rfl, rfl⟩

theorem reqSelect_hard (tag : Half) (slot : Byte) (s : State) : Hard s (reqSelect tag slot s) := by
  unfold reqSelect
  split
  · exact (refuse_steady _ _ _ s).hard
  · split
    · exact (refuse_steady _ _ _ s).hard
    · split
      · exact (refuse_steady _ _ _ s).hard
      · refine (Steady.before (reportMeter_steady _ _ _ _ _ _ _) ?_).hard
        exact ⟨rfl, rfl, rfl, rfl⟩

theorem closeTrip_box (tag : Half) (s : State) : (closeTrip tag s).emerg.box = s.emerg.box := by
  unfold closeTrip
  split
  · simp only [addTripReport, countHeld, State.setBook_emerg, State.setTrip_emerg]
    unfold requestTripLog
    split
    · exact (requestTask_side _ _).box
    · rfl
  · rfl

theorem reqClear_hard (tag : Half) (s : State) : Hard s (reqClear tag s) := by
  unfold reqClear
  split
  · refine Hard.thenSteady ?_ (placeHeld_steady _)
    unfold clearHiring
    refine Hard.thenSteady ?_ (Steady.before (Steady.of_quiet (tripTest_quiet _))
      (Steady.before (Steady.of_quiet (dutyAfter_quiet _ _ _ _)) (reportMeter_steady _ _ _ _ _ _ _)))
    exact hard_to_vacant rfl (closeTrip_box tag s)
  · exact (refuse_steady _ _ _ s).hard

theorem reqShiftClose_steady (tag : Half) (s : State) : Steady s (reqShiftClose tag s) := by
  unfold reqShiftClose
  exact Steady.ite (fun _ => Steady.before (placeHeld_steady _) ⟨rfl, rfl, rfl, rfl⟩)
    (fun _ => refuse_steady _ _ _ s)

theorem requestBoxWrite_side (s : State) : Side s (requestBoxWrite s) := by
  unfold requestBoxWrite
  exact Side.ite (fun _ => Side.ite (fun _ => Side.setMark s _)
    (fun _ => Side.before (requestTask_side _ _) (Side.setMark s _))) (fun _ => Side.setMark s _)

theorem captureBox_hard (x : RaiseSource) (s : State) : Hard s (captureBox x s) := by
  unfold captureBox
  split
  · exact (Steady.refl s).hard
  · rename_i h
    have k := requestBoxWrite_side (s.setEmerg { s.emerg with box := some (captureNow x s) })
    refine ⟨fun _ _ => ⟨by rw [k.meter]; rfl, by rw [k.meter]; rfl⟩,
      fun b e => ?_⟩
    rw [h] at e
    exact absurd e (by simp)

theorem raiseTaken_steady (x : RaiseSource) (tag : Half) (s : State) :
    Steady s (raiseTaken x tag s) := by
  have h : Steady s (markTripEmergency (raiseFactor .emergency s)) :=
    Steady.before (t := raiseFactor .emergency s) ⟨rfl, rfl, rfl, rfl⟩
      (Steady.of_quiet (raiseFactor_quiet .emergency s))
  unfold raiseTaken
  refine Steady.ite (fun _ => ?_)
    (fun _ => Steady.before (Steady.of_quiet (setEmReport_quiet _ _ _)) h)
  refine Steady.before (Steady.of_quiet ((tripTest_quiet _).trans (placeRaised_quiet s _)))
    (Steady.before (Steady.of_quiet (setEmReport_quiet _ _ _)) ?_)
  refine Steady.before (Steady.of_quiet (Quiet.setEmerg ?_))
    (Steady.before (Steady.of_quiet (offerAlarm_quiet _ _))
      (Steady.before (Steady.of_quiet (overrideRadio_quiet _))
        (Steady.before (Steady.of_quiet (closeOpen_quiet _ _)) h)))
  rfl

theorem raise_hard (x : RaiseSource) (tag : Half) (s : State) : Hard s (raise x tag s) := by
  unfold raise
  split
  · refine (captureBox_hard x s).thenSteady (Steady.before (raiseTaken_steady _ _ _) ?_)
    exact ⟨rfl, rfl, rfl, rfl⟩
  · refine (Steady.before (raiseTaken_steady _ _ _) ?_).hard
    exact ⟨rfl, rfl, rfl, rfl⟩
  · exact Steady.hard ⟨rfl, rfl, rfl, rfl⟩

theorem reqBoxClear_plain (tag : Half) (s : State) : Plain s (reqBoxClear tag s) := by
  unfold reqBoxClear
  split
  · refine Plain.thenSteady ?_ (placeHeld_steady _)
    unfold clearBox
    refine Plain.thenSteady ?_ (Steady.of_quiet (setEmReport_quiet _ _ _))
    have k := requestBoxWrite_side (s.setEmerg { s.emerg with box := none })
    refine ⟨fun _ _ => ⟨by rw [k.meter]; rfl, by rw [k.meter]; rfl⟩,
      fun b e => Or.inr ?_⟩
    rw [k.box]
    rfl
  · exact (refuse_steady _ _ _ s).plain

theorem giveRequest_plain (r : RequestRecord) (s : State) : Plain s (giveRequest r s) := by
  unfold giveRequest
  split
  · exact (Steady.of_quiet (reqAccept_quiet _ _ s)).plain
  · exact (Steady.of_quiet (reqDecline_quiet _ _ s)).plain
  · exact (Steady.of_quiet (reqDuty_quiet _ _ s)).plain
  · exact (Steady.of_quiet (reqSendText_quiet _ _ _ s)).plain
  · exact (reqHire_hard _ _ s).plain
  · exact (reqStop_hard _ s).plain
  · exact (reqResume_hard _ s).plain
  · exact (reqExtra_hard _ _ _ s).plain
  · exact (reqClear_hard _ s).plain
  · exact (reqSelect_hard _ _ s).plain
  · exact (reqShiftClose_steady _ s).plain
  · exact (raise_hard _ _ s).plain
  · exact (Steady.of_quiet (reqCancel_quiet _ s)).plain
  · exact reqBoxClear_plain _ s
  · exact (Steady.of_quiet (reqRestart_quiet _ s)).plain

theorem takeRequest_plain (b : List Byte) (s : State) : Plain s (takeRequest b s) := by
  have h : Plain s (checkRequest (requestOf b) s) := by
    unfold checkRequest
    split
    · exact (refuse_steady _ _ _ s).plain
    · split
      · exact (refuse_steady _ _ _ s).plain
      · exact giveRequest_plain _ s
  refine (h.thenSteady ?_).thenSteady (placeHeld_steady _)
  exact Steady.before (Steady.of_side (requestTask_side _ _)) ⟨rfl, rfl, rfl, rfl⟩

theorem requestTask_reader (k : TaskKind) (s : State) : (requestTask k s).reader = s.reader := by
  unfold requestTask beginTask
  split
  · rfl
  · split
    · split
      · split <;> rfl
      · rfl
    · rfl

theorem takeRequest_kept_none (b : List Byte) (s : State) :
    (takeRequest b s).reader.kept = none := by
  unfold takeRequest advanceConsumer
  rw [(placeHeld_quiet _).reader, requestTask_reader]
  rfl

/-! ### Frames and what waits -/

theorem takeTariff_steady (f : DownFrame) (s : State) :
    Steady s (takeTariff f s) ∧ (takeTariff f s).reader = s.reader := by
  have h : Steady s (ownTariff f s) ∧ (ownTariff f s).reader = s.reader := by
    unfold ownTariff
    split
    · refine ⟨Steady.before (Steady.of_quiet (produce_quiet _ _ _)) ⟨rfl, rfl, rfl, rfl⟩, ?_⟩
      rw [(produce_quiet _ _ _).reader]
      rfl
    · exact ⟨Steady.refl s, rfl⟩
  unfold takeTariff handOver
  split
  · split
    · split
      · rename_i r hr
        have q := (offerAck_quiet DownClass.tariff.code f.seq r s).trans
          (freeBuffer_quiet DownClass.tariff.code f _)
        exact ⟨Steady.of_quiet q, q.reader⟩
      · have q := ((offerAck_quiet DownClass.tariff.code f.seq (tariffResult f) (ownTariff f s)).trans
          (dedupeAdd_quiet f.seq (tariffResult f) _)).trans
            (freeBuffer_quiet DownClass.tariff.code f _)
        exact ⟨Steady.before (Steady.of_quiet q) h.1, q.reader.trans h.2⟩
    · have q := freeBuffer_quiet DownClass.tariff.code f (ownTariff f s)
      exact ⟨Steady.before (Steady.of_quiet q) h.1, q.reader.trans h.2⟩
  · have q := (countUnknown_quiet s).trans (freeBuffer_quiet DownClass.tariff.code f _)
    exact ⟨Steady.of_quiet q, q.reader⟩

theorem takeFrame_steady (c : Byte) (f : DownFrame) (s : State) :
    Steady s (takeFrame c f s) ∧ (takeFrame c f s).reader = s.reader := by
  have go : ∀ t, Quiet s t → Steady s t ∧ t.reader = s.reader := fun t q =>
    ⟨Steady.of_quiet q, q.reader⟩
  unfold takeFrame
  split
  · exact go _ (takeOffer_quiet f s)
  · exact go _ (takeWithdraw_quiet f s)
  · exact go _ (takeAward_quiet f s)
  · exact go _ (takeReject_quiet f s)
  · exact go _ (takeText_quiet f s)
  · exact takeTariff_steady f s
  · exact go _ (takeAlarmAck_quiet f s)
  · exact go _ (takeAlarmEnd_quiet f s)
  · exact go _ (takeAck_quiet f s)
  · exact go _ (takePoll_quiet f s)
  · exact go _ (takeChannel_quiet f s)
  · exact go _ (freeBuffer_quiet c f s)

/-- Waiting work with no request kept is frames only. -/
theorem takeNext_steady {s : State} (h : s.reader.kept = none) :
    Steady s (takeNext s) ∧ (takeNext s).reader = s.reader := by
  unfold takeNext
  split
  · rw [h]
    split
    · rename_i k _; exact absurd k (by simp)
    · rename_i k _; exact absurd k (by simp)
    · exact takeFrame_steady _ _ s
    · exact ⟨Steady.refl s, rfl⟩
  · exact ⟨Steady.refl s, rfl⟩

theorem takeOneWork_steady {s : State} (h : s.reader.kept = none) :
    Steady s (takeOneWork s) ∧ (takeOneWork s).reader = s.reader := by
  unfold takeOneWork
  have q := placeHeld_quiet s
  obtain ⟨a, b⟩ := takeNext_steady (s := placeHeld s) (by rw [q.reader]; exact h)
  exact ⟨Steady.before a (Steady.of_quiet q), b.trans q.reader⟩

theorem takeWork_steady {s : State} (h : s.reader.kept = none) :
    Steady s (takeWork s) ∧ (takeWork s).reader = s.reader := by
  obtain ⟨a1, a2⟩ := takeOneWork_steady h
  obtain ⟨b1, b2⟩ := takeOneWork_steady (s := takeOneWork s) (by rw [a2]; exact h)
  obtain ⟨c1, c2⟩ := takeOneWork_steady (s := takeOneWork (takeOneWork s)) (by rw [b2, a2]; exact h)
  exact ⟨Steady.before c1 (Steady.before b1 a1), c2.trans (b2.trans a2)⟩

/-- One thing of the waiting work is a frame, or the request. -/
theorem takeNext_either (s : State) :
    (Steady s (takeNext s)) ∨ (Plain s (takeNext s) ∧ (takeNext s).reader.kept = none) := by
  unfold takeNext
  split
  · split
    · split
      · right
        refine ⟨Steady.thenPlain ?_ (takeRequest_plain _ _), takeRequest_kept_none _ _⟩
        exact ⟨rfl, rfl, rfl, rfl⟩
      · left
        refine Steady.before (takeFrame_steady _ _ _).1 ?_
        exact ⟨rfl, rfl, rfl, rfl⟩
    · exact Or.inr ⟨takeRequest_plain _ s, takeRequest_kept_none _ _⟩
    · exact Or.inl (takeFrame_steady _ _ s).1
    · exact Or.inl (Steady.refl s)
  · exact Or.inl (Steady.refl s)

theorem takeOneWork_either (s : State) :
    (Steady s (takeOneWork s)) ∨
      (Plain s (takeOneWork s) ∧ (takeOneWork s).reader.kept = none) := by
  unfold takeOneWork
  have q := Steady.of_quiet (placeHeld_quiet s)
  exact Or.imp (fun h => Steady.before h q) (fun h => ⟨q.thenPlain h.1, h.2⟩)
    (takeNext_either (placeHeld s))

/-- Waiting work takes at most one request. -/
theorem takeWork_either (s : State) :
    Steady s (takeWork s) ∨ (Plain s (takeWork s) ∧ (takeWork s).reader.kept = none) := by
  have go : ∀ u, (Steady s u ∨ (Plain s u ∧ u.reader.kept = none)) →
      (Steady s (takeOneWork u) ∨
        (Plain s (takeOneWork u) ∧ (takeOneWork u).reader.kept = none)) := by
    rintro u (h | ⟨h, k⟩)
    · rcases takeOneWork_either u with g | ⟨g, k⟩
      · exact Or.inl (Steady.before g h)
      · exact Or.inr ⟨h.thenPlain g, k⟩
    · obtain ⟨g1, g2⟩ := takeOneWork_steady k
      exact Or.inr ⟨h.thenSteady g1, by rw [g2]; exact k⟩
  unfold takeWork
  exact go (takeOneWork (takeOneWork s)) (go (takeOneWork s) (takeOneWork_either s))

theorem takeWork_plain (s : State) : Plain s (takeWork s) := by
  rcases takeWork_either s with h | h
  · exact h.plain
  · exact h.1

theorem fetchDone_plain (b : List Byte) (s : State) : Plain s (fetchDone b s) := by
  unfold fetchDone
  refine Steady.thenPlain ?_ (takeWork_plain _)
  exact ⟨rfl, rfl, rfl, rfl⟩

/-! ### The receiver and the snooped words -/

theorem deframe_quiet' (d : Byte) (c : Bool) (s : State) :
    Quiet s (linkReact (deframe d c s)) := (deframe_quiet d c s).trans (linkReact_quiet _)

theorem receiveChar_plain (b : Byte) (p x y : Bool) (s : State) :
    Plain s (receiveChar b p x y s) ∧
      (s.reader.kept = none → Steady s (receiveChar b p x y s)) := by
  unfold receiveChar
  simp only
  split
  · have q := deframe_quiet' (dataByte s.settings.accepted b)
      (charIsBad s.settings.accepted (dataByte s.settings.accepted b) p x y) s
    exact ⟨(Steady.of_quiet q).thenPlain (takeWork_plain _),
      fun k => Steady.before (takeWork_steady (by rw [q.reader]; exact k)).1 (Steady.of_quiet q)⟩
  · have q := deframe_quiet (dataByte s.settings.accepted b)
      (charIsBad s.settings.accepted (dataByte s.settings.accepted b) p x y) s
    exact ⟨(Steady.of_quiet q).plain, fun _ => Steady.of_quiet q⟩

theorem adoptSettings_steady (s : State) : Steady s (adoptSettings s) := by
  unfold adoptSettings
  exact Steady.ite (fun _ => ⟨rfl, rfl, rfl, rfl⟩) (fun _ => ⟨rfl, rfl, rfl, rfl⟩)

theorem acceptCommit_steady (tag : Half) (s : State) : Steady s (acceptCommit tag s) := by
  unfold acceptCommit
  exact Steady.before (Steady.of_quiet (tripTest_quiet _))
    (Steady.before (Steady.of_quiet (closeOpen_quiet _ _))
      (Steady.before (Steady.of_quiet (restartLink_quiet _ _))
        (Steady.before (Steady.of_quiet (Quiet.setLink _ _))
          (Steady.before (Steady.of_quiet (Quiet.setRx _ _)) (adoptSettings_steady s)))))

theorem recordCommit_steady (tag : Half) (o : CommitOutcome) (n : Nat) (s : State) :
    Steady s (recordCommit tag o n s) := ⟨rfl, rfl, rfl, rfl⟩

theorem takeCommit_steady (v : Word) (s : State) : Steady s (takeCommit v s) := by
  unfold takeCommit judgeCommit
  refine Steady.before (placeHeld_steady _) (Steady.ite (fun _ => recordCommit_steady _ _ _ s)
    (fun _ => ?_))
  split
  · exact recordCommit_steady _ _ _ s
  · exact Steady.before (recordCommit_steady _ _ _ _) (acceptCommit_steady _ s)

theorem raiseFactor_steady (f : Factor) (s : State) : Steady s (raiseFactor f s) :=
  Steady.of_quiet (raiseFactor_quiet f s)

theorem snoopTake_steady (off : Nat) (v : Word) (s : State) : Steady s (snoopTake off v s) := by
  unfold snoopTake
  refine Steady.ite (fun _ => ⟨rfl, rfl, rfl, rfl⟩) (fun _ => ?_)
  refine Steady.ite (fun _ => takeCommit_steady v s) (fun _ => ?_)
  refine Steady.ite (fun _ => Steady.ite (fun _ => ⟨rfl, rfl, rfl, rfl⟩)
    (fun _ => raiseFactor_steady _ s)) (fun _ => ?_)
  refine Steady.ite (fun _ => Steady.ite (fun _ => ⟨rfl, rfl, rfl, rfl⟩)
    (fun _ => raiseFactor_steady _ s)) (fun _ => ?_)
  refine Steady.ite (fun _ => ⟨rfl, rfl, rfl, rfl⟩) (fun _ => ?_)
  refine Steady.ite (fun _ => ?_) (fun _ => ?_)
  · unfold takePosition
    split
    · exact ⟨rfl, rfl, rfl, rfl⟩
    · exact raiseFactor_steady _ s
  · exact Steady.ite (fun _ => ⟨rfl, rfl, rfl, rfl⟩) (fun _ => Steady.refl s)

theorem snoopedWrite_steady (off : Nat) (l : BitVec 4) (v : Word) (s : State) :
    Steady s (snoopedWrite off l v s) := by
  unfold snoopedWrite
  refine Steady.ite (fun _ => Steady.before (snoopTake_steady _ _ _) ?_)
    (fun _ => Steady.before (raiseFactor_steady _ _) ?_)
  · exact ⟨rfl, rfl, rfl, rfl⟩
  · exact ⟨rfl, rfl, rfl, rfl⟩

theorem finishAccess_steady (a : Access) (s : State) : Steady s (finishAccess a s) := by
  unfold finishAccess
  have h : Steady s (dropAccess (freePort (accessMemory a s))) := by
    unfold accessMemory
    split <;> exact ⟨rfl, rfl, rfl, rfl⟩
  refine Steady.before ?_ h
  unfold snoopAccess
  split
  · exact Steady.ite (fun _ => snoopTake_steady _ _ _) (fun _ => raiseFactor_steady _ _)
  · exact Steady.refl _

/-! ### The agent -/

theorem beginTask_steady (s : State) : Steady s (beginTask s) := Steady.of_side (beginTask_side s)

theorem requestTask_steady (k : TaskKind) (s : State) : Steady s (requestTask k s) :=
  Steady.of_side (requestTask_side k s)

theorem wordToMemory_steady (w : AgentWord) (s : State) :
    Steady s (wordToMemory w s) ∧ (wordToMemory w s).reader = s.reader := by
  unfold wordToMemory
  split
  all_goals exact ⟨⟨rfl, rfl, rfl, rfl⟩, rfl⟩

theorem wordToPart_steady (w : AgentWord) (s : State) :
    Steady s (wordToPart w s) ∧ (wordToPart w s).reader = s.reader := by
  unfold wordToPart
  split
  · split <;> exact ⟨⟨rfl, rfl, rfl, rfl⟩, rfl⟩
  · exact ⟨⟨rfl, rfl, rfl, rfl⟩, rfl⟩
  · exact ⟨⟨rfl, rfl, rfl, rfl⟩, rfl⟩
  · unfold deposit
    split
    · refine ⟨Steady.before (raiseFactor_steady _ _) ⟨rfl, rfl, rfl, rfl⟩, ?_⟩
      rw [(raiseFactor_quiet _ _).reader]
      rfl
    · exact ⟨Steady.refl s, rfl⟩
  · exact ⟨Steady.refl s, rfl⟩
  · exact ⟨Steady.refl s, rfl⟩

theorem setWords_steady (ws : List AgentWord) (s : State) :
    Steady s (setWords ws s) ∧ (setWords ws s).reader = s.reader := by
  unfold setWords
  split <;> exact ⟨⟨rfl, rfl, rfl, rfl⟩, rfl⟩

theorem afterWord_steady (w : AgentWord) {s : State} (h : s.reader.kept = none) :
    Steady s (afterWord w s) := by
  unfold afterWord
  split
  · exact Steady.before (takeWork_steady (by rw [(placeHeld_quiet s).reader]; exact h)).1
      (placeHeld_steady s)
  · exact Steady.refl s

theorem tripLogDone_steady (n : Nat) (s : State) : Steady s (tripLogDone n s) := by
  unfold tripLogDone
  split
  · refine Steady.ite (fun _ => ⟨rfl, rfl, rfl, rfl⟩) (fun _ => Steady.before
      (requestTask_steady _ _) ?_)
    exact ⟨rfl, rfl, rfl, rfl⟩
  · exact Steady.refl s

theorem taskReport_plain (t : Task) (s : State) : Plain s (taskReport t s) := by
  unfold taskReport
  split
  · exact fetchDone_plain _ s
  · exact (Steady.refl s).plain
  · exact (Steady.refl s).plain
  · exact (tripLogDone_steady _ s).plain
  · exact (Steady.of_side (boxWriteDone_side s)).plain

theorem completeTask_plain (s : State) : Plain s (completeTask s) := by
  unfold completeTask
  split
  · refine Plain.thenSteady (Steady.thenPlain ?_ (taskReport_plain _ _)) (beginTask_steady _)
    unfold clearPass
    exact Steady.ite (fun _ => ⟨rfl, rfl, rfl, rfl⟩) (fun _ => ⟨rfl, rfl, rfl, rfl⟩)
  · exact (Steady.refl s).plain

theorem initialDone_steady (s : State) : Steady s (initialDone s) := by
  have h : Steady s (beginTask (s.setAgent { s.agent with initial := .done })) :=
    Steady.before (beginTask_steady _) ⟨rfl, rfl, rfl, rfl⟩
  unfold initialDone
  refine Steady.before (Steady.of_side (resumeAccess_side _))
    (Steady.before (Steady.of_side (initialBoxMark_side _)) ?_)
  exact Steady.ite (fun _ => Steady.before (requestTask_steady _ _) h) (fun _ => h)

theorem initialWordEnd_steady (off : Nat) (v : Word) (left : List (Nat × Word)) (s : State) :
    Steady s (initialWordEnd off v left s) := by
  have h : Steady s ((agentWrite off v s).setAgent { s.agent with initial := .writing left }) :=
    ⟨rfl, rfl, rfl, rfl⟩
  unfold initialWordEnd
  exact Steady.ite (fun _ => Steady.before (initialDone_steady _) h) (fun _ => h)

/-- The end of a word with no request kept: at most one request is taken. -/
theorem agentStep_plain {s : State} (h : s.reader.kept = none) : Plain s (agentStep s) := by
  unfold agentStep
  split
  · exact (initialWordEnd_steady _ _ _ s).plain
  · split
    · split
      · rename_i w ws _
        obtain ⟨a1, a2⟩ := wordToMemory_steady w s
        obtain ⟨b1, b2⟩ := wordToPart_steady w (wordToMemory w s)
        unfold taskWordEnd
        simp only
        obtain ⟨c1, c2⟩ := setWords_steady
          (wordsAfter ws (wordToPart w (wordToMemory w s))) (wordToPart w (wordToMemory w s))
        have d := afterWord_steady w (s := setWords
          (wordsAfter ws (wordToPart w (wordToMemory w s))) (wordToPart w (wordToMemory w s)))
          (by rw [c2, b2, a2]; exact h)
        have e := Steady.before d (Steady.before c1 (Steady.before b1 a1))
        split
        · exact e.thenPlain (completeTask_plain _)
        · exact e.plain
      · exact completeTask_plain s
      · exact (beginTask_steady s).plain
    · exact (Steady.refl s).plain
  · exact (Steady.refl s).plain

theorem writeAll_steady (l : List (Nat × Word)) (s : State) : Steady s (writeAll l s) := by
  induction l generalizing s with
  | nil => exact Steady.refl s
  | cons p l ih => exact Steady.before (ih _) ⟨rfl, rfl, rfl, rfl⟩

theorem startEventTask_steady (s : State) : Steady s (startEventTask s) :=
  Steady.ite (fun _ => Steady.ite (fun _ => requestTask_steady _ s)
    (fun _ => Steady.ite (fun _ => requestTask_steady _ s) (fun _ => Steady.refl s)))
    (fun _ => Steady.refl s)

/-! ### The resets -/

theorem assertReset_steady (s : State) : Steady s (assertReset s) := by
  have h1 := Steady.of_side (arbitrate_side s)
  have h2 : Steady (arbitrate s) (finishPort (arbitrate s)) := by
    unfold finishPort
    split
    · split
      · exact (wordToMemory_steady _ _).1
      · exact Steady.refl _
    · split
      · split
        · exact ⟨rfl, rfl, rfl, rfl⟩
        · exact Steady.refl _
      · exact Steady.refl _
    · exact Steady.refl _
  have h3 := Steady.of_quiet (settleTrip_quiet (finishPort (arbitrate s)))
  refine Steady.before (t := settleTrip (finishPort (arbitrate s))) ?_
    (Steady.before h3 (Steady.before h2 h1))
  exact ⟨rfl, rfl, rfl, rfl⟩

theorem releaseReset_steady (s : State) : Steady s (releaseReset s) := by
  have h : Steady s (sampleLines s) := by
    unfold sampleLines
    simp only
    split <;> exact ⟨rfl, rfl, rfl, rfl⟩
  have l : ∀ u, Steady u (restartHoldoff (latch u)) := fun _ => ⟨rfl, rfl, rfl, rfl⟩
  have b : ∀ u, Steady u (beginInitial (presentConditions u)) := fun _ => ⟨rfl, rfl, rfl, rfl⟩
  unfold releaseReset
  exact Steady.before (Steady.of_side (arbitrate_side _)) (Steady.before (placeHeld_steady _)
    (Steady.before (Steady.of_side (resumeAccess_side _)) (Steady.before (b _)
    (Steady.before (Steady.of_quiet (tripTest_quiet _)) (Steady.before
    (Steady.of_quiet (resumeCall_quiet _)) (Steady.before (Steady.of_quiet (checkReady_quiet _))
    (Steady.before (l _) (Steady.before (Steady.of_quiet (startSupervisor_quiet _)) h))))))))

/-- A full reset leaves the meter VACANT and the box empty. -/
theorem fullReset_fine (s : State) : Fine s (fullReset s) :=
  ⟨fun _ h => absurd rfl h, fun _ _ => Or.inr rfl⟩

end Sys2Proof.Machine
end

