-- ==== Sys2Proof/Laws/Tasks.lean ====
section
/-! SUPPORT. The agent's task list: its law across every operation, the task on which the agent works, and what a run of its words does to the live fare and the black box. -/

namespace Sys2Proof.Machine

/-- The law of the task list carries over from s to t, and a first task on which the agent works stays first. -/
structure Lists (s t : State) : Prop where
  law : TaskLaw s → TaskLaw t
  head : ∀ k ts, s.agent.tasks = k :: ts → k.words ≠ none → ∃ us, t.agent.tasks = k :: us

namespace Lists

theorem same {s t : State} (h : t.agent.tasks = s.agent.tasks) : Lists s t :=
  ⟨fun a => by unfold TaskLaw; rw [h]; exact a, fun k ts e _ => ⟨ts, h.trans e⟩⟩

theorem refl (s : State) : Lists s s := same rfl

theorem before {s t u : State} (k : Lists t u) (h : Lists s t) : Lists s u := by
  refine ⟨fun a => k.law (h.law a), fun x xs e w => ?_⟩
  obtain ⟨us, hu⟩ := h.head x xs e w
  exact k.head x us hu w

theorem ite {p : Prop} [Decidable p] {s t u : State} (h : p → Lists s t) (k : ¬p → Lists s u) :
    Lists s (if p then t else u) := by
  by_cases c : p
  · rw [if_pos c]; exact h c
  · rw [if_neg c]; exact k c

theorem of_quiet {s t : State} (h : Quiet s t) : Lists s t := same (by rw [h.agent])

/-- Other items changed first. -/
theorem from_same {s t u : State} (k : Lists t u) (h : t.agent.tasks = s.agent.tasks) : Lists s u :=
  before k (same h)

/-- Other items changed afterwards. -/
theorem then_same {s t u : State} (h : Lists s t) (e : u.agent.tasks = t.agent.tasks) : Lists s u :=
  before (same e) h

end Lists

/-! ### The words of a task -/

theorem writesFrom_plain (off : Nat) (l : List Word) :
    (writesFrom off l).countP AgentWord.isProducer = 0 ∧
      (writesFrom off l).countP AgentWord.isResult = 0 := by
  induction l generalizing off with
  | nil => exact ⟨rfl, rfl⟩
  | cons w l ih =>
    obtain ⟨a, b⟩ := ih (off + 4)
    exact ⟨by simp [writesFrom, AgentWord.isProducer, a], by simp [writesFrom, AgentWord.isResult, b]⟩

/-- The words a task starts with are within the law. -/
theorem taskWords_law (k : TaskKind) (s : State) :
    (taskWords k s).countP AgentWord.isProducer ≤ (if k = .event true then 1 else 0) ∧
      (taskWords k s).countP AgentWord.isResult ≤ 1 := by
  have w := writesFrom_plain
  unfold taskWords
  split
  · simp [List.countP_map, Function.comp_def, AgentWord.isProducer, AgentWord.isResult]
  · simp [AgentWord.isProducer, AgentWord.isResult]
  · split
    · rename_i e es _
      have p1 := (w (0x1000 + 128 * s.evw.producer) (wordsOf e.bytes)).1
      have p2 := (w (0x1000 + 128 * s.evw.producer) (wordsOf e.bytes)).2
      simp only [List.countP_append, p1, p2]
      exact ⟨Nat.le_of_eq rfl, Nat.le_of_eq rfl⟩
    · simp [counterWords, AgentWord.isProducer, AgentWord.isResult]
  · simp [counterWords, AgentWord.isProducer, AgentWord.isResult]
  · split
    · simp [AgentWord.isProducer, AgentWord.isResult, w]
    · simp
  · simp [w]

theorem beginTask_lists (s : State) : Lists s (beginTask s) := by
  unfold beginTask
  split
  · split
    · rename_i t ts e
      split
      · rename_i n
        refine ⟨fun a x hx ws hw => ?_, fun k us e' w => ?_⟩
        · rcases List.mem_cons.1 hx with rfl | hx
          · cases hw
            exact taskWords_law t.kind s
          · exact a x (by rw [e]; exact List.mem_cons_of_mem _ hx) ws hw
        · rw [e] at e'
          cases e'
          exact absurd (by simpa using n) w
      · exact Lists.refl s
    · exact Lists.refl s
  · exact Lists.refl s

theorem requestTask_lists (k : TaskKind) (s : State) : Lists s (requestTask k s) := by
  unfold requestTask
  split
  · exact Lists.refl s
  · refine Lists.before (beginTask_lists _) ⟨fun a x hx ws hw => ?_, fun y ys e _ => ?_⟩
    · rcases List.mem_append.1 hx with hx | hx
      · exact a x hx ws hw
      · rw [List.mem_singleton.1 hx] at hw
        cases hw
    · exact ⟨ys ++ [{ kind := k, words := none, bytes := [], number := 0 }], by
        show s.agent.tasks ++ _ = _
        rw [e]; rfl⟩

theorem requestBoxWrite_lists (s : State) : Lists s (requestBoxWrite s) := by
  unfold requestBoxWrite
  exact Lists.ite (fun _ => Lists.ite (fun _ => Lists.same rfl)
    (fun _ => Lists.from_same (requestTask_lists _ _) rfl)) (fun _ => Lists.same rfl)

theorem boxWriteDone_lists (s : State) : Lists s (boxWriteDone s) := by
  unfold boxWriteDone
  split
  · exact Lists.from_same (requestTask_lists _ _) rfl
  · exact Lists.same rfl
  · exact Lists.same rfl

/-! ### The path -/

theorem arbitrate_lists (s : State) : Lists s (arbitrate s) := by
  obtain ⟨p, h, -⟩ := arbitrate_path s
  rw [h]
  exact Lists.same rfl

theorem raiseFactor_lists (f : Factor) (s : State) : Lists s (raiseFactor f s) :=
  Lists.of_quiet (raiseFactor_quiet f s)

theorem guardViolation_lists (s : State) : Lists s (guardViolation s) :=
  Lists.from_same (raiseFactor_lists _ _) rfl

theorem completeInside_lists (off : Nat) (a : Access) (s : State) :
    Lists s (completeInside off a s) := by
  unfold completeInside
  split
  · split
    · exact Lists.same rfl
    · exact Lists.ite (fun _ => Lists.same rfl) (fun _ => raiseFactor_lists _ s)
  · split
    · exact Lists.ite (fun _ => Lists.same rfl) (fun _ => Lists.same rfl)
    · exact guardViolation_lists s
  · exact guardViolation_lists s

theorem treatAccess_lists (off : Nat) (a : Access) (s : State) : Lists s (treatAccess off a s) := by
  unfold treatAccess
  exact Lists.ite (fun _ => Lists.same rfl)
    (fun _ => Lists.from_same (completeInside_lists _ _ _) rfl)

theorem classify_lists (a : Access) (s : State) : Lists s (classify a s) := by
  unfold classify
  refine Lists.ite (fun _ => ?_) (fun _ => Lists.same rfl)
  split
  · split
    · exact Lists.ite (fun _ => treatAccess_lists _ _ s) (fun _ => Lists.same rfl)
    · exact Lists.same rfl
  · exact Lists.same rfl

theorem resumeAccess_lists (s : State) : Lists s (resumeAccess s) := by
  unfold resumeAccess
  split
  · exact Lists.ite (fun _ => classify_lists _ s) (fun _ => Lists.refl s)
  · exact Lists.refl s

/-! ### The meter, the tick, the requests -/

theorem applyChange_agent (s : State) : (applyChange s).agent = s.agent := by
  unfold applyChange
  split
  · split
    · rw [(produce_quiet _ _ _).agent]; rfl
    · rfl
  · rfl

theorem addIncrement_agent (a : ActiveCopy) (n : Nat) (s : State) :
    (addIncrement a n s).agent = s.agent := by
  unfold addIncrement
  split
  · unfold takeStep
    exact (applyChange_agent _).trans rfl
  · rfl

theorem odoPulse_lists (s : State) : Lists s (odoPulse s) := by
  unfold odoPulse
  split
  · refine Lists.same ?_
    unfold chargePulse
    split
    · rw [addIncrement_agent]; rfl
    · rfl
  · exact Lists.from_same (raiseFactor_lists _ _) rfl

theorem meterTick_lists (s : State) : Lists s (meterTick s) := by
  refine Lists.same ?_
  show (chargeTime s).agent.tasks = _
  unfold chargeTime
  split
  · split
    · rw [addIncrement_agent]
    · rfl
  · rfl

theorem countTick_lists (s : State) : Lists s (countTick s) :=
  Lists.same (by rw [(countTick_same s).2.2.2.2.2.2.2.1])

theorem secondTick_lists (s : State) : Lists s (secondTick s) :=
  Lists.before (Lists.of_quiet (secondTick_quiet s))
    (Lists.before (countTick_lists _) (meterTick_lists s))

theorem refuse_lists (c : Byte) (r : Reason) (tag : Half) (s : State) :
    Lists s (refuse c r tag s) := Lists.of_quiet (refuse_quiet c r tag s)

theorem placeHeld_lists (s : State) : Lists s (placeHeld s) := Lists.of_quiet (placeHeld_quiet s)

theorem reportMeter_lists (c : Byte) (b : MeterState) (tag : Half) (x y z : Nat) (s : State) :
    Lists s (reportMeter c b tag x y z s) := Lists.of_quiet (reportMeter_quiet _ _ _ _ _ _ _)

theorem reqHire_lists (tag : Half) (slot : Byte) (s : State) : Lists s (reqHire tag slot s) := by
  unfold reqHire
  split
  · exact refuse_lists _ _ _ s
  · split
    · exact refuse_lists _ _ _ s
    · split
      · exact refuse_lists _ _ _ s
      · refine Lists.before (placeHeld_lists _) ?_
        unfold hire
        simp only
        exact Lists.before (Lists.of_quiet (tripTest_quiet _))
          (Lists.before (Lists.of_quiet (dutyAfter_quiet _ _ _ _))
            (Lists.before (reportMeter_lists _ _ _ _ _ _ _)
              ((Lists.of_quiet (settleJob_quiet s)).then_same rfl)))

theorem reqStop_lists (tag : Half) (s : State) : Lists s (reqStop tag s) := by
  unfold reqStop
  split
  · exact Lists.from_same (reportMeter_lists _ _ _ _ _ _ _) rfl
  · exact refuse_lists _ _ _ s

theorem reqResume_lists (tag : Half) (s : State) : Lists s (reqResume tag s) := by
  unfold reqResume
  split
  · exact Lists.from_same (reportMeter_lists _ _ _ _ _ _ _) rfl
  · exact refuse_lists _ _ _ s

theorem reqExtra_lists (tag a : Half) (c : Byte) (s : State) : Lists s (reqExtra tag a c s) := by
  unfold reqExtra
  split
  · exact refuse_lists _ _ _ s
  · split
    · exact refuse_lists _ _ _ s
    · exact Lists.from_same (reportMeter_lists _ _ _ _ _ _ _) rfl

theorem reqSelect_lists (tag : Half) (slot : Byte) (s : State) : Lists s (reqSelect tag slot s) := by
  unfold reqSelect
  split
  · exact refuse_lists _ _ _ s
  · split
    · exact refuse_lists _ _ _ s
    · split
      · exact refuse_lists _ _ _ s
      · exact Lists.from_same (reportMeter_lists _ _ _ _ _ _ _) rfl

theorem closeTrip_lists (tag : Half) (s : State) : Lists s (closeTrip tag s) := by
  unfold closeTrip
  split
  · simp only [addTripReport, countHeld]
    refine Lists.before (t := requestTripLog _) (Lists.same rfl) ?_
    unfold requestTripLog
    exact Lists.from_same (Lists.ite (fun _ => requestTask_lists _ _) (fun _ => Lists.refl _)) rfl
  · exact Lists.refl s

theorem reqClear_lists (tag : Half) (s : State) : Lists s (reqClear tag s) := by
  unfold reqClear
  split
  · refine Lists.before (placeHeld_lists _) ?_
    unfold clearHiring
    exact Lists.before (Lists.of_quiet (tripTest_quiet _))
      (Lists.before (Lists.of_quiet (dutyAfter_quiet _ _ _ _))
        (Lists.before (reportMeter_lists _ _ _ _ _ _ _)
          ((closeTrip_lists tag s).then_same rfl)))
  · exact refuse_lists _ _ _ s

theorem reqShiftClose_lists (tag : Half) (s : State) : Lists s (reqShiftClose tag s) := by
  unfold reqShiftClose
  exact Lists.ite (fun _ => Lists.from_same (placeHeld_lists _) rfl) (fun _ => refuse_lists _ _ _ s)

theorem captureBox_lists (x : RaiseSource) (s : State) : Lists s (captureBox x s) := by
  unfold captureBox
  split
  · exact Lists.refl s
  · exact Lists.from_same (requestBoxWrite_lists _) rfl

theorem raiseTaken_lists (x : RaiseSource) (tag : Half) (s : State) :
    Lists s (raiseTaken x tag s) := by
  have h : Lists s (markTripEmergency (raiseFactor .emergency s)) :=
    Lists.before (t := raiseFactor .emergency s) (Lists.same rfl) (raiseFactor_lists .emergency s)
  unfold raiseTaken
  refine Lists.ite (fun _ => ?_)
    (fun _ => Lists.before (Lists.of_quiet (setEmReport_quiet _ _ _)) h)
  exact Lists.before (Lists.of_quiet ((tripTest_quiet _).trans (placeRaised_quiet s _)))
    (Lists.before (Lists.of_quiet (setEmReport_quiet _ _ _)) (Lists.then_same
      (Lists.before (Lists.of_quiet (offerAlarm_quiet _ _))
        (Lists.before (Lists.of_quiet (overrideRadio_quiet _))
          (Lists.before (Lists.of_quiet (closeOpen_quiet _ _)) h))) rfl))

theorem raise_lists (x : RaiseSource) (tag : Half) (s : State) : Lists s (raise x tag s) := by
  unfold raise
  split
  · exact Lists.before (raiseTaken_lists _ _ _) ((captureBox_lists x s).then_same rfl)
  · exact Lists.from_same (raiseTaken_lists _ _ _) rfl
  · exact Lists.same rfl

theorem reqBoxClear_lists (tag : Half) (s : State) : Lists s (reqBoxClear tag s) := by
  unfold reqBoxClear
  split
  · refine Lists.before (placeHeld_lists _) ?_
    unfold clearBox
    exact Lists.before (Lists.of_quiet (setEmReport_quiet _ _ _))
      (Lists.from_same (requestBoxWrite_lists _) rfl)
  · exact refuse_lists _ _ _ s

theorem giveRequest_lists (r : RequestRecord) (s : State) : Lists s (giveRequest r s) := by
  unfold giveRequest
  split
  · exact Lists.of_quiet (reqAccept_quiet _ _ s)
  · exact Lists.of_quiet (reqDecline_quiet _ _ s)
  · exact Lists.of_quiet (reqDuty_quiet _ _ s)
  · exact Lists.of_quiet (reqSendText_quiet _ _ _ s)
  · exact reqHire_lists _ _ s
  · exact reqStop_lists _ s
  · exact reqResume_lists _ s
  · exact reqExtra_lists _ _ _ s
  · exact reqClear_lists _ s
  · exact reqSelect_lists _ _ s
  · exact reqShiftClose_lists _ s
  · exact raise_lists _ _ s
  · exact Lists.of_quiet (reqCancel_quiet _ s)
  · exact reqBoxClear_lists _ s
  · exact Lists.of_quiet (reqRestart_quiet _ s)

theorem takeRequest_lists (b : List Byte) (s : State) : Lists s (takeRequest b s) := by
  have h : Lists s (checkRequest (requestOf b) s) := by
    unfold checkRequest
    split
    · exact refuse_lists _ _ _ s
    · split
      · exact refuse_lists _ _ _ s
      · exact giveRequest_lists _ s
  exact Lists.before (placeHeld_lists _) (Lists.before (requestTask_lists _ _)
    (h.then_same rfl))

/-! ### Frames and what waits -/

theorem takeTariff_lists (f : DownFrame) (s : State) : Lists s (takeTariff f s) := by
  have h : Lists s (ownTariff f s) := by
    unfold ownTariff
    split
    · exact Lists.from_same (Lists.of_quiet (produce_quiet _ _ _)) rfl
    · exact Lists.refl s
  unfold takeTariff handOver
  split
  · split
    · split
      · rename_i r hr
        exact Lists.of_quiet ((offerAck_quiet DownClass.tariff.code f.seq r s).trans
          (freeBuffer_quiet DownClass.tariff.code f _))
      · exact Lists.before (Lists.of_quiet (((offerAck_quiet DownClass.tariff.code f.seq
          (tariffResult f) (ownTariff f s)).trans (dedupeAdd_quiet f.seq (tariffResult f) _)).trans
            (freeBuffer_quiet DownClass.tariff.code f _))) h
    · exact Lists.before (Lists.of_quiet (freeBuffer_quiet DownClass.tariff.code f (ownTariff f s))) h
  · exact Lists.of_quiet ((countUnknown_quiet s).trans (freeBuffer_quiet DownClass.tariff.code f _))

theorem takeFrame_lists (c : Byte) (f : DownFrame) (s : State) : Lists s (takeFrame c f s) := by
  unfold takeFrame
  split
  · exact Lists.of_quiet (takeOffer_quiet f s)
  · exact Lists.of_quiet (takeWithdraw_quiet f s)
  · exact Lists.of_quiet (takeAward_quiet f s)
  · exact Lists.of_quiet (takeReject_quiet f s)
  · exact Lists.of_quiet (takeText_quiet f s)
  · exact takeTariff_lists f s
  · exact Lists.of_quiet (takeAlarmAck_quiet f s)
  · exact Lists.of_quiet (takeAlarmEnd_quiet f s)
  · exact Lists.of_quiet (takeAck_quiet f s)
  · exact Lists.of_quiet (takePoll_quiet f s)
  · exact Lists.of_quiet (takeChannel_quiet f s)
  · exact Lists.of_quiet (freeBuffer_quiet c f s)

theorem takeOneWork_lists (s : State) : Lists s (takeOneWork s) := by
  unfold takeOneWork
  refine Lists.before (t := placeHeld s) ?_ (placeHeld_lists s)
  unfold takeNext
  split
  · split
    · have d : ∀ u, Lists u (countDrawn u) := fun _ => Lists.same rfl
      exact Lists.ite (fun _ => Lists.before (takeRequest_lists _ _) (d _))
        (fun _ => Lists.before (takeFrame_lists _ _ _) (d _))
    · exact takeRequest_lists _ _
    · exact takeFrame_lists _ _ _
    · exact Lists.refl _
  · exact Lists.refl _

theorem takeWork_lists (s : State) : Lists s (takeWork s) :=
  Lists.before (takeOneWork_lists _) (Lists.before (takeOneWork_lists _) (takeOneWork_lists s))

theorem fetchDone_lists (b : List Byte) (s : State) : Lists s (fetchDone b s) :=
  Lists.from_same (takeWork_lists _) rfl

/-! ### The receiver and the snooped words -/

theorem receiveChar_lists (b : Byte) (p x y : Bool) (s : State) :
    Lists s (receiveChar b p x y s) := by
  unfold receiveChar
  simp only
  split
  · exact Lists.before (takeWork_lists _) (Lists.of_quiet (deframe_quiet' _ _ s))
  · exact Lists.of_quiet (deframe_quiet _ _ s)

theorem acceptCommit_lists (tag : Half) (s : State) : Lists s (acceptCommit tag s) := by
  have h : Lists s (adoptSettings s) := by
    unfold adoptSettings
    exact Lists.ite (fun _ => Lists.same rfl) (fun _ => Lists.same rfl)
  unfold acceptCommit
  exact Lists.before (Lists.of_quiet (tripTest_quiet _))
    (Lists.before (Lists.of_quiet (closeOpen_quiet _ _))
      (Lists.before (Lists.of_quiet (restartLink_quiet _ _))
        (Lists.before (Lists.of_quiet (Quiet.setLink _ _))
          (Lists.before (Lists.of_quiet (Quiet.setRx _ _)) h))))

theorem recordCommit_lists (tag : Half) (o : CommitOutcome) (n : Nat) (s : State) :
    Lists s (recordCommit tag o n s) := Lists.same rfl

theorem takeCommit_lists (v : Word) (s : State) : Lists s (takeCommit v s) := by
  unfold takeCommit judgeCommit
  refine Lists.before (placeHeld_lists _) (Lists.ite (fun _ => recordCommit_lists _ _ _ s)
    (fun _ => ?_))
  split
  · exact recordCommit_lists _ _ _ s
  · exact Lists.before (recordCommit_lists _ _ _ _) (acceptCommit_lists _ s)

theorem snoopTake_lists (off : Nat) (v : Word) (s : State) : Lists s (snoopTake off v s) := by
  unfold snoopTake
  refine Lists.ite (fun _ => Lists.same rfl) (fun _ => ?_)
  refine Lists.ite (fun _ => takeCommit_lists v s) (fun _ => ?_)
  refine Lists.ite (fun _ => Lists.ite (fun _ => Lists.same rfl)
    (fun _ => raiseFactor_lists _ s)) (fun _ => ?_)
  refine Lists.ite (fun _ => Lists.ite (fun _ => Lists.same rfl)
    (fun _ => raiseFactor_lists _ s)) (fun _ => ?_)
  refine Lists.ite (fun _ => Lists.same rfl) (fun _ => ?_)
  refine Lists.ite (fun _ => ?_) (fun _ => ?_)
  · unfold takePosition
    split
    · exact Lists.same rfl
    · exact raiseFactor_lists _ s
  · exact Lists.ite (fun _ => Lists.same rfl) (fun _ => Lists.refl s)

theorem snoopedWrite_lists (off : Nat) (l : BitVec 4) (v : Word) (s : State) :
    Lists s (snoopedWrite off l v s) := by
  unfold snoopedWrite
  exact Lists.ite (fun _ => Lists.from_same (snoopTake_lists _ _ _) rfl)
    (fun _ => Lists.from_same (raiseFactor_lists _ _) rfl)

theorem finishAccess_lists (a : Access) (s : State) : Lists s (finishAccess a s) := by
  have h : Lists s (dropAccess (freePort (accessMemory a s))) := by
    unfold accessMemory
    split <;> exact Lists.same rfl
  unfold finishAccess
  refine Lists.before ?_ h
  unfold snoopAccess
  split
  · exact Lists.ite (fun _ => snoopTake_lists _ _ _) (fun _ => raiseFactor_lists _ _)
  · exact Lists.refl _

/-! ### The agent -/

theorem startEventTask_lists (s : State) : Lists s (startEventTask s) :=
  Lists.ite (fun _ => Lists.ite (fun _ => requestTask_lists _ s)
    (fun _ => Lists.ite (fun _ => requestTask_lists _ s) (fun _ => Lists.refl s)))
    (fun _ => Lists.refl s)

theorem tripLogDone_lists (n : Nat) (s : State) : Lists s (tripLogDone n s) := by
  unfold tripLogDone
  split
  · exact Lists.ite (fun _ => Lists.same rfl)
      (fun _ => Lists.from_same (requestTask_lists _ _) rfl)
  · exact Lists.refl s

theorem taskReport_lists (t : Task) (s : State) : Lists s (taskReport t s) := by
  unfold taskReport
  split
  · exact fetchDone_lists _ s
  · exact Lists.refl s
  · exact Lists.refl s
  · exact tripLogDone_lists _ s
  · exact boxWriteDone_lists s

theorem initialDone_lists (s : State) : Lists s (initialDone s) := by
  have h : Lists s (beginTask (s.setAgent { s.agent with initial := .done })) :=
    Lists.from_same (beginTask_lists _) rfl
  unfold initialDone
  refine Lists.before (resumeAccess_lists _) (Lists.before (boxWriteDone_lists _) ?_)
  exact Lists.ite (fun _ => Lists.before (requestTask_lists _ _) h) (fun _ => h)

theorem initialWordEnd_lists (off : Nat) (v : Word) (left : List (Nat × Word)) (s : State) :
    Lists s (initialWordEnd off v left s) := by
  unfold initialWordEnd
  exact Lists.ite (fun _ => Lists.from_same (initialDone_lists _) rfl) (fun _ => Lists.same rfl)

theorem writeAll_lists (l : List (Nat × Word)) (s : State) : Lists s (writeAll l s) := by
  induction l generalizing s with
  | nil => exact Lists.refl s
  | cons p l ih => exact Lists.from_same (ih _) rfl

/-- The first task leaves the list. -/
theorem completeTask_law {s : State} (h : TaskLaw s) : TaskLaw (completeTask s) := by
  unfold completeTask
  split
  · rename_i t ts e
    refine (beginTask_lists _).law ((taskReport_lists _ _).law ?_)
    have c : (clearPass (setTasks ts s)).agent.tasks = ts := by
      unfold clearPass
      split <;> rfl
    intro x hx
    rw [c] at hx
    exact h x (by rw [e]; exact List.mem_cons_of_mem _ hx)
  · exact h

theorem deposit_agent (n : Nat) (s : State) :
    (deposit n s).agent = s.agent ∧ (deposit n s).evw.resultStale = s.evw.resultStale := by
  unfold deposit
  split
  · obtain ⟨a, h⟩ := raiseFactor_attn .event (s.setEvw { s.evw with
      producer := n, queue := _, deposited := s.evw.deposited + 1 })
    rw [h]
    exact ⟨rfl, rfl⟩
  · exact ⟨rfl, rfl⟩

/-- What a word's end leaves of the first task, and of the result mark. -/
theorem wordToPart_tasks {s : State} {t : Task} {ts : List Task} (w : AgentWord)
    (e : s.agent.tasks = t :: ts) :
    (∃ b, (wordToPart w s).agent.tasks = { t with bytes := b } :: ts) ∧
      (w ≠ .result → (wordToPart w s).evw.resultStale = s.evw.resultStale) := by
  cases w with
  | read off =>
    simp only [wordToPart, e]
    exact ⟨⟨_, rfl⟩, fun _ => rfl⟩
  | producer v =>
    simp only [wordToPart]
    obtain ⟨h1, h2⟩ := deposit_agent v s
    exact ⟨⟨t.bytes, by rw [h1, e]⟩, fun _ => h2⟩
  | result => exact ⟨⟨t.bytes, e⟩, fun h => absurd rfl h⟩
  | _ => exact ⟨⟨t.bytes, e⟩, fun _ => rfl⟩

theorem wordToMemory_agent (w : AgentWord) (s : State) :
    (wordToMemory w s).agent = s.agent ∧ (wordToMemory w s).evw = s.evw := by
  unfold wordToMemory
  split <;> exact ⟨rfl, rfl⟩

theorem wordsAfter_or (ws : List AgentWord) (s : State) : wordsAfter ws s = [] ∨ wordsAfter ws s = ws := by
  unfold wordsAfter
  split
  · exact Or.inl rfl
  · exact Or.inr rfl

theorem afterWord_lists (w : AgentWord) (s : State) : Lists s (afterWord w s) := by
  unfold afterWord
  split
  · exact Lists.before (takeWork_lists _) (placeHeld_lists s)
  · exact Lists.refl s

theorem afterWord_plain (w : AgentWord) (s : State) : Plain s (afterWord w s) := by
  unfold afterWord
  split
  · exact (placeHeld_steady s).thenPlain (takeWork_plain _)
  · exact (Steady.refl s).plain

/-- The end of a word of the first task: the words left, the task still first with at most one request taken, and then the task's completion where no word is left. -/
theorem taskWordEnd_spec {s : State} {t : Task} {ts : List Task} {w : AgentWord}
    {ws : List AgentWord} (l : TaskLaw s) (e : s.agent.tasks = t :: ts)
    (k : t.words = some (w :: ws)) :
    ∃ v left b us, taskWordEnd w ws s = (if left = [] then completeTask v else v) ∧
      v.agent.tasks = { t with words := some left, bytes := b } :: us ∧ TaskLaw v ∧
      (left = [] ∨ left = ws) ∧ (lastWord s = false → left = ws ∧ ws ≠ []) ∧ Plain s v ∧
      (w.isProducer = false → Steady s v) := by
  obtain ⟨m1, m2⟩ := wordToMemory_steady w s
  obtain ⟨n1, n2⟩ := wordToMemory_agent w s
  obtain ⟨p1, -⟩ := wordToPart_steady w (wordToMemory w s)
  obtain ⟨⟨b, q1⟩, q2⟩ := wordToPart_tasks (s := wordToMemory w s) (t := t) (ts := ts) w (by rw [n1]; exact e)
  rw [n2] at q2
  unfold taskWordEnd
  simp only
  generalize wordToPart w (wordToMemory w s) = x at p1 q1 q2 ⊢
  have sx : Steady s x := Steady.before p1 m1
  obtain ⟨left, hl⟩ : ∃ left, left = wordsAfter ws x := ⟨_, rfl⟩
  rw [← hl]
  have lw : left = [] ∨ left = ws := by rw [hl]; exact wordsAfter_or ws x
  obtain ⟨u, hu⟩ : ∃ u, u = setWords left x := ⟨_, rfl⟩
  rw [← hu]
  have ut : u.agent.tasks = { t with words := some left, bytes := b } :: ts := by
    rw [hu]
    simp only [setWords, q1]
    rfl
  have su : Steady s u := by
    rw [hu]
    exact Steady.before (setWords_steady left x).1 sx
  have here := l t (by rw [e]; exact List.mem_cons_self ..) _ k
  have lu : TaskLaw u := by
    intro y hy zs hz
    rw [ut] at hy
    rcases List.mem_cons.1 hy with rfl | hy
    · cases hz
      simp only [List.countP_cons] at here
      rcases lw with h | h
      · rw [h]
        simp
      · rw [h]
        exact ⟨Nat.le_trans (Nat.le_add_right _ _) here.1, Nat.le_trans (Nat.le_add_right _ _) here.2⟩
    · exact l y (by rw [e]; exact List.mem_cons_of_mem _ hy) zs hz
  have al := afterWord_lists w u
  obtain ⟨us, hv⟩ := al.head _ ts ut (by simp)
  refine ⟨afterWord w u, left, b, us, ?_, hv, al.law lu, lw, ?_, su.thenPlain (afterWord_plain w u), ?_⟩
  · unfold taskFinished
    rw [hv]
    simp only [beq_iff_eq, Option.some.injEq]
  · intro h
    have hw : headWords s = w :: ws := by simp [headWords, e, k]
    unfold lastWord at h
    rw [hw] at h
    rw [hl]
    unfold wordsAfter
    cases ws with
    | nil => exact absurd h (by simp)
    | cons a as =>
      refine ⟨if_neg fun c => ?_, List.cons_ne_nil _ _⟩
      obtain ⟨c1, c2⟩ := c
      cases c1
      have r : w ≠ .result := by
        rintro rfl
        exact absurd here.2 (by decide)
      rw [q2 r] at c2
      rw [c2] at h
      exact absurd h (by simp)
  · intro h
    refine Steady.before (t := u) ?_ su
    unfold afterWord
    split
    · exact absurd h (by simp [AgentWord.isProducer])
    · exact Steady.refl u

/-- The completion of an event task takes no request. -/
theorem completeTask_event {s : State} {t : Task} {ts : List Task} (e : s.agent.tasks = t :: ts)
    {d : Bool} (k : t.kind = .event d) : Steady s (completeTask s) := by
  unfold completeTask
  rw [e]
  simp only [taskReport, k]
  refine Steady.before (beginTask_steady _) ?_
  unfold clearPass
  exact Steady.ite (fun _ => ⟨rfl, rfl, rfl, rfl⟩) (fun _ => ⟨rfl, rfl, rfl, rfl⟩)

/-- A producer index word is of an event task that deposits, and its last. -/
theorem TaskLaw.producer {s : State} (l : TaskLaw s) {t : Task} {ts : List Task} {w : AgentWord}
    {ws : List AgentWord} (e : s.agent.tasks = t :: ts) (k : t.words = some (w :: ws))
    (p : w.isProducer = true) : t.kind = .event true ∧ ws.countP AgentWord.isProducer = 0 := by
  have h := (l t (by rw [e]; exact List.mem_cons_self ..) _ k).1
  rw [List.countP_cons, if_pos p] at h
  split at h
  · exact ⟨by assumption, by omega⟩
  · omega

/-- What one word's end does: the initial writes go on, nothing moves, or the first task's word ends. -/
theorem agentStep_cases (s : State) :
    (Steady s (agentStep s) ∧ Lists s (agentStep s)) ∨
      (∃ t ts, s.agent.tasks = t :: ts ∧ t.words = some [] ∧ agentStep s = completeTask s) ∨
      (∃ t ts w ws, s.agent.tasks = t :: ts ∧ t.words = some (w :: ws) ∧
        agentStep s = taskWordEnd w ws s) := by
  unfold agentStep
  split
  · exact Or.inl ⟨initialWordEnd_steady _ _ _ s, initialWordEnd_lists _ _ _ s⟩
  · split
    · rename_i t ts e
      split
      · rename_i w ws k
        exact Or.inr (Or.inr ⟨t, ts, w, ws, e, k, rfl⟩)
      · rename_i k
        exact Or.inr (Or.inl ⟨t, ts, e, k, rfl⟩)
      · exact Or.inl ⟨beginTask_steady s, beginTask_lists s⟩
    · exact Or.inl ⟨Steady.refl s, Lists.refl s⟩
  · exact Or.inl ⟨Steady.refl s, Lists.refl s⟩

theorem agentStep_law {s : State} (l : TaskLaw s) : TaskLaw (agentStep s) := by
  rcases agentStep_cases s with ⟨-, h⟩ | ⟨t, ts, e, k, h⟩ | ⟨t, ts, w, ws, e, k, h⟩
  · exact h.law l
  · rw [h]
    exact completeTask_law l
  · obtain ⟨v, left, b, us, g, -, lv, -⟩ := taskWordEnd_spec l e k
    rw [h, g]
    split
    · exact completeTask_law lv
    · exact lv

/-- One word's end takes at most one request. -/
theorem agentStep_once {s : State} (l : TaskLaw s) : Plain s (agentStep s) := by
  rcases agentStep_cases s with ⟨h, -⟩ | ⟨t, ts, e, k, h⟩ | ⟨t, ts, w, ws, e, k, h⟩
  · exact h.plain
  · rw [h]
    exact completeTask_plain s
  · obtain ⟨v, left, b, us, g, hv, -, -, -, pv, sv⟩ := taskWordEnd_spec l e k
    rw [h, g]
    split
    · cases p : w.isProducer
      · exact (sv p).thenPlain (completeTask_plain v)
      · exact pv.thenSteady (completeTask_event hv (l.producer e k p).1)
    · exact pv

/-- A word that is not the last of the first task. -/
theorem agentStep_more {s : State} (l : TaskLaw s) (m : lastWord s = false) :
    (Steady s (agentStep s) ∧ Lists s (agentStep s)) ∨
      ∃ t ts w ws b us, s.agent.tasks = t :: ts ∧ t.words = some (w :: ws) ∧
        (agentStep s).agent.tasks = { t with words := some ws, bytes := b } :: us ∧
        Plain s (agentStep s) ∧ (w.isProducer = false → Steady s (agentStep s)) := by
  rcases agentStep_cases s with h | ⟨t, ts, e, k, h⟩ | ⟨t, ts, w, ws, e, k, h⟩
  · exact Or.inl h
  · have : lastWord s = true := by simp [lastWord, headWords, e, k]
    rw [this] at m
    cases m
  · obtain ⟨v, left, b, us, g, hv, -, -, lm, pv, sv⟩ := taskWordEnd_spec l e k
    obtain ⟨h1, h2⟩ := lm m
    rw [h1, if_neg h2] at g
    rw [h1] at hv
    exact Or.inr ⟨t, ts, w, ws, b, us, e, k, by rw [h, g]; exact hv, by rw [h, g]; exact pv,
      by rw [h, g]; exact sv⟩

/-- The rest of an event task after its deposit. -/
theorem runTask_event (n : Nat) {s : State} (l : TaskLaw s) {t : Task} {ts : List Task}
    (e : s.agent.tasks = t :: ts) {d : Bool} (kd : t.kind = .event d) {ws : List AgentWord}
    (k : t.words = some ws) (z : ws.countP AgentWord.isProducer = 0) : Steady s (runTask n s) := by
  induction n generalizing s t ts ws with
  | zero => exact Steady.refl s
  | succ n ih =>
    unfold runTask
    split
    · rcases agentStep_cases s with ⟨h, -⟩ | ⟨t', ts', e', k', h⟩ | ⟨t', ts', w, ws', e', k', h⟩
      · exact h
      · rw [h]
        rw [e] at e'
        cases e'
        exact completeTask_event e kd
      · rw [e] at e'
        cases e'
        rw [k] at k'
        cases k'
        obtain ⟨v, left, b, us, g, hv, -, -, -, -, sv⟩ := taskWordEnd_spec l e k
        rw [List.countP_cons] at z
        have p : w.isProducer = false := by
          cases p : w.isProducer
          · rfl
          · rw [if_pos p] at z
            omega
        rw [h, g]
        split
        · exact Steady.before (completeTask_event hv kd) (sv p)
        · exact sv p
    · rename_i m
      rcases agentStep_more l (by simpa using m) with ⟨h1, h2⟩ | ⟨t', ts', w, ws', b, us, e', k', hv, -, sv⟩
      · obtain ⟨us, hu⟩ := h2.head t ts e (by rw [k]; simp)
        exact Steady.before (ih (agentStep_law l) hu kd k z) h1
      · rw [e] at e'
        cases e'
        rw [k] at k'
        cases k'
        rw [List.countP_cons] at z
        have p : w.isProducer = false := by
          cases p : w.isProducer
          · rfl
          · rw [if_pos p] at z
            omega
        exact Steady.before (ih (agentStep_law l) hv kd rfl (by omega)) (sv p)

/-- The run of a task's words takes at most one request. -/
theorem runTask_once (n : Nat) {s : State} (l : TaskLaw s) : Plain s (runTask n s) := by
  induction n generalizing s with
  | zero => exact (Steady.refl s).plain
  | succ n ih =>
    unfold runTask
    split
    · exact agentStep_once l
    · rename_i m
      rcases agentStep_more l (by simpa using m) with ⟨h, -⟩ | ⟨t, ts, w, ws, b, us, e, k, hv, pv, sv⟩
      · exact h.thenPlain (ih (agentStep_law l))
      · cases p : w.isProducer
        · exact (sv p).thenPlain (ih (agentStep_law l))
        · obtain ⟨kd, z⟩ := l.producer e k p
          exact pv.thenSteady (runTask_event n (agentStep_law l) hv kd rfl z)

theorem runTask_law (n : Nat) {s : State} (l : TaskLaw s) : TaskLaw (runTask n s) := by
  induction n generalizing s with
  | zero => exact l
  | succ n ih =>
    unfold runTask
    split
    · exact agentStep_law l
    · exact ih (agentStep_law l)

theorem runToDeposit_law (n : Nat) {s : State} (l : TaskLaw s) : TaskLaw (runToDeposit n s) := by
  induction n generalizing s with
  | zero => exact l
  | succ n ih =>
    unfold runToDeposit
    split
    · exact agentStep_law l
    · exact ih (agentStep_law l)

/-- The run up to the deposit takes at most one request. -/
theorem runToDeposit_once (n : Nat) {s : State} (l : TaskLaw s) {t : Task} {ts : List Task}
    (e : s.agent.tasks = t :: ts) {ws : List AgentWord} (k : t.words = some ws)
    (z : ws.any AgentWord.isProducer = true) : Plain s (runToDeposit n s) := by
  induction n generalizing s t ts ws with
  | zero => exact (Steady.refl s).plain
  | succ n ih =>
    unfold runToDeposit
    split
    · exact agentStep_once l
    · rename_i m
      have hw : headWords s = ws := by simp [headWords, e, k]
      cases ws with
      | nil => exact absurd z (by simp)
      | cons w ws =>
        have p : w.isProducer = false := by
          cases w <;> first | rfl | (exfalso; simp [nextIsProducer, hw] at m)
        have z' : ws.any AgentWord.isProducer = true := by simpa [p] using z
        have lm : lastWord s = false := by
          unfold lastWord
          rw [hw]
          match ws, z' with
          | [a], z' => cases a <;> first | rfl | (exfalso; simp [AgentWord.isProducer] at z')
          | a :: _ :: _, _ => cases a <;> rfl
        rcases agentStep_more l lm with ⟨h1, h2⟩ | ⟨t', ts', w', ws', b, us, e', k', hv, -, sv⟩
        · obtain ⟨us, hu⟩ := h2.head t ts e (by rw [k]; simp)
          exact h1.thenPlain (ih (agentStep_law l) hu k z)
        · rw [e] at e'
          cases e'
          rw [k] at k'
          cases k'
          exact (sv p).thenPlain (ih (agentStep_law l) hv rfl z')

/-! ### The resets -/

theorem releaseReset_lists (s : State) : Lists s (releaseReset s) := by
  have h : Lists s (sampleLines s) := by
    unfold sampleLines
    simp only
    split <;> exact Lists.same rfl
  have l : ∀ u, Lists u (restartHoldoff (latch u)) := fun _ => Lists.same rfl
  have b : ∀ u, Lists u (beginInitial (presentConditions u)) := fun _ => Lists.same rfl
  unfold releaseReset
  exact Lists.before (arbitrate_lists _) (Lists.before (placeHeld_lists _)
    (Lists.before (resumeAccess_lists _) (Lists.before (b _)
    (Lists.before (Lists.of_quiet (tripTest_quiet _)) (Lists.before
    (Lists.of_quiet (resumeCall_quiet _)) (Lists.before (Lists.of_quiet (checkReady_quiet _))
    (Lists.before (l _) (Lists.before (Lists.of_quiet (startSupervisor_quiet _)) h))))))))

/-- An empty list has its law. -/
theorem TaskLaw.empty {s : State} (h : s.agent.tasks = []) : TaskLaw s := by
  intro t ht
  rw [h] at ht
  cases ht

end Sys2Proof.Machine
end

