-- ==== Sys2Proof/WellFormed.lean ====
section
/-! DEFINITION. Which operands a command may carry on this hardware: what the part's own checks before the owner leave possible. -/

namespace Sys2Proof

open Machine

/-- A frame the dispatcher can hand over: a body within the limit (R49) and a scope its class allows (R56). -/
def DownFrame.wellFormed (c : DownClass) (f : DownFrame) : Bool :=
  decide (f.body.length ≤ Config.bodyMax) && scopeAllowed c (scopeOf f.flags)

/-- An access names at least one byte lane. Table 2 sets no minimum and Table 37 would have a write with none a partial one; that such an access is not presented is the model's choice (log entry 35), and the meanings take it as Table 37 does. -/
def Access.wellFormed (a : Access) : Bool := a.lanes != 0

/-- Whether a word offset is one of the words a settings or position record is made of (R161). -/
def recordWord (off : Half) : Bool :=
  decide (off.toNat % 4 = 0) &&
    (decide (off.toNat < 0x003C) || (decide (0x0060 ≤ off.toNat) && decide (off.toNat < 0x006C)))

/-- Whether a word offset is a guarded one or in the live meter zone (R162). -/
def guardedWord (off : Half) : Bool :=
  decide (off.toNat % 4 = 0) &&
    (treatment off.toNat == .guard || treatment off.toNat == .liveZone)

/-- Well-formed commands. The lanes of a word write are those of the access that makes it (log entry 35). -/
def Instr.wellFormed : Instr → Bool
  | .offer f => f.wellFormed .offer
  | .award f => f.wellFormed .award
  | .reject f => f.wellFormed .reject
  | .withdraw f => f.wellFormed .withdraw
  | .text f => f.wellFormed .text
  | .tariff f => f.wellFormed .tariff
  | .alarmAck f => f.wellFormed .alarmAck
  | .alarmEnd f => f.wellFormed .alarmEnd
  | .ack f => f.wellFormed .ack
  | .poll f => f.wellFormed .poll
  | .channel f => f.wellFormed .channel
  | .sendText _ _ t => decide (t.length ≤ 122)
  | .requestUnknown _ code => !requestKnown code
  | .processorAccess a => a.wellFormed
  | .snoopedWordWrite off lanes _ => recordWord off && lanes != 0
  | .guardViolation off lanes _ => guardedWord off && lanes != 0
  | _ => true

end Sys2Proof
end

