-- ==== Sys2Proof/Tests/Slice0.lean ====
section
/-! SUPPORT. Small tests: what the well-formedness check refuses, one step of worked cases, and for each statement a concrete state and operands that meet the hypotheses of its clauses. -/

namespace Sys2Proof.Tests

open Sys2Proof Sys2Proof.Machine

set_option maxRecDepth 100000

/-! ### Small states -/

/-- A released part in channel access: CD high (so that a draw never keys at once), RDY high, cab 7, the area served. -/
def live : State :=
  { State.reset with
    phase := .running
    pins := { cd := true, rdy := true, esw := true, base1 := false, base0 := false }
    clock := 100
    path := { Path.reset with base := some 0x3F0000 }
    agent := { tasks := [], initial := .done }
    settings := { SettingsShadow.reset with
      accepted := { Settings.default with cab := 7 }, firstCommit := false }
    link := { Link.reset with state := .listen } }

def onLink (l : LinkState) : State := live.setLink { live.link with state := l }

def tariffA : Tariff :=
  { version := 7, flagDrop := 300, stepAmount := 10, distanceInc := 600000, timeInc := 500000,
    slowThreshold := 5 }

def copyA : ActiveCopy := { slot := 1, tariff := tariffA }

def tripA : TripRecord :=
  { number := 1, offerId := none, start := 90, finish := 0, hiredPulses := 0, holdSecs := 0,
    fare := 0, extras := 0, total := 0, peak := 0, emergency := false, pulseFault := false,
    fareCap := false, unreported := false, truncated := false,
    segments := [{ slot := 1, version := 7, steps := 0 }] }

/-- VACANT with tariff slot 1 loaded. -/
def vacant : State :=
  live.setMeter { live.meter with slots := [none, some tariffA, none, none] }

/-- A hiring with an accumulator value and a pending change. -/
def charging (m : MeterState) (acc : Nat) (c : Option PendingChange) : State :=
  (vacant.setMeter { vacant.meter with
    state := m, active := some copyA, acc := acc, fare := 300, change := c }).setTrip
      { live.trip with next := 2, openTrip := some tripA }

def hired : State := charging .hired 0 none
def onHold : State := charging .hold 0 none

/-- A queue with n events in it. -/
def withEvents (n : Nat) (s : State) : State :=
  s.setEvw { s.evw with queue := List.replicate n { tag := 0, time := 0, payload := .jobCancelled 1 } }

def ent (c : UpClass) (q : Nat) (st : EntryState) (used : Nat) (ref : OwnerRef) : Entry :=
  { cls := c, seq := q, body := [], tracking := false, cancelled := false, ref := ref,
    attempts := used, state := st, answered := false, abandon := false, ackTimer := none,
    time := q }

def withEntries (es : List Entry) (s : State) : State := s.setUplink { s.uplink with entries := es }

def off (st : OfferState) (id : Word) (n : Nat) : Offer :=
  { state := st, id := id, zone := 3, kind := .openCall, text := [], truncated := false,
    remaining := some 5, progress := none, bidSeq := none, deferred := none, tag := 9,
    reason := none, held := none, admitted := n }

def withOffers (os : List (Option Offer)) (s : State) : State :=
  s.setOffers { s.offers with entries := os ++ List.replicate (8 - os.length) none,
                              driverDuty := .free }

def held (n : Nat) : HeldReport := { order := n, event := { tag := 9, time := 1, payload := .jobCancelled 1 } }

def fr (flags : Byte) (body : List Byte) : DownFrame :=
  { flags := flags, addr := 7, seq := 5, body := body, doneAt := 99 }

def calling (st : EmState) : State :=
  live.setEmerg { live.emerg with state := st, round := 1, attempt := 1, repeatTimer := some 5,
                                  cooldownTimer := some 60, trackTimer := some 30,
                                  graceTimer := some 10 }

def task (k : TaskKind) (ws : List AgentWord) : Task :=
  { kind := k, words := some ws, bytes := [], number := 1 }

def withTask (t : Task) (s : State) : State := s.setAgent { s.agent with tasks := [t] }

/-- One stored reception: the deframer's state and the characters stored. -/
def receivingIn (d : Deframing) (bs : List Byte) : State :=
  live.setRx { live.rx with deframer := d, stored := bs, bufA := .filling }

/-! ### What the check refuses -/

theorem test_wf_body_too_long : Instr.wellFormed (.poll (fr 0 (List.replicate 151 0))) = false := by
  decide
theorem test_wf_body_longest : Instr.wellFormed (.poll (fr 0 (List.replicate 150 0))) = true := by
  decide
theorem test_wf_offer_scope : Instr.wellFormed (.offer (fr 3 [])) = false := by decide
theorem test_wf_award_scope : Instr.wellFormed (.award (fr 1 [])) = false := by decide
theorem test_wf_reject_scope : Instr.wellFormed (.reject (fr 2 [])) = false := by decide
theorem test_wf_withdraw_scope : Instr.wellFormed (.withdraw (fr 3 [])) = false := by decide
theorem test_wf_text_scope : Instr.wellFormed (.text (fr 3 [])) = false := by decide
theorem test_wf_tariff_scope : Instr.wellFormed (.tariff (fr 1 [])) = false := by decide
theorem test_wf_alarm_ack_scope : Instr.wellFormed (.alarmAck (fr 2 [])) = false := by decide
theorem test_wf_alarm_end_scope : Instr.wellFormed (.alarmEnd (fr 1 [])) = false := by decide
theorem test_wf_ack_scope : Instr.wellFormed (.ack (fr 1 [])) = false := by decide
theorem test_wf_channel_scope : Instr.wellFormed (.channel (fr 3 [])) = false := by decide
theorem test_wf_text_length : Instr.wellFormed (.sendText 1 1 (List.replicate 123 65)) = false := by
  decide
theorem test_wf_request_known : Instr.wellFormed (.requestUnknown 1 0x0F) = false := by decide
theorem test_wf_request_unknown : Instr.wellFormed (.requestUnknown 1 0x10) = true := by decide
theorem test_wf_access_lanes :
    Instr.wellFormed (.processorAccess { addr := 0, lanes := 0, write := none }) = false := by decide
theorem test_wf_snooped_offset : Instr.wellFormed (.snoopedWordWrite 0x0044 0xF 0) = false := by
  decide
theorem test_wf_snooped_lanes : Instr.wellFormed (.snoopedWordWrite 0x0000 0 0) = false := by decide
theorem test_wf_guarded_offset : Instr.wellFormed (.guardViolation 0x0040 0xF 0) = false := by decide
theorem test_wf_guarded_lanes : Instr.wellFormed (.guardViolation 0x0044 0 0) = false := by decide

/-! ### Worked cases -/

/-- Nine ASCII digits give the check value of the CRC R47 names (x^16 + x^12 + x^5 + 1, initial 0xFFFF). -/
theorem test_crc : crc16 [0x31, 0x32, 0x33, 0x34, 0x35, 0x36, 0x37, 0x38, 0x39] = 0x29B1 := by decide

theorem test_no_word_spells_a_command : decodeTableWord 16 0x1234 = none := by decide

theorem test_reset_is_vacant : State.reset.meter.state = .vacant ∧ State.reset.pending = [] := by
  decide

/-- The next state a command answers, for projections. -/
def after (o : Out) : State :=
  match o with
  | .next t => t
  | _ => State.reset

theorem test_hire_event :
    ((after (exec (.meterHire 4 1) vacant)).evw.queue.map (·.payload)).head? =
      some (.meterState 0x05 .vacant .hired (some 1) none 300 0 0 0 0) := by decide

theorem test_two_pulses_take_a_step :
    (after (exec .odoPulse (charging .hired 500000 none))).meter.acc = 51424 ∧
      (after (exec .odoPulse (charging .hired 500000 none))).meter.fare = 310 := by decide

theorem test_fare_cap :
    (after (exec .odoPulse ((charging .hired 500000 none).setMeter
      { (charging .hired 500000 none).meter with fare := 9999995 }))).meter.fareCap = true := by decide

theorem test_tick_charges_time :
    (after (exec .secondTick hired)).meter.acc = 500000 ∧
      (after (exec .secondTick hired)).clock = 101 := by decide

/-- Of an END row and the SECOND_TICK of the same tick one counts the timers: the power-off timer that the first starts keeps its whole second, and another timer loses one. -/
theorem test_one_count_at_a_tick :
    let s := ((onLink .listen).setSup { live.sup with stuckBusy := some 1 }).setTrip
      { live.trip with holdoff := some 9 }
    let t := after (exec .stuckBusyTimerEnd s)
    let u := after (exec .secondTick t)
    t.link.state = .powerOff ∧ t.sup.powerOff = some live.settings.accepted.powerOffTime ∧
      u.sup.powerOff = t.sup.powerOff ∧ u.trip.holdoff = some 8 ∧
      (after (exec .secondTick u)).trip.holdoff = some 7 := by decide

/-- R103 and R90: at the tick that ends the ready timer, a rise of RDY or a commit taken first starts a timer that this tick does not count; the holdoff counts it once. -/
theorem test_taken_before_the_ready_timer_ends :
    let w := (((onLink .powerOnWait).setSup { live.sup with ready := some 1 }).setTrip
      { live.trip with holdoff := some 9 }).setPins { live.pins with rdy := false }
    let tick (s : State) := after (exec .secondTick (after (exec .readyTimerEnd s)))
    (tick (after (exec .rdyRise w))).sup.healthy = some 60 ∧
      (tick (after (exec .rdyRise w))).trip.holdoff = some 8 ∧
      (tick (restartLink 5 w)).link.state = .powerOnWait ∧ (tick (restartLink 5 w)).sup.ready = some 5 ∧
      (after (exec .secondTick (tick (restartLink 5 w)))).sup.ready = some 4 ∧
      (tick w).link.state = .powerOff := by decide

/-- R157 and R138: an ALARM_ACK taken first at the tick that ends the repeat timer starts a tracking timer of 30 s, which this tick does not count; the grace timer counts it. -/
theorem test_answered_before_the_repeat_timer_ends :
    let s := live.setEmerg { live.emerg with
      state := .calling, round := 1, attempt := 8, repeatTimer := some 1, graceTimer := some 4 }
    let t := after (exec .secondTick (after (exec .repeatTimerEnd (after (exec (.alarmAck (fr 0 [])) s)))))
    t.emerg.state = .tracking ∧ t.emerg.trackTimer = some 30 ∧ t.emerg.graceTimer = some 3 := by decide

/-- R172: with places free the EMERGENCY_STATE of a raise is placed at the raise (spec/08 Table 35, row 2); R124: a coincident ACCEPT of an OPEN entry it closed is refused EMERGENCY. -/
theorem test_raise_reports :
    (after (exec (.alarmRaise 2) live)).evw.queue.length = 1 ∧
      (after (exec (.alarmRaise 2) live)).emerg.report = none ∧
      (after (exec (.accept 3 9) (after (exec (.alarmRaise 2)
        (withOffers [some (off .open 9 0)] live))))).evw.queue.map (·.payload) =
          [.refused 0x01 .emergency] := by decide

theorem test_clear_empties :
    (after (exec (.meterClear 4) onHold)).meter.state = .vacant ∧
      (after (exec (.meterClear 4) onHold)).trip.backlog.length = 1 := by decide

theorem test_unknown_request :
    ((after (exec (.requestUnknown 2 0x40) live)).evw.queue.map (·.payload)) =
      [.refused 0x40 .unknown] := by decide

theorem test_drop_on_a_full_queue :
    (after (exec (.meterStop 1) (withEvents 16 hired))).evw.lost = 1 := by decide

theorem test_offer_admitted :
    ((after (exec (.offer (fr 2 [0, 0, 0, 9, 0, 3, 0, 20, 1, 65])) (withOffers [] live))).offers.entries.head?.join).map
      (fun o => (o.id, o.remaining, o.text)) = some (9, some 20, [65]) := by decide

theorem test_accept_bids :
    (after (exec (.accept 3 9) (withOffers [some (off .open 9 0)] live))).uplink.entries.map
      (fun e => (e.cls, e.seq, e.state)) = [(.bid, 0, .queued)] := by decide

theorem test_award_of_the_bid :
    ((after (exec (.award (fr 0 [0, 0, 0, 9]))
      (withOffers [some { off .bidSent 9 0 with progress := some .acked }] live))).offers.entries.head?.join).map
        (·.state) = some .awarded := by decide

theorem test_decline_report :
    (after (exec (.decline 3 9) (withOffers [some (off .open 9 0)] live))).evw.queue.map
      (fun e => (e.tag, e.payload)) = [(3, .offerClosed 9 .declined .noneOffered)] := by decide

theorem test_raise_captures :
    ((after (exec (.alarmRaise 2) live)).emerg.box.map (·.source)) = some .request ∧
      (after (exec (.alarmRaise 2) live)).emerg.state = .calling := by decide

theorem test_keyup_sends_the_preamble :
    ((after (exec .keyupDelayEnd (withEntries [ent .status 3 .queued 0 .none]
      (onLink .keyup)))).link.tx.take 6) = [0x55, 0x55, 0x55, 0x55, 0xC3, 0x3C] := by decide

theorem test_sync_claims :
    (after (exec (.rxdCharacter ⟨true, 0x3C⟩ false true true)
      (live.setRx { live.rx with deframer := .syncHalf }))).rx.bufA = .filling := by decide

theorem test_poll_frame_received :
    (after (exec (.rxdCharacter ⟨true, 0x00⟩ false true true)
      (receivingIn .check [0x1A, 0, 0, 7, 5, 0, 0]))).rx.badRun = 1 := by decide

/-- A second READY frame is not taken while a report waits for a place. -/
theorem test_reports_go_before_work :
    let s := withEvents 14 ((live.setTrip { live.trip with reports := [held 3] }).setRx
      { live.rx with bufA := .ready 0x1A (fr 0 []) 0 })
    (takeWork s).evw.queue.length = 15 ∧ (takeWork s).rx.bufA = .ready 0x1A (fr 0 []) 0 := by decide

theorem test_commit_busy :
    (after (exec (.settingsCommit 5) hired)).settings.result =
      { tag := 5, outcome := .busy, field := 0 } := by decide

theorem test_commit_range :
    (after (exec (.settingsCommit 5) live)).settings.result =
      { tag := 5, outcome := .range, field := 1 } := by decide

theorem test_guarded_write :
    (after (exec (.guardViolation 0x0044 0xF 1) live)).path.guardCount = 1 := by decide

theorem test_attention_cleared :
    (after (exec (.attentionWordWrite 0xFFFFFFFF)
      (live.setAttn { live.attn with factors := 0x003 }))).attn.factors = 0 := by decide

theorem test_memory_written :
    Memory.readWord (after (exec (.requestProducerIndexWrite 0x0000000F) live)).mem 0x3F0040 = 0xF ∧
      MemoryLaw (after (exec (.requestProducerIndexWrite 0x0000000F) live)) := by
  unfold MemoryLaw; decide

/-! ### A state and operands for the hypotheses of each statement, clause by clause -/

theorem wit_step : (live.setPending [.secondTick]).pending = .secondTick :: [] ∧ live.pending = [] := by
  decide

theorem wit_terminal_reset :
    live.phase = .running ∧ (live.path.port = .free ∧ processorWaits live = false ∧
      agentReady live = false) := by decide

/-- The port carries the processor's write, its read, nothing in hand, an initial write, and each kind of task word; or it is free with a claimant that the assertion grants. -/
theorem wit_terminal_reset_port :
    let w : Access := { addr := 0x100, lanes := 0xF, write := some 5 }
    let r : Access := { addr := 0x100, lanes := 0xF, write := none }
    let on (a : Access) := live.setPath
      { live.path with port := .processor, inHand := some { access := a, stage := .onPort } }
    let ag := live.setPath { live.path with port := .agent }
    let i (l : List (Nat × Word)) := ag.setAgent { live.agent with initial := .writing l }
    let t (x : AgentWord) := withTask (task .index [x]) ag
    let waiting := live.setPath { live.path with inHand := some { access := w, stage := .waiting } }
    (arbitrate (on w) = on w ∧ (on w).path.port = .processor ∧ w.write = some 5 ∧
      r.write = none ∧ (on r).path.port = .processor) ∧
    ((live.setPath { live.path with port := .processor }).path.inHand = none) ∧
    (arbitrate (i [(0x4000, 1)]) = i [(0x4000, 1)] ∧ (i []).agent.initial = .writing []) ∧
    ((ag.setAgent { ag.agent with initial := .notBegun }).agent.initial = .notBegun ∧
      ag.agent.initial = .done ∧ headWords ag = []) ∧
    ([.read 0x800, .write 0x44 1, .producer 1, .generated, .lost, .result].map
      (fun x => headWords (t x)) = [[.read 0x800], [.write 0x44 1], [.producer 1], [.generated],
        [.lost], [.result]] ∧ arbitrate (t .lost) = t .lost) ∧
    (live.path.port = .free ∧ (arbitrate (withTask (task .index [.producer 1]) live)).path.port = .agent ∧
      (arbitrate waiting).path.port = .processor) := by decide

/-- A deposit word on the port at the assertion reaches memory, whatever kind of word it is. -/
theorem test_assertion_finishes_the_producer_word :
    Memory.readByte (after (exec .resetAssert
      (withTask (task (.event true) [.producer 9]) live))).mem 0x3F0048 = 9 := by decide

/-- Both first states, with and without a cab number, RDY low and high, and each emergency state. -/
theorem wit_release :
    let r := live.setPhase .terminalReset
    let e (st : EmState) := (calling st).setPhase .terminalReset
    (State.reset.phase ≠ .running ∧ State.reset.settings.accepted.cab = 0 ∧
      State.reset.pins.rdy = false ∧ State.reset.emerg.state = .quiet) ∧
    (r.phase ≠ .running ∧ r.settings.accepted.cab ≠ 0 ∧ r.pins.rdy = true) ∧
    ((r.setPins { r.pins with rdy := false }).pins.rdy = false) ∧
    ((e .calling).phase ≠ .running ∧ (e .calling).emerg.state = .calling ∧
      (e .cooldown).emerg.state = .cooldown ∧ (e .tracking).emerg.state = .tracking ∧
      (e .exhausted).emerg.state = .exhausted) := by decide

theorem wit_lines :
    let t := (onLink .sending).setLink { (onLink .sending).link with tx := [0x55] }
    (ptt (onLink .keyup) = true ∧ rpwr (onLink .failed) = false ∧ rpwr live = true) ∧
    (t.link.state = .sending ∧ txdLine 0 t = false ∧ txdLine 1 t = true ∧ txdLine 2 t = false ∧
      txdLine 9 t = true ∧ txdLine 10 t = true) ∧
    (onLink .tail).link.state ≠ .sending ∧
    (strapBase { live.pins with base1 := false, base0 := false } = 0x3F0000 ∧
      strapBase { live.pins with base1 := false, base0 := true } = 0x7F0000 ∧
      strapBase { live.pins with base1 := true, base0 := false } = 0xBF0000 ∧
      strapBase { live.pins with base1 := true, base0 := true } = 0xFF0000) := by decide

/-- Port quiet; a waiting trip-log write and none; each mark of the black box; a held access for each way it is treated. -/
theorem wit_initial_writes :
    let s := live.setAgent { live.agent with initial := .writing [(0x0044, 0)] }
    let h (x : Addr) (v : Option Word) (l : BitVec 4) (u : State) :=
      u.setPath { u.path with inHand := some { access := Access.mk x l v, stage := .held } }
    let at' (x : Addr) := offsetIn 0x3F0000 (Access.mk x 0xF none)
    (s.agent.initial = .writing [(0x0044, 0)] ∧ portQuiet s = true) ∧
    (live.trip.logWrite = none ∧
      (live.setTrip { live.trip with logWrite := some tripA }).trip.logWrite ≠ none) ∧
    (live.emerg.boxMark ≠ .rewrite ∧
      (live.setEmerg { live.emerg with boxMark := .rewrite }).emerg.boxMark = .rewrite) ∧
    (live.path.inHand = none ∧ (h 0 none 0xF live).path.inHand ≠ none ∧ State.reset.path.base = none ∧
      (h 0 none 0xF s).agent.initial ≠ .done) ∧
    (at' 0x3EFFFC = none ∧ at' 0x3F0200 = some 0x0200 ∧ at' 0x3F0040 = some 0x0040 ∧
      at' 0x3F0044 = some 0x0044 ∧ at' 0x3F0070 = some 0x0070 ∧ at' 0x3F0100 = some 0x0100 ∧
      at' 0x3F0104 = some 0x0104) ∧
    (treatment 0x0200 = .free ∧ treatment 0x0040 = .snoop ∧ treatment 0x0044 = .guard ∧
      treatment 0x0070 = .attention ∧ treatment 0x0100 = .liveZone ∧ treatment 0x0104 = .liveZone) := by
  decide

/-- The end of the initial writes answers a held read of the attention word, begins the waiting trip-log write and clears the mark. -/
theorem test_initial_done :
    let u := ((live.setAgent { live.agent with initial := .writing [(0x0044, 0)] }).setPath
      { live.path with inHand := some ⟨⟨0x3F0070, 0xF, none⟩, .held⟩ }).setEmerg
          { live.emerg with boxMark := .pending }
    let t := after (exec .initialWritesDone (u.setTrip { u.trip with logWrite := some tripA }))
    t.path.answer = some 0 ∧ t.path.inHand = none ∧ t.emerg.boxMark = .clear ∧
      t.agent.tasks.map (·.kind) = [.tripLog] ∧ t.path.port = .agent := by decide

theorem wit_events_at_once :
    ((withEvents 15 live).phase = .running ∧ (withEvents 15 live).evw.queue.length < 16) ∧
    16 ≤ (withEvents 16 live).evw.queue.length ∧ State.reset.phase ≠ .running := by decide

/-- One state for each block that holds a report, the queue with one place left. -/
theorem wit_held_report :
    let a := withEvents 15 (withOffers [some { off .closing 9 0 with held := some (held 4) }] live)
    let b := withEvents 15 (live.setPool { live.pool with slots :=
      [some { tag := 1, ref := none, held := some (held 2), attempts := some 1 }] })
    let c := withEvents 15 (live.setTrip { live.trip with reports := [held 3] })
    let d := withEvents 15 (live.setSettings { live.settings with report := some (held 1) })
    let e := setEmReport .cancel 4 (withEvents 15 live)
    (heldReports a = [(4, .offer 0)] ∧ heldReports b = [(2, .slot 0)] ∧
      heldReports c = [(3, .trip)] ∧ heldReports d = [(1, .settings)] ∧
      heldReports e = [(0, .emergency)] ∧ e.emerg.report.isSome = true) ∧
    (a.phase = .running ∧ a.evw.queue.length < 16) ∧
    heldReports live = [] ∧ 16 ≤ (withEvents 16 c).evw.queue.length ∧
    ((c.setPhase .terminalReset).phase ≠ .running ∧ heldReports (c.setPhase .terminalReset) ≠ []) := by
  decide

/-- Of two held reports the one produced earlier takes the last place. -/
theorem test_held_report_earliest :
    let s := (withEvents 15 (live.setTrip { live.trip with reports := [held 3] })).setSettings
      { live.settings with report := some (held 1) }
    (placeHeld s).settings.report = none ∧ (placeHeld s).trip.reports = [held 3] ∧
      (placeHeld s).evw.generated = 1 := by decide

theorem wit_pulse_limits :
    let r := hired.setMeter { hired.meter with secondCount := 400 }
    let a := vacant.setMeter { vacant.meter with secondCount := 399 }
    (r.phase ≠ .fullReset ∧ r.settings.accepted.maxPulses ≠ 0 ∧
      r.settings.accepted.maxPulses ≤ r.meter.secondCount) ∧
    (a.meter.secondCount < a.settings.accepted.maxPulses ∧ a.meter.state ≠ .hired) := by decide

/-- Below, at and above the threshold, without and with a pending change. -/
theorem wit_pulse_charges :
    let c : PendingChange := { kind := .select, slot := 1 }
    (hired.phase ≠ .fullReset ∧ hired.meter.state = .hired ∧ hired.meter.active = some copyA ∧
      hired.meter.secondCount < hired.settings.accepted.maxPulses) ∧
    (charging .hired 448575 none).meter.acc + tariffA.distanceInc < 1048576 ∧
    1048576 ≤ (charging .hired 448576 none).meter.acc + tariffA.distanceInc ∧
    (charging .hired 448576 none).meter.change = none ∧
    (charging .hired 448576 (some c)).meter.change = some c ∧
    slotTariff (charging .hired 448576 (some c)).meter 1 = some tariffA := by decide

theorem wit_segments :
    let s := charging .hired 448576 (some { kind := .select, slot := 1 })
    let g : Segment := { slot := 1, version := 7, steps := 0 }
    (s.trip.openTrip = some tripA ∧ tripA.segments = [] ++ [g] ∧ tripA.segments.length < 6) ∧
    6 ≤ ({ tripA with segments := List.replicate 5 g ++ [g] } : TripRecord).segments.length := by
  decide

theorem wit_tick_meter :
    let f := hired.setMeter { hired.meter with secondCount := 5 }
    let c : PendingChange := { kind := .select, slot := 1 }
    (hired.phase ≠ .fullReset ∧ hired.meter.state = .hired ∧ hired.meter.active = some copyA ∧
      hired.meter.secondCount < tariffA.slowThreshold) ∧
    (charging .hired 548575 none).meter.acc + tariffA.timeInc < 1048576 ∧
    (1048576 ≤ (charging .hired 548576 none).meter.acc + tariffA.timeInc ∧
      (charging .hired 548576 none).meter.change = none) ∧
    ((charging .hired 548576 (some c)).meter.change = some c ∧
      slotTariff (charging .hired 548576 (some c)).meter c.slot = some tariffA) ∧
    (f.meter.active = some copyA ∧ tariffA.slowThreshold ≤ f.meter.secondCount) ∧
    vacant.meter.state ≠ .hired := by decide

/-- Every timer runs with 2 s left. -/
theorem wit_tick_timers :
    let s := ((withOffers [some { off .open 9 0 with remaining := some 2 }] vacant).setSup
      { live.sup with healthy := some 2, ready := some 2 }).setTrip { live.trip with holdoff := some 2 }
    s.phase = .running ∧ s.meter.state ≠ .hired ∧ heldReports s = [] ∧ s.link.clock = none ∧
      s.sup.healthy = some 2 ∧ s.sup.ready = some 2 ∧ s.sup.powerOff = none ∧
      s.sup.stuckBusy = none ∧ s.emerg.repeatTimer = none ∧ s.emerg.cooldownTimer = none ∧
      s.emerg.trackTimer = none ∧ s.emerg.graceTimer = none ∧ s.trip.holdoff = some 2 ∧
      (s.offers.entries.filterMap id).map (·.remaining) = [some 2] := by decide

/-- Each end row at a tick not counted yet with 1 s and 2 s left, and at a tick counted with 0 s and 1 s left. -/
theorem wit_timer_ends :
    let u (b : Bool) (n : Nat) (l : LinkState) := openTick (markTick b (((onLink l).setSup
      { live.sup with healthy := some n, ready := some n, powerOff := some n,
                      stuckBusy := some n }).setTrip { live.trip with holdoff := some n }))
    let e (b : Bool) (n : Nat) (st : EmState) := openTick (markTick b (live.setEmerg { live.emerg with
      state := st, repeatTimer := some n, cooldownTimer := some n, trackTimer := some n,
      graceTimer := some n }))
    let w (b : Bool) (n : Nat) :=
      openTick (markTick b (withOffers [some { off .open 9 0 with remaining := some n }] live))
    let a (b : Bool) (n : Nat) := openTick (markTick b (withOffers [some { off .bidSent 9 0 with
      remaining := some n, progress := some .acked }] live))
    let d := (onLink .contend).setLink { (onLink .contend).link with clock := some 4 }
    (∀ b, (u b (if b then 0 else 1) .listen).sup.healthy = some 0 ∧
      (u b (if b then 0 else 1) .listen).sup.stuckBusy = some 0 ∧
      (u b (if b then 0 else 1) .powerOnWait).sup.ready = some 0 ∧
      (u b (if b then 0 else 1) .powerOff).sup.powerOff = some 0 ∧
      (u b (if b then 0 else 1) .listen).trip.holdoff = some 0 ∧
      (e b (if b then 0 else 1) .calling).emerg.repeatTimer = some 0 ∧
      (e b (if b then 0 else 1) .cooldown).emerg.cooldownTimer = some 0 ∧
      (e b (if b then 0 else 1) .tracking).emerg.trackTimer = some 0 ∧
      (e b (if b then 0 else 1) .quiet).emerg.graceTimer = some 0 ∧
      remainingOf 0 (w b (if b then 0 else 1)) = some 0 ∧
      awardRemaining (a b (if b then 0 else 1)) = some 0) ∧
    (∀ b, (u b (if b then 1 else 2) .listen).sup.healthy = some 1 ∧
      (e b (if b then 1 else 2) .tracking).emerg.trackTimer = some 1 ∧
      remainingOf 0 (w b (if b then 1 else 2)) = some 1 ∧
      awardRemaining (a b (if b then 1 else 2)) = some 1 ∧
      remainingOf 1 (w b (if b then 1 else 2)) = none) ∧
    (live.pins.cd = true ∧ live.phase = .running ∧
      (live.setPins { live.pins with rdy := false }).pins.rdy = false ∧
      awardRemaining (openTick live) = none) ∧
    (d.link.clock = some 4 ∧ d.settings.accepted.dwell < 4 ∧ d.link.dwellPassed = false) := by
  decide

/-- An end row after an arrival of its tick: the timer that the arrival started at its full length, and one that has counted before. -/
theorem wit_timer_taken :
    let st := live.settings.accepted
    let u (l : LinkState) := (onLink l).setSup { live.sup with
      ready := some 5, healthy := some 60, powerOff := some st.powerOffTime,
      stuckBusy := some st.busyLimit }
    let e (st' : EmState) := (live.setEmerg { live.emerg with
      state := st', attempt := 1, repeatTimer := some st.repeatInterval,
      cooldownTimer := some st.cooldown, trackTimer := some st.trackInterval,
      graceTimer := some st.grace }).setTrip { live.trip with holdoff := some 60 }
    let k := (onLink .contend).setLink { (onLink .contend).link with clock := some 0 }
    (justRestarted (u .powerOnWait) = true ∧ justRestarted (u .keyup) = true ∧
      justRestarted live = false ∧ justCycled (u .powerOff) = true ∧ justCycled live = false ∧
      justWatched (u .listen) = true ∧ justWatched (u .powerOff) = true ∧
      justWatched (u .keyup) = false) ∧
    ((openTick (u .powerOff)).sup.healthy = some 59 ∧
      (openTick (u .powerOff)).sup.stuckBusy ≠ some 0) ∧
    (justRaised (e .calling) = true ∧ justRaised (e .cooldown) = false ∧
      justAnswered (e .tracking) = true ∧ justAnswered (e .calling) = false ∧
      justReleased (e .quiet) = true ∧ justReleased live = false ∧ live.phase = .running) ∧
    ((openTick (e .calling)).emerg.graceTimer ≠ some 0 ∧
      (openTick (e .quiet)).trip.holdoff = some 59 ∧ remainingOf 3 (openTick (e .calling)) = none) ∧
    (k.link.clock = some 0 ∧ live.sup.override = false ∧
      ({ live.sup with override := true } : Supervisor).override = true) := by decide

theorem wit_place_held :
    (withEvents 15 live).evw.queue.length ≤ 16 ∧ heldReports live = [] ∧
      State.reset.phase ≠ .running := by decide

theorem wit_closing_open :
    let s := withOffers [some (off .open 9 1), some (off .awarded 8 0), some (off .open 7 2)] live
    s.offers.entries[0]? = some (some (off .open 9 1)) ∧ (off .open 9 1).state = .open ∧
      s.offers.entries[1]? = some (some (off .awarded 8 0)) ∧
      s.offers.entries[2]? = some (some (off .open 7 2)) ∧
      (off .open 9 1).admitted < (off .open 7 2).admitted ∧
      (closeOpen .settings s).offers.entries[0]? ≠ some none := by decide

theorem wit_meter_refusals :
    3 < (4 : Byte).toNat ∧ (3 : Byte).toNat ≤ 3 ∧ hired.phase = .running ∧
      hired.meter.state ≠ .vacant ∧ vacant.meter.state = .vacant ∧
      vacant.meter.slots.getD 3 none = none ∧ onHold.meter.state ≠ .hired ∧
      hired.meter.state ≠ .hold ∧ 15 < (16 : Byte).toNat ∧ (1 : Half) ≠ 0 ∧
      hired.meter.slots.getD 3 none = none := by decide

theorem wit_meter_taken :
    hired.meter.state = .hired ∧ onHold.meter.state = .hold ∧ (0xFFFF : Half) ≠ 0 ∧
      (15 : Byte).toNat ≤ 15 ∧ hired.meter.slots.getD 1 none = some tariffA := by decide

/-- No held job, an awarded one, a bid at each place of R120, and one whose outcome is deferred. -/
theorem wit_hire :
    let j (o : Offer) := withOffers [some o] vacant
    let b := { off .bidSent 9 0 with progress := some BidProgress.queued, bidSeq := some 5 }
    let air := withEntries [ent .bid 5 .onAir 1 (.offer 0)] (j b)
    (vacant.phase = .running ∧ vacant.meter.state = .vacant ∧
      vacant.meter.slots.getD (1 : Byte).toNat none = some tariffA ∧ findJob vacant = none ∧
      effectiveDuty vacant ≠ .busy ∧ effectiveDuty (j (off .awarded 9 0)) = .busy) ∧
    (findJob (j (off .awarded 9 0)) = some (0, off .awarded 9 0) ∧
      findJob (j b) = some (0, b)) ∧
    (b.deferred = none ∧ b.bidSeq = some 5 ∧ entryWith 5 (j b) = none ∧
      ({ b with progress := some BidProgress.awaitAck } : Offer).progress = some .awaitAck ∧
      ({ b with progress := some BidProgress.acked } : Offer).progress = some .acked) ∧
    entryWith 5 air = some (ent .bid 5 .onAir 1 (.offer 0)) ∧
    ({ b with deferred := some Deferred.award } : Offer).deferred ≠ none := by decide

theorem wit_clear :
    let full := onHold.setTrip { onHold.trip with backlog := List.replicate 16 tripA }
    (onHold.phase = .running ∧ onHold.meter.state = .hold ∧ onHold.trip.openTrip = some tripA ∧
      onHold.agent.initial = .done) ∧
    (onHold.setAgent { onHold.agent with initial := .writing [] }).agent.initial ≠ .done ∧
    16 ≤ full.trip.backlog.length := by decide

theorem wit_shift :
    vacant.phase = .running ∧ vacant.meter.state = .vacant ∧ onHold.meter.state ≠ .vacant := by
  decide

theorem wit_trip_enqueue :
    let s := live.setTrip { live.trip with backlog := [tripA] }
    let h (n : Nat) := s.setTrip { s.trip with holdoff := some n }
    (s.trip.backlog = tripA :: [] ∧ s.phase = .running ∧ countClass .trip s.uplink.entries = 0 ∧
      s.uplink.entries.length < 12 ∧ s.trip.holdoff = none ∧ s.link.state ≠ .offline ∧
      s.link.state ≠ .failed) ∧
    ((openTick (h 1)).trip.holdoff = some 0 ∧ (openTick (h 2)).trip.holdoff = some 1 ∧
      (openTick (markTick true (h 0))).trip.holdoff = some 0 ∧
      (openTick (markTick true (h 1))).trip.holdoff = some 1) ∧
    live.trip.backlog = [] := by decide

def tariffBytes : List Byte := [1, 0, 7, 1, 44, 0, 10, 0, 9, 39, 192, 0, 7, 161, 32, 5]

theorem wit_tariff :
    tariffBody tariffBytes = some (1, tariffA) ∧ scopeOf (fr 2 tariffBytes).flags = 2 ∧
      tariffBody (4 :: tariffBytes.drop 1) = none ∧ scopeOf (fr 0 tariffBytes).flags = 0 ∧
      dedupeFind 5 live = none := by decide

theorem wit_duty :
    Duty.ofCode 0 = some .free ∧ Duty.ofCode 2 = some .offDuty ∧ Duty.ofCode 3 = none ∧
      effectiveDuty (live.setOffers { live.offers with driverDuty := .free }) = .free ∧
      effectiveDuty (live.setOffers { live.offers with driverDuty := .offDuty }) ≠ .free := by decide

def eleven : List Entry :=
  (List.range 11).map (fun i => ent (if i < 4 then .ack else .text) i .queued 0 .none)

theorem wit_admission :
    (onLink .failed).link.state = .failed ∧
    (live.link.state ≠ .offline ∧ live.link.state ≠ .failed ∧
      UpClass.cap .bid ≤ countClass .bid [ent .bid 0 .queued 0 .none] ∧
      countClass .bid eleven < UpClass.cap .bid ∧ eleven.length < 12 ∧
      allocSeq 0 255 eleven = some 11) ∧
    (12 ≤ (ent .trip 11 .queued 0 .none :: eleven).length ∧
      (displaced (eleven ++ [ent .trip 11 .queued 0 .none])).isSome = true ∧
      countClass .bid (ent .trip 11 .queued 0 .none :: eleven) < UpClass.cap .bid) ∧
    ((live.setPool { live.pool with slots := [some { tag := 1, ref := some 5, held := none, attempts := none }] }).pool.slots.getD 0 none).isSome = true ∧
    ((ent .text 5 .queued 0 (.slot 0)).ref = .slot 0 ∧ (ent .ack 5 .queued 0 .none).cls = .ack) := by
  decide

/-- The second RELEASE is admitted, the third is not (Table 20). -/
theorem test_release_cap :
    let r (q : Nat) := ent .release q .queued 0 .none
    let n (es : List Entry) := (offerEntry .release [] false false .none (withEntries es live)).2
    n [r 0] = .admitted 1 ∧ n [r 0, r 1] = .full := by decide

theorem wit_contention :
    let e := ent .status 3 .queued 0 .none
    let a := ent .alarm 4 .queued 0 .none
    let l := withEntries [e] live
    let c := (withEntries [a, e] (onLink .contend)).setLink
      { (onLink .contend).link with target := some 3, clock := some 0 }
    let d := (withEntries [e] (onLink .contend)).setLink { (onLink .contend).link with target := some 3 }
    ((onLink .keyup).link.state ≠ .listen ∧ (onLink .keyup).link.state ≠ .contend) ∧
    ((live.setLink { live.link with pendingChannel := some 2 }).link.pendingChannel.isSome = true ∧
      noFrameInAssembly live = true) ∧
    (firstQueued live = none ∧ firstQueued l = some e) ∧
    (c.link.state = .contend ∧ queuedTarget c = some e ∧ firstQueued c = some a ∧
      a.cls.priority < e.cls.priority) ∧
    (queuedTarget d = some e ∧ firstQueued d = some e) ∧
    (queuedTarget (withEntries [e] (onLink .contend)) = none ∧ live.pins.cd = true) ∧
    (queuedTarget (onLink .contend) = none ∧ firstQueued (onLink .contend) = none ∧
      (onLink .contend).link.pendingChannel = none) ∧
    (((onLink .contend).setLink { (onLink .contend).link with
        pendingChannel := some 2 }).link.pendingChannel ≠ none ∧
      noFrameInAssembly (onLink .contend) = true) := by decide

theorem wit_duplicates :
    let s := live.setRx { live.rx with dedupe := [(5, .taken)], bufA := .ready 0x13 (fr 0 []) 0 }
    (s.phase = .running ∧ scopeOf (fr 0 []).flags = 0 ∧ dedupeFind (fr 0 []).seq s = some .taken) ∧
    (scopeAllowed .offer (scopeOf (fr 3 []).flags) = false ∧
      scopeAllowed .withdraw (scopeOf (fr 3 []).flags) = false ∧
      scopeAllowed .award (scopeOf (fr 1 []).flags) = false ∧
      scopeAllowed .award (scopeOf (fr 2 []).flags) = false ∧
      scopeAllowed .reject (scopeOf (fr 2 []).flags) = false ∧
      scopeAllowed .text (scopeOf (fr 3 []).flags) = false ∧
      scopeAllowed .tariff (scopeOf (fr 1 []).flags) = false ∧
      scopeAllowed .alarmAck (scopeOf (fr 1 []).flags) = false ∧
      scopeAllowed .alarmEnd (scopeOf (fr 2 []).flags) = false ∧
      scopeAllowed .ack (scopeOf (fr 1 []).flags) = false ∧
      scopeAllowed .poll (scopeOf (fr 2 []).flags) = false ∧
      scopeAllowed .channel (scopeOf (fr 3 []).flags) = false) ∧
    s.rx.bufA = .ready 0x13 (fr 0 []) 0 ∧ s.rx.bufB = .free := by decide

/-- Each state of the deframer in which the link can leave LISTEN or CONTEND, the buffer of the frame in assembly, and a draw of 0 with CD low. -/
theorem wit_leaving :
    let s := receivingIn .header [1]
    (s.rx.deframer = .header ∧ (receivingIn .body [1]).rx.deframer = .body ∧
      (receivingIn .check [1]).rx.deframer = .check ∧ s.rx.bufA = .filling ∧
      s.link.state = .listen) ∧
    ((live.setRx { live.rx with deframer := .skip }).rx.deframer = .skip ∧
      (live.setRx { live.rx with deframer := .syncHalf }).rx.deframer = .syncHalf ∧
      live.rx.deframer = .hunt) ∧
    ((live.setPins { live.pins with cd := false }).pins.cd = false ∧ noFrameInAssembly s = false ∧
      noFrameInAssembly live = true) := by decide

def ackFrame (c q r : Byte) : DownFrame := fr 0 [c, q, r, 0]

theorem wit_ack :
    let rel := withEntries [ent .release 5 .awaitAck 1 (.offerId 1)] live
    let trp := withEntries [ent .trip 5 .awaitAck 1 (.trip 1)] live
    let txt := withEntries [ent .text 5 .awaitAck 1 (.slot 0)] (live.setPool { live.pool with
      slots := [some { tag := 1, ref := some 5, held := none, attempts := none }] })
    let bid := withEntries [ent .bid 5 .awaitAck 1 (.offer 0)] (withOffers [some (off .bidSent 9 0)] live)
    let air := withEntries [ent .release 5 .onAir 1 (.offerId 1)] live
    let out := withEntries [ent .bid 5 .onAir 1 (.offer 0)]
      (withOffers [some { off .bidSent 9 0 with deferred := some .award }] live)
    ((ackBody (ackFrame 0x23 5 2).body).isNone = true ∧
      ackBody (ackFrame 0x23 5 1).body = some (0x23, 5, .refused) ∧ ackBody [0x23, 5, 0] = none ∧
      ackBody [0x23, 5, 0, 0xFF] = some (0x23, 5, .taken)) ∧
    (ackMatch 0x23 6 rel = none ∧ ackMatch 0x26 5 rel = none ∧
      ackMatch 0x25 5 (withEntries [ent .status 5 .onAir 1 .none] live) = none ∧
      ackMatch 0x23 5 (withEntries [{ ent .release 5 .onAir 1 .none with answered := true }] live) = none) ∧
    ackMatch 0x23 5 rel = some (ent .release 5 .awaitAck 1 (.offerId 1)) ∧
    ackMatch 0x26 5 trp = some (ent .trip 5 .awaitAck 1 (.trip 1)) ∧
    (ackMatch 0x27 5 txt).isSome = true ∧ (txt.pool.slots.getD 0 none).isSome = true ∧
    (ackMatch 0x22 5 bid).isSome = true ∧ bid.offers.entries.getD 0 none = some (off .bidSent 9 0) ∧
    ackMatch 0x23 5 air = some (ent .release 5 .onAir 1 (.offerId 1)) ∧
    ackMatch 0x22 5 out = some (ent .bid 5 .onAir 1 (.offer 0)) ∧
    (bid.offers.entries.getD 0 none).map (·.deferred) = some none ∧
    (out.offers.entries.getD 0 none).map (·.deferred) = some (some .award) := by decide

theorem wit_ack_timer :
    let s (c : UpClass) (n : Nat) (r : OwnerRef) :=
      withEntries [ent c 5 .awaitAck n r] (withOffers [some (off .bidSent 9 0)] live)
    entryWith (5 : Byte).toNat (s .trip 4 (.trip 1)) = some (ent .trip 5 .awaitAck 4 (.trip 1)) ∧
    4 < live.settings.accepted.attempts ∧ live.settings.accepted.attempts ≤ 5 ∧
    entryWith 5 (s .bid 4 (.offer 0)) = some (ent .bid 5 .awaitAck 4 (.offer 0)) ∧
    (s .bid 5 (.offer 0)).offers.entries.getD 0 none = some (off .bidSent 9 0) ∧
    entryWith 5 (withEntries [ent .trip 5 .queued 5 (.trip 1)] live) =
      some (ent .trip 5 .queued 5 (.trip 1)) := by decide

theorem wit_poll_channel :
    ((offerEntry .status [] false false .none live).2.ok = true ∧
      (offerEntry .status [] false false .none (onLink .failed)).2.ok = false) ∧
    (scopeOf (fr 2 [3]).flags ≤ 2 ∧ (fr 2 [3]).body = [3] ∧ (3 : Byte).toNat ≤ 3) ∧
    (3 < (4 : Byte).toNat ∧ (fr 2 []).body.length ≠ 1) ∧
    (live.link.state = .listen ∧ noFrameInAssembly live = true ∧ live.link.pendingChannel = none) := by
  decide

theorem wit_backoff :
    let c (b : Nat) := (onLink .contend).setLink { (onLink .contend).link with
      backoff := b, clock := some 0, slotTimer := some 25, target := some 3 }
    let low (s : State) := s.setPins { s.pins with cd := false }
    (low live).pins.cd = false ∧ (onLink .keyup).link.state ≠ .contend ∧
    (c 1).link.backoff ≠ 0 ∧ (c 0).link.backoff = 0 ∧ live.pins.cd = true ∧
    ((low (c 2)).link.slotTimer.isSome = true ∧ 2 ≤ (c 2).link.backoff ∧ (c 1).link.backoff ≤ 1) ∧
    entryWith 3 (withEntries [ent .bid 3 .queued 0 .none] (c 1)) = some (ent .bid 3 .queued 0 .none) ∧
    ((c 1).link.clock = some 0 ∧ 0 < (c 1).settings.accepted.dwell) ∧
    (let d := (c 1).setLink { (c 1).link with clock := some 3 }
     d.link.clock = some 3 ∧ d.settings.accepted.dwell ≤ 3) := by decide

theorem wit_keyup :
    let k (e : Entry) := withEntries [e] (withOffers [some (off .bidSent 9 0)] (onLink .keyup))
    (k (ent .alarm 3 .queued 0 .none)).link.state = .keyup ∧
    entryToKey (k (ent .alarm 3 .queued 0 .none)) = some (ent .alarm 3 .queued 0 .none) ∧
    entryToKey (k (ent .bid 3 .queued 0 (.offer 0))) = some (ent .bid 3 .queued 0 (.offer 0)) ∧
    (k (ent .bid 3 .queued 0 (.offer 0))).offers.entries.getD 0 none = some (off .bidSent 9 0) ∧
    entryToKey (k (ent .status 3 .queued 0 .none)) = some (ent .status 3 .queued 0 .none) ∧
    entryToKey (onLink .keyup) = none := by decide

/-- The characters of an uplink ACK: 18 of them (R46), the CRC over header and body last. -/
theorem test_uplink_characters :
    let e := { ent .ack 9 .queued 0 .none with body := [0x15, 3, 0, 0] }
    (uplinkChars 0x1234 e).length = 18 ∧ (uplinkChars 0x1234 e).take 16 =
      [0x55, 0x55, 0x55, 0x55, 0xC3, 0x3C, 0x24, 0, 0x12, 0x34, 9, 4, 0x15, 3, 0, 0] ∧
    natBE ((uplinkChars 0x1234 e).drop 16) =
      (crc16 [0x24, 0, 0x12, 0x34, 9, 4, 0x15, 3, 0, 0]).toNat := by decide

/-- A STATUS body of 23 bytes with and without a position record; an ALARM body of 29. -/
theorem wit_bodies :
    let s := live.setPosition { live.position with record := positionOf [90000000, 0, 359 <<< 16] }
    (s.position.record.isSome = true ∧ live.position.record = none) ∧
    ((statusBody s).length = 23 ∧ (statusBody live).length = 23) ∧
    ((AlarmKind.call.body s).length = 29 ∧ (AlarmKind.tracking.body s).length = 29 ∧
      ((AlarmKind.cancelled 1 2).body s).take 4 = [0, 1, 0, 2]) := by decide

theorem wit_transmission :
    let a (e : Entry) := (withEntries [e] (withOffers [some (off .bidSent 9 0)] (onLink .tail))).setLink
      { (onLink .tail).link with keyed := some 3 }
    ((onLink .sending).settings.accepted.tail ≠ 0 ∧ (onLink .sending).link.state = .sending) ∧
    keyedEntry (a (ent .text 3 .onAir 1 (.slot 0))) = some (ent .text 3 .onAir 1 (.slot 0)) ∧
    keyedEntry (a (ent .bid 3 .onAir 1 (.offer 0))) = some (ent .bid 3 .onAir 1 (.offer 0)) ∧
    keyedEntry (a (ent .status 3 .onAir 1 .none)) = some (ent .status 3 .onAir 1 .none) ∧
    (keyedEntry (a { ent .trip 3 .onAir 1 (.trip 1) with answered := true })).isSome = true ∧
    (keyedEntry (a { ent .release 3 .onAir 1 .none with answered := true })).isSome = true ∧
    (keyedEntry (a (ent .alarm 3 .onAir 1 .none))).isSome = true ∧
    keyedEntry (a { ent .bid 3 .onAir 1 (.offer 0) with abandon := true }) =
      some { ent .bid 3 .onAir 1 (.offer 0) with abandon := true } ∧
    (withOffers [some { off .bidSent 9 0 with deferred := some .late }] live).offers.entries.getD 0
      none = some { off .bidSent 9 0 with deferred := some .late } ∧
    keyedEntry (a { ent .text 3 .onAir 1 (.slot 0) with answered := true }) =
      some { ent .text 3 .onAir 1 (.slot 0) with answered := true } ∧
    keyedEntry (a { ent .bid 3 .onAir 1 (.offer 0) with answered := true }) =
      some { ent .bid 3 .onAir 1 (.offer 0) with answered := true } ∧
    keyedEntry (onLink .tail) = none ∧
    ((onLink .turnaround).setLink { live.link with pendingChannel := some 2 }).link.pendingChannel =
      some 2 ∧
    (onLink .tail).emerg.owed = none ∧ (onLink .turnaround).link.pendingChannel = none ∧
    (onLink .settle).link.state = .settle := by decide

theorem wit_faults :
    let u (n : Nat) (o : Bool) (k : Nat) (r : Bool) := (live.setSup { live.sup with
      cycles := n, override := o, stuckBusy := some k, ready := some k }).setPins
        { live.pins with rdy := r }
    let w := (u 0 false 0 false).setLink { live.link with state := .powerOnWait }
    let t (ans : Bool) := { ent .text 5 .awaitAck 1 (.slot 0) with answered := ans }
    (live.pins.rdy = true ∧ channelAccess live.link.state = true ∧
      channelAccess (onLink .sending).link.state = true) ∧
    ((u 2 false 0 true).sup.cycles < 3 ∧ (u 2 false 0 true).sup.override = false) ∧
    3 ≤ (u 3 false 0 true).sup.cycles ∧
    ((u 2 true 1 true).sup.override = true ∧ (u 2 true 1 true).sup.stuckBusy = some 1 ∧
      (openTick (u 2 true 1 true)).sup.stuckBusy = some 0 ∧ (u 2 true 1 true).pins.cd = true ∧
      (openTick (u 2 true 2 true)).sup.stuckBusy = some 1) ∧
    (w.link.state = .powerOnWait ∧ (openTick w).sup.ready = some 0 ∧
      (openTick (markTick true w)).sup.ready = some 0 ∧ w.pins.rdy = false) ∧
    channelAccess (onLink .failed).link.state = false ∧
    ((t false).answered = false ∧ (t true).answered = true ∧ (t true).ref = .slot 0) := by decide

theorem wit_power_up :
    let s (n : Nat) := (onLink .powerOff).setSup { live.sup with
      powerOff := some n, healthy := some n }
    ((s 1).link.state = .powerOff ∧ (openTick (s 1)).sup.powerOff = some 0 ∧
      (s 1).pins.rdy = true ∧ (openTick (s 1)).sup.healthy = some 0 ∧
      (openTick (markTick true (s 0))).sup.powerOff = some 0) ∧
    ((openTick (s 2)).sup.powerOff = some 1 ∧ (openTick (s 2)).sup.healthy = some 1 ∧
      (openTick live).sup.powerOff = none) ∧
    ((s 0).setPins { (s 0).pins with rdy := false }).pins.rdy = false ∧
    (onLink .powerOnWait).link.state = .powerOnWait ∧ (onLink .failed).link.state = .failed ∧
    0x0F < (0x10 : Byte).toNat := by decide

theorem wit_accept :
    let o := withOffers [some (off .open 9 0)] live
    let j := withOffers [some (off .open 9 0), some (off .awarded 8 1)] live
    let x := { off .closing 9 0 with reason := some ClosingReason.expired }
    (findOffer 8 o = none ∧ findOffer 9 o = some (0, off .open 9 0)) ∧
    (x.state = .closing ∧ x.reason = some .expired) ∧ (calling .calling).emerg.state ≠ .quiet ∧
    (o.emerg.state = .quiet ∧ findJob o = none ∧ findJob j ≠ none) ∧
    (offerEntry .bid (bytesBE 4 (9 : Word).toNat ++ positionBlock o) false false (.offer 0) o).2 =
      .admitted 0 ∧ (onLink .offline).link.state = .offline := by decide

theorem wit_decline :
    let o := withOffers [some (off .open 9 0), some (off .awarded 8 1)] live
    findOffer 7 o = none ∧ findOffer 9 o = some (0, off .open 9 0) ∧
      findOffer 8 o = some (1, off .awarded 8 1) := by decide

theorem wit_offers_close :
    let w (n : Nat) := { off .open 9 0 with remaining := some n }
    let b (q : Option Nat) (n : Nat) := { off .bidSent 9 0 with
      progress := some BidProgress.acked, bidSeq := q, remaining := some n }
    let v (o : Offer) := openTick (withOffers [some o] live)
    ((v (w 1)).offers.entries.getD 0 none = some (w 0) ∧ (w 0).state = .open ∧
      (w 0).remaining = some 0 ∧ (v (w 2)).offers.entries.getD 0 none = some (w 1) ∧
      (v (w 1)).offers.entries.getD 1 none = none) ∧
    ((openTick (markTick true (withOffers [some (w 0)] live))).offers.entries.getD 0 none =
      some (w 0)) ∧
    (findJob (v (b none 1)) = some (0, b none 0) ∧ (b none 0).progress = some .acked ∧
      findJob (v (b none 2)) = some (0, b none 1) ∧ (b none 1).remaining = some 1) ∧
    (findJob (v (b (some 5) 1)) = some (0, b (some 5) 0) ∧ (b (some 5) 0).bidSeq ≠ none ∧
      findJob (openTick live) = none) := by decide

def offerBytes : List Byte := [0, 0, 0, 9, 0, 3, 0, 20, 1, 65]

theorem wit_offer_frames :
    let s := withOffers [] live
    let f := withOffers ((List.range 8).map (fun i => some (off .closing (BitVec.ofNat 32 i) i))) live
    (scopeOf (fr 2 offerBytes).flags ≤ 2 ∧ (calling .calling).emerg.state ≠ .quiet) ∧
    (effectiveDuty live ≠ .free ∧ effectiveDuty s = .free) ∧
    (4 ≤ offerBytes.length ∧ findOffer 9 (withOffers [some (off .open 9 0)] live) ≠ none ∧
      findOffer 9 s = none) ∧
    (offerBody 2 (offerBytes.take 9) = none ∧ (offerBody 2 offerBytes).isSome = true) ∧
    ((offerBody 0 ([0, 0, 0, 9, 0, 3, 1, 120, 141] ++ List.replicate 141 65)).isSome = true ∧
      offerBody 1 [0, 0, 0, 9, 0, 3, 1, 5, 0] = none ∧
      (offerBody 0 [0, 0, 0, 9, 0, 3, 1, 5, 0]).isSome = true ∧
      offerBody 0 [0, 0, 0, 9, 0, 3, 1, 4, 0] = none ∧
      offerBody 0 [0, 0, 0, 9, 0, 3, 0, 121, 0] = none) ∧
    firstFree 0 f.offers.entries = none ∧ firstFree 0 s.offers.entries = some 0 := by decide

theorem wit_award :
    let q := { off .bidSent 9 0 with bidSeq := some 5 }
    let air := withEntries [ent .bid 5 .onAir 1 (.offer 0)] (withOffers [some q] live)
    (idBody (fr 0 [0, 0, 0, 9]).body = some 9 ∧ dedupeFind 5 live = none ∧ findOffer 9 live = none) ∧
    (idBody (fr 0 [0, 0, 9]).body = none ∧ idBody (fr 0 [0, 0, 0, 9, 0]).body = none) ∧
    (findOffer 9 (withOffers [some (off .open 9 0)] live) = some (0, off .open 9 0) ∧
      directAllowed (withOffers [some (off .open 9 0)] live) = true ∧
      directAllowed (calling .calling) = false) ∧
    ((off .bidSent 9 0).bidSeq = none ∧ q.bidSeq = some 5 ∧ q.deferred = none ∧
      entryWith 5 (withOffers [some q] live) = none ∧
      entryWith 5 air = some (ent .bid 5 .onAir 1 (.offer 0))) ∧
    ({ q with deferred := some Deferred.abandon } : Offer).deferred ≠ none ∧
    findOffer 9 (withOffers [some (off .awarded 9 0)] live) = some (0, off .awarded 9 0) ∧
    findOffer 9 (withOffers [some (off .closing 9 0)] live) = some (0, off .closing 9 0) := by decide

theorem wit_reject_withdraw :
    scopeOf (fr 1 []).flags = 1 ∧ scopeOf (fr 0 []).flags = 0 ∧ idBody (fr 1 []).body = none ∧
      idBody (fr 1 [0, 0, 0, 9]).body = some 9 ∧
      findOffer 9 (withOffers [some (off .awarded 9 0)] live) = some (0, off .awarded 9 0) ∧
      findOffer 9 (withOffers [some (off .closing 9 0)] live) = some (0, off .closing 9 0) ∧
      dedupeFind 5 live = none ∧
      (let q := { off .bidSent 9 0 with bidSeq := some 5 }
       let air := withEntries [ent .bid 5 .onAir 1 (.offer 0)] (withOffers [some q] live)
       findOffer 9 air = some (0, q) ∧ q.deferred = none ∧
         entryWith 5 air = some (ent .bid 5 .onAir 1 (.offer 0)) ∧
         entryWith 5 (withOffers [some q] live) = none) := by decide

theorem wit_send_text :
    let full := live.setPool { live.pool with
      slots := List.replicate 8 (some { tag := 1, ref := some 1, held := none, attempts := none }) }
    120 < (List.replicate 121 (65 : Byte)).length ∧ (List.replicate 120 (65 : Byte)).length ≤ 120 ∧
    63 < (64 : Byte).toNat ∧ (63 : Byte).toNat ≤ 63 ∧ (63 : Byte) ≠ 0 ∧
    firstFree 0 full.pool.slots = none ∧ firstFree 0 live.pool.slots = some 0 ∧
    (offerEntry .text [1, 0] false false (.slot 0) live).2 = .admitted 0 ∧
    (offerEntry .text [1, 0] false false (.slot 0) (onLink .failed)).2 = .linkDown ∧
    (offerEntry .text [1, 0] false false (.slot 0)
      (withEntries ((List.range 8).map (fun i => ent .text i .queued 0 .none)) live)).2 = .full := by
  decide

theorem wit_text :
    textBody [0, 0] = none ∧ textBody [1, 0] = some (1, []) ∧ (textBody (1 :: 140 :: List.replicate 140 65)).isSome = true ∧
      textBody (1 :: 141 :: List.replicate 141 65) = none ∧ urgentOf 5 = true ∧ scopeOf 5 = 1 ∧
      urgentOf 2 = false ∧ dedupeFind 5 live = none := by decide

theorem wit_switch :
    let g (n : Nat) := live.setEmerg { live.emerg with graceTimer := some n }
    let a := live.setAttn { live.attn with alertEnd := some 32767 }
    live.pins.esw = true ∧ live.phase ≠ .fullReset ∧ live.emerg.armed = true ∧
      (live.setEmerg { live.emerg with armed := false }).emerg.armed = false ∧
      (live.setPins { live.pins with esw := false }).pins.esw = false ∧
      State.reset.phase = .fullReset ∧ (openTick (g 1)).emerg.graceTimer = some 0 ∧
      (openTick (markTick true (g 0))).emerg.graceTimer = some 0 ∧
      (openTick (g 2)).emerg.graceTimer = some 1 ∧ (openTick live).emerg.graceTimer = none ∧
      a.attn.alertEnd = some 32767 ∧ 32767 < 32768 * (a.secs + 1) ∧
      32768 * (a.secs + 1) ≤ 32768 ∧
      live.attn.alertEnd = none := by decide

theorem wit_raise :
    let s := (live.setEmerg { live.emerg with holdTimer := some 2000 }).setPins { live.pins with esw := false }
    (live.phase = .running ∧ live.emerg.state = .quiet) ∧
    (s.phase ≠ .fullReset ∧ s.emerg.holdTimer.isSome = true ∧ s.pins.esw = false) ∧
    (calling .exhausted).emerg.state = .exhausted ∧ (calling .tracking).emerg.state = .tracking ∧
    (s.setPhase .terminalReset).phase ≠ .running ∧
    (live.emerg.box = none ∧ (after (exec (.alarmRaise 2) live)).emerg.box ≠ none) ∧
    (some (off .open 9 0) ∈ (withOffers [some (off .open 9 0)] live).offers.entries ∧
      live.offers.entries.filterMap id = []) ∧
    ((live.setAgent { live.agent with initial := .writing [] }).agent.initial ≠ .done ∧
      taskListed .blackBox (withTask (task .blackBox []) live) = true ∧
      live.agent.initial = .done ∧ taskListed .blackBox live = false) := by decide

theorem wit_alarm_offers :
    let a := withEntries [ent .alarm 3 .onAir 1 .none] (calling .calling)
    let b := withEntries [ent .alarm 3 .queued 0 .none] (calling .calling)
    alarmEntry a = some (ent .alarm 3 .onAir 1 .none) ∧
    alarmEntry b = some (ent .alarm 3 .queued 0 .none) ∧ alarmEntry live = none ∧
    live.link.state ≠ .failed ∧ (onLink .failed).link.state = .failed ∧
    ((onLink .failed).setPins { live.pins with rdy := false }).pins.rdy = false ∧
    live.emerg.report = none ∧ (setEmReport .cancel 1 live).emerg.report.isSome = true := by decide

theorem wit_cancel :
    live.emerg.state = .quiet ∧ (calling .tracking).emerg.state = .tracking ∧
      (calling .calling).emerg.graceTimer ≠ none ∧ (calling .calling).emerg.state = .calling ∧
      ((calling .cooldown).setEmerg { (calling .cooldown).emerg with graceTimer := none }).emerg.graceTimer = none := by
  decide

theorem wit_emergency_timers :
    let at' (n k : Nat) := (calling .calling).setEmerg { (calling .calling).emerg with
      attempt := n, round := 3, repeatTimer := some k }
    let z := (at' 8 1).setSettings { (at' 8 1).settings with
      accepted := { (at' 8 1).settings.accepted with cooldown := 0, roundsLimit := 0 } }
    let e (st : EmState) (k : Nat) := (calling st).setEmerg { (calling st).emerg with
      cooldownTimer := some k, trackTimer := some k }
    ((openTick (at' 7 1)).emerg.repeatTimer = some 0 ∧ (at' 7 1).emerg.state = .calling ∧
      (openTick (at' 7 1)).emerg.attempt < 8 ∧ 8 ≤ (openTick (at' 8 1)).emerg.attempt ∧
      (openTick (markTick true (at' 8 0))).emerg.repeatTimer = some 0 ∧
      (openTick (at' 7 2)).emerg.repeatTimer = some 1) ∧
    (live.settings.accepted.roundsLimit ≠ 0 ∧
      live.settings.accepted.roundsLimit ≤ (openTick (at' 8 1)).emerg.round) ∧
    ((openTick (calling .calling)).emerg.round < live.settings.accepted.roundsLimit ∧
      0 < live.settings.accepted.cooldown) ∧
    ((openTick z).settings.accepted.roundsLimit = 0 ∧
      (openTick z).settings.accepted.cooldown = 0) ∧
    ((openTick (e .cooldown 1)).emerg.cooldownTimer = some 0 ∧
      (openTick (e .tracking 1)).emerg.trackTimer = some 0 ∧
      (openTick (markTick true (e .tracking 0))).emerg.trackTimer = some 0 ∧
      (openTick (e .tracking 2)).emerg.trackTimer = some 1) := by decide

theorem wit_dispatch :
    scopeOf (fr 0 []).flags = 0 ∧ (fr 0 []).body = [] ∧ (calling .exhausted).emerg.state = .exhausted ∧
      (fr 0 [1]).body ≠ [] ∧ dedupeFind 5 live = none ∧ alarmEntry live = none ∧
      entryWith 3 (withEntries [ent .alarm 3 .onAir 1 .none] live) = some (ent .alarm 3 .onAir 1 .none) := by
  decide

theorem wit_hunt :
    let k (n len : Nat) := live.setRx { live.rx with deframer := .skip, skipped := n, skipLength := len }
    dataByte live.settings.accepted 0xC3 = 0xC3 ∧
    charIsBad live.settings.accepted 0xC3 false true true = false ∧
    charIsBad live.settings.accepted 0xC3 false false true = true ∧
    (onLink .keyup).link.state ≠ .listen ∧ live.link.state = .listen ∧ live.rx.deframer = .hunt ∧
    live.rx.bufA = .free ∧ (receivingIn .syncHalf []).rx.bufA ≠ .free ∧
    ((k 5 0).rx.skipped + 1 = 6 ∧ 150 < (151 : Byte).toNat ∧ (150 : Byte).toNat ≤ 150) ∧
    ((k 157 150).rx.skipped + 1 = 8 + 150 ∧ (k 156 150).rx.skipped + 1 < 8 + 150) := by decide

/-- A POLL for cab 7 with a good CRC, and its judging. -/
def pollChars : List Byte := [0x1A, 0, 0, 7, 5, 0]

theorem wit_frame :
    let c := crc16 pollChars
    let bs := pollChars ++ [(c >>> 8).setWidth 8, c.setWidth 8]
    ((pollChars.take 5).length < 6 ∧ 6 ≤ pollChars.length ∧ (byteAt pollChars 5).toNat = 0) ∧
    (8 ≤ bs.length ∧ crc16 (bs.take 6) = BitVec.ofNat 16 (natBE (slice bs 6 2))) ∧
    crc16 (bs.take 6) ≠ BitVec.ofNat 16 (natBE (slice (pollChars ++ [0, 0]) 6 2)) ∧
    150 < (byteAt [0x1A, 0, 0, 7, 5, 151] 5).toNat ∧ (byteAt [0x1A, 0, 0, 7, 5, 150] 5).toNat ≤ 150 ∧
    (receivingIn .body [1]).rx.deframer = .body ∧ (receivingIn .header []).rx.deframer = .header := by
  decide

theorem wit_judging :
    let t := live.settings.accepted.badThreshold
    (live.phase = .running ∧ (t != 255 && decide (t ≤ 8)) = true ∧ (t != 255 && decide (t ≤ 7)) = false) ∧
    forThisCab live.settings.accepted 0 7 = true ∧ forThisCab live.settings.accepted 0 8 = false ∧
    DownClass.ofCode 0x21 = none ∧ DownClass.ofCode 0x1A = some .poll ∧
    scopeAllowed .poll 0 = true ∧ scopeAllowed .poll 2 = false ∧
    (receivingIn .check []).rx.bufA = .filling ∧ (receivingIn .check []).rx.bufB ≠ .filling := by decide

theorem wit_waiting_work :
    let b : List Byte := [0x06, 0, 1, 0]
    let k := live.setReader { live.reader with kept := some b }
    let r := live.setRx { live.rx with bufA := .ready 0x1A (fr 0 []) 0, bufB := .ready 0x1A (fr 0 []) 1 }
    let kr := r.setReader { live.reader with kept := some b }
    let h := live.setTrip { live.trip with reports := [held 3] }
    ((placeHeld (withEvents 14 live)).evw.queue.length ≤ 14 ∧
      15 ≤ (placeHeld (withEvents 15 live)).evw.queue.length ∧
      (placeHeld (withEvents 13 h)).evw.queue.length = 14 ∧
      (placeHeld (withEvents 14 h)).evw.queue.length = 15) ∧
    (k.reader.kept = some b ∧ firstReady k = none) ∧
    (r.reader.kept = none ∧ firstReady r = some (0x1A, fr 0 [])) ∧
    (kr.reader.kept = some b ∧ firstReady kr = some (0x1A, fr 0 [])) ∧
    (requestKnown (requestOf b).code = true ∧ (requestOf b).length ≤ 124 ∧
      (requestOf b).params.length = (requestOf b).length ∧
      lengthAgrees (requestOf b).code (requestOf b).params = true) ∧
    requestKnown 0x10 = false ∧ 124 < (requestOf [0x06, 125, 1, 0]).length := by decide

def latitude90 : List Word := [90000000, 0, 359 <<< 16]

theorem wit_host_words :
    (live.phase = .running ∧ live.path.base = some 0x3F0000 ∧ live.agent.initial = .done) ∧
    ((15 : Word).toNat ≤ 15 ∧ 15 < (16 : Word).toNat ∧ (63 : Word).toNat ≤ 63 ∧ 63 < (64 : Word).toNat) ∧
    ((live.setEvw { live.evw with producer := 3 }).evw.producer + 64 - live.evw.consumer) % 64 = 3 ∧
    ((positionOf latitude90).isSome = true ∧ positionOf [90000001, 0, 0] = none ∧
      positionOf [0, 0, 360 <<< 16] = none) ∧
    (treatment 0x0040 = .snoop ∧ treatment 0x0044 = .guard ∧ treatment 0x01FC = .liveZone) ∧
    (State.reset.phase ≠ .running ∧ State.reset.path.base = none) := by decide

/-- The words of a snapshot: 64, with CONGEST and a job as the hypotheses of the layout name them. -/
theorem wit_snapshot :
    let s := withEntries [ent .bid 3 .queued 0 (.offer 0)]
      (withOffers [some (off .bidSent 9 0)] ((charging .hired 5 none).setLink
        { live.link with state := .contend, target := some 3, dwellPassed := true }))
    (snapshotWords s).length = 64 ∧ (snapshotWords s).getD 0 0 = 0x00000101 ∧
    (snapshotWords s).getD 21 0 = 0x01010001 ∧ (snapshotWords s).getD 22 0 = 9 ∧
    (snapshotWords s).getD 27 0 = 0x00000200 ∧ congestActive s = true ∧ conditions s = 0x080 ∧
    ((s.offers.entries.filterMap id).find? (fun o => o.state == .bidSent || o.state == .awarded)).isSome =
      true := by decide

/-- A settings record with every field at its default and cab 7. -/
def record : List Word :=
  [7, 0, 0, 0, 0, 0x140A2801, 0x05060219, 0x08FF05DC, 0x030F0214, 0x07D00190, 0x003C0305,
   0x000A001E, 0, 0, 0]

theorem wit_commit :
    (hired.settings.firstCommit = false ∧ hired.meter.state ≠ .vacant) ∧
    (live.meter.state = .vacant ∧ live.emerg.state = .quiet ∧ live.uplink.entries = [] ∧
      findJob live = none) ∧
    firstBadField false record = none ∧ settingsOf record = { Settings.default with cab := 7 } ∧
    firstBadField false (record.set 0 0) = some 1 ∧ firstBadField true (record.set 0 0) = none ∧
    firstBadField false (record.set 11 0x001F001E) = some 27 ∧
    live.settings.report = none ∧ (onLink .powerOff).link.state = .powerOff := by decide

theorem wit_access :
    let a (x : Addr) (w : Option Word) : Access := { addr := x, lanes := 0xF, write := w }
    let busy := live.setPath { live.path with port := .agent, inHand := some { access := a 0 none, stage := .waiting } }
    let onp := live.setPath { live.path with port := .processor, inHand := some { access := a 0x3F0040 (some 3), stage := .onPort } }
    let ready := withTask (task .index [.write 0x44 1]) live
    (live.path.inHand = none ∧ live.path.port = .free ∧ agentReady live = false ∧ agentReady ready = true) ∧
    busy.path.inHand ≠ none ∧ State.reset.path.base = none ∧
    (offsetIn 0x3F0000 (a 0x3EFFFF none) = none ∧ offsetIn 0x3F0000 (a 0x3F0000 none) = some 0 ∧
      offsetIn 0x3F0000 (a 0x3FFFFF none) = some 0xFFFC ∧ offsetIn 0x3F0000 (a 0x400000 none) = none) ∧
    (treatment 0x0070 = .attention ∧ treatment 0x0100 = .liveZone ∧ treatment 0x0104 = .liveZone ∧
      treatment 0x40FC = .guard ∧ treatment 0x4100 = .free) ∧
    (arbitrate onp = onp ∧ onp.path.port = .processor ∧ snoopOffset (a 0x3F0040 (some 3)) onp = some 0x40) ∧
    (busy.path.passCount < 8 ∧ processorWaits busy = true) := by decide

theorem wit_agent_words :
    let i := live.setAgent { live.agent with initial := .writing [(0x44, 0), (0x48, 0)] }
    let t := withTask (task (.event true) [.producer 1, .generated, .lost, .result]) (withEvents 1 live)
    let g := t.setPath { t.path with port := .agent }
    (arbitrate g = g ∧ g.path.port = .agent ∧ agentReady g = true) ∧
    i.agent.initial = .writing ((0x44, 0) :: [(0x48, 0)]) ∧
    (t.agent.initial = .done ∧ t.evw.queue ≠ [] ∧ t.phase = .running) ∧
    (live.evw.resultStale = false ∧ taskFinished (withTask (task .index []) live) = true) ∧
    (t.agent.tasks = [task (.event true) [.producer 1, .generated, .lost, .result]] ∧
      (task .index []).words ≠ none ∧ ({ task .index [] with words := none } : Task).words = none) ∧
    ((live.setTrip { live.trip with logWrite := some tripA }).trip.logWrite = some tripA ∧
      tripA.number = (task .tripLog []).number ∧ live.emerg.boxMark ≠ .rewrite) := by decide

theorem wit_tasks :
    let q := live.setReader { live.reader with producer := 1 }
    let e (k : TaskKind) := withTask (task k [.producer 1, .generated]) live
    (q.reader.consumer ≠ q.reader.producer ∧ q.reader.kept = none ∧ taskListed .index q = false ∧
      (withEvents 14 q).evw.queue.length ≤ 14) ∧
    live.reader.consumer = live.reader.producer ∧
    ((withEvents 1 live).evw.queue ≠ [] ∧
      ((withEvents 1 live).evw.producer + 64 - (withEvents 1 live).evw.consumer) % 64 < 63) ∧
    ((live.setEvw { live.evw with countersStale := true }).evw.countersStale = true ∧
      live.evw.queue = [] ∧ taskListed (.event true) live = false) ∧
    ((e .tripLog).path.port ≠ .processor ∧ (e .tripLog).path.inHand = none ∧
      (e (.event true)).agent.tasks = [task (.event true) [.producer 1, .generated]]) ∧
    (lastWord (e .index) = false ∧ nextIsProducer (e .index) = true ∧ live.agent.tasks = []) := by
  decide

/-- The head of an event slot, the 64 bytes of a trip image in memory and in a TRIP body, and the two markers of a black box. -/
theorem wit_images :
    let e : Event := { tag := 0x0102, time := 0x0A0B0C0D, payload := .jobCancelled 7 }
    let r := { tripA with emergency := true, offerId := some 5, extras := 3, segments :=
      [{ slot := 1, version := 7, steps := 16777216 }, { slot := 2, version := 8, steps := 1 }] }
    let b := captureNow .request live
    (e.bytes.take 12 = [0x46, 4, 2, 1, 0x0D, 0x0C, 0x0B, 0x0A, 7, 0, 0, 0] ∧ e.bytes.length = 128) ∧
    (r.memoryImage.length = 64 ∧ natLE (slice r.memoryImage 24 4) = 2 ^ 24 + 2 ^ 29 ∧
      natLE (slice r.memoryImage 28 4) = 3 + 2 * 2 ^ 17 + 1 * 2 ^ 20 + 2 * 2 ^ 22 ∧
      natLE (slice r.memoryImage 46 3) = 16777215 ∧ slice r.airImage 4 4 = [0, 0, 0, 5]) ∧
    ((boxBytes none).take 2 = [1, 0] ∧ (boxBytes (some b)).take 4 = [2, 1, 0, 0xFF] ∧
      b.position = none) := by decide

/-- A state that has the laws, with a command at the front of its queue that answers a next state. -/
theorem wit_laws :
    let s := live.setPending [.secondTick]
    MemoryLaw s ∧ EventLaw s ∧ QueueLaw s ∧ MeterLaw s ∧ BooksLaw s ∧ TaskLaw s ∧ (∃ t, step s = .next t) := by
  refine ⟨rfl, ⟨rfl, by decide⟩, ⟨by decide, ?_, by decide⟩,
    ⟨by decide, by decide, fun _ => ⟨rfl, rfl, rfl, rfl, rfl, rfl, rfl, rfl⟩, by decide, by decide,
      by decide, rfl, ?_, ?_, by decide⟩, ?_, fun x h => absurd h (List.not_mem_nil), ⟨_, rfl⟩⟩
  · intro c; cases c <;> decide
  · intro t h; simp [live, State.setPending, State.reset, Meter.reset] at h
  · intro a h; cases h
  · rw [booksLaw_iff]
    exact books_empty (fun i => getD_replicate_none 8 i) (fun i => getD_replicate_none 8 i) rfl

/-- A captured box, an event task with its deposit to come and a request in hand, at a row that runs words; and a row that leaves the box as it is. -/
theorem wit_fare_and_box :
    let b := after (exec (.alarmRaise 2) live)
    let t := task (.event true) [.producer 1, .generated, .lost, .result]
    let s := ((withTask t (withEvents 1 b)).setReader
      { live.reader with kept := some [0x0B, 0, 1, 0] }).setPending [.eventTaskComplete]
    let p := b.setPending [.secondTick]
    (TaskLaw s ∧ s.emerg.box.isSome = true ∧ ∃ u, step s = .next u) ∧
    (p.pending = .secondTick :: [] ∧ p.emerg.box.isSome = true ∧ p.reader.kept = none ∧
      Instr.secondTick ∉ [Instr.agentWordEnd, .requestFetchComplete, .requestIndexComplete,
        .eventDeposited, .eventTaskComplete, .tripLogWriteComplete, .blackBoxWriteComplete]) := by
  refine ⟨⟨?_, by decide, ⟨_, rfl⟩⟩, by decide⟩
  intro x hx ws hw
  have e : x = task (.event true) [.producer 1, .generated, .lost, .result] :=
    List.mem_singleton.1 hx
  rw [e] at hw ⊢
  cases hw
  decide

end Sys2Proof.Tests
end

namespace Sys2Proof.Machine

/-! ### What a command answers -/

/-- The command answers a next state that has the property P. -/
def Answers (P : State → Prop) (c : Instr) (s : State) : Prop := ∃ t, exec c s = .next t ∧ P t

theorem Answers.of_next {P : State → Prop} {c : Instr} {s t : State} (h : Answers P c s)
    (e : exec c s = .next t) : P t := by
  obtain ⟨u, hu, p⟩ := h
  rw [e] at hu
  cases hu
  exact p

theorem Answers.imp {P Q : State → Prop} {c : Instr} {s : State} (h : Answers P c s)
    (k : ∀ t, P t → Q t) : Answers Q c s := by
  obtain ⟨t, e, p⟩ := h
  exact ⟨t, e, k t p⟩

/-- A step is the idling of an empty queue or the answer of the command at the front. -/
theorem step_cases {s t : State} (h : step s = .next t) :
    (s.pending = [] ∧ t = s) ∨
      ∃ c rest, s.pending = c :: rest ∧ exec c (s.setPending rest) = .next t := by
  unfold step at h
  split at h
  · rename_i e
    cases h
    exact Or.inl ⟨e, rfl⟩
  · rename_i c rest e
    exact Or.inr ⟨c, rest, e, h⟩

/-! ### The commands of the radio side, the offers and the texts -/

/-- The commands that leave the meter, the trips, the memory side and the black box alone, in every state. -/
def quietCommand : Instr → Bool
  | .holdoffEnd | .tripEnqueue | .dutySet .. | .accept .. | .decline .. | .sendText ..
  | .alarmCancel .. | .linkRestart .. | .requestUnknown .. | .heldReportPlaced
  | .attentionWordWrite .. | .gapLimitEnd | .syncHalfPauseEnd
  | .offer .. | .award .. | .reject .. | .withdraw .. | .text .. | .alarmAck .. | .alarmEnd ..
  | .ack .. | .poll .. | .channel ..
  | .channelChangeApply | .cdRise | .cdFall | .slotEnd | .congestionDwellEnd | .keyupDelayEnd
  | .transmissionEnd | .tailEnd | .turnaroundEnd | .settleEnd | .ackTimerEnd ..
  | .rdyRise | .rdyFall | .readyTimerEnd | .stuckBusyTimerEnd | .powerOffTimerEnd
  | .healthyTimerEnd | .offerWindowEnd .. | .awardWaitEnd | .eswFall | .eswRise
  | .repeatTimerEnd | .cooldownEnd | .trackingTimerEnd | .graceTimerEnd | .alertPulseEnd
  | .strapChange .. => true
  | _ => false

theorem when_quiet {p : Prop} [Decidable p] {f : State → State} (h : ∀ s, Quiet s (f s))
    (s : State) : Quiet s (if p then f s else s) := Quiet.ite (fun _ => h s) (fun _ => Quiet.refl s)

theorem unless_quiet {p : Prop} [Decidable p] {f : State → State} (h : ∀ s, Quiet s (f s))
    (s : State) : Quiet s (if p then s else f s) := Quiet.ite (fun _ => Quiet.refl s) (fun _ => h s)

theorem ackTimer_quiet (q : Nat) (s : State) : Quiet s
    (match entryWith q s with
      | some e => if e.state = .awaitAck then ackTimeout e s else s
      | none => s) := by
  split
  · exact when_quiet (ackTimeout_quiet _) s
  · exact Quiet.refl s

theorem alertPulse_quiet (s : State) : Quiet s
    (match s.attn.alertEnd with
      | some e => if e < Config.basePeriods * (s.secs + 1)
          then s.setAttn { s.attn with alertEnd := none } else s
      | none => s) := by
  split
  · exact when_quiet (fun t => Quiet.setAttn t _) s
  · exact Quiet.refl s

theorem eswFall_quiet (s : State) : Quiet s (eswFall s) :=
  Quiet.ite (fun _ => Quiet.setEmerg rfl) (fun _ => Quiet.refl s)

theorem eswRise_quiet (s : State) : Quiet s (eswRise s) := Quiet.setEmerg rfl

theorem setEsw_quiet (b : Bool) (s : State) : Quiet s (setEsw b s) := Quiet.setPins s _

theorem writeAttention_quiet (v : Word) (s : State) : Quiet s (writeAttention v s) :=
  Quiet.setAttn s _

theorem exec_quiet {c : Instr} (h : quietCommand c = true) (s : State) : Answers (Quiet s) c s := by
  have placed {f : State → State} (k : ∀ s, Quiet s (f s)) (s : State) : Quiet s (placeHeld (f s)) :=
    (k s).trans (placeHeld_quiet _)
  cases c
  case holdoffEnd => exact ⟨_, rfl, atTickOr_quiet holdoffEnd_quiet spareRelease_quiet s⟩
  case tripEnqueue => exact ⟨_, rfl, tripTest_quiet s⟩
  case dutySet tag v => exact ⟨_, rfl, when_quiet (reqDuty_quiet tag v) s⟩
  case accept tag id => exact ⟨_, rfl, when_quiet (reqAccept_quiet tag id) s⟩
  case decline tag id => exact ⟨_, rfl, when_quiet (reqDecline_quiet tag id) s⟩
  case sendText tag k x => exact ⟨_, rfl, when_quiet (reqSendText_quiet tag k x) s⟩
  case alarmCancel tag => exact ⟨_, rfl, when_quiet (reqCancel_quiet tag) s⟩
  case linkRestart tag => exact ⟨_, rfl, when_quiet (reqRestart_quiet tag) s⟩
  case requestUnknown tag k => exact ⟨_, rfl, when_quiet (reqUnknown_quiet tag k) s⟩
  case heldReportPlaced => exact ⟨_, rfl, placeOne_quiet s⟩
  case attentionWordWrite v => exact ⟨_, rfl, when_quiet (writeAttention_quiet v) s⟩
  case gapLimitEnd => exact ⟨_, rfl, gapEnd_quiet s⟩
  case syncHalfPauseEnd => exact ⟨_, rfl, when_quiet (fun t => Quiet.setRx t _) s⟩
  case offer f => exact ⟨_, rfl, when_quiet (takeOffer_quiet f) s⟩
  case award f => exact ⟨_, rfl, when_quiet (takeAward_quiet f) s⟩
  case reject f => exact ⟨_, rfl, when_quiet (takeReject_quiet f) s⟩
  case withdraw f => exact ⟨_, rfl, when_quiet (takeWithdraw_quiet f) s⟩
  case text f => exact ⟨_, rfl, when_quiet (takeText_quiet f) s⟩
  case alarmAck f => exact ⟨_, rfl, when_quiet (takeAlarmAck_quiet f) s⟩
  case alarmEnd f => exact ⟨_, rfl, when_quiet (takeAlarmEnd_quiet f) s⟩
  case ack f => exact ⟨_, rfl, when_quiet (takeAck_quiet f) s⟩
  case poll f => exact ⟨_, rfl, when_quiet (takePoll_quiet f) s⟩
  case channel f => exact ⟨_, rfl, when_quiet (takeChannel_quiet f) s⟩
  case channelChangeApply => exact ⟨_, rfl, when_quiet applyChannel_quiet s⟩
  case cdRise => exact ⟨_, rfl, unless_quiet cdRise_quiet s⟩
  case cdFall => exact ⟨_, rfl, when_quiet cdFall_quiet s⟩
  case slotEnd => exact ⟨_, rfl, when_quiet slotEnd_quiet s⟩
  case congestionDwellEnd => exact ⟨_, rfl, when_quiet dwellEnd_quiet s⟩
  case keyupDelayEnd => exact ⟨_, rfl, when_quiet keyupEnd_quiet s⟩
  case transmissionEnd => exact ⟨_, rfl, when_quiet transmissionEnd_quiet s⟩
  case tailEnd => exact ⟨_, rfl, when_quiet tailEnd_quiet s⟩
  case turnaroundEnd =>
    exact ⟨_, rfl, when_quiet
      (fun t => Quiet.ite (fun _ => applyChannel_quiet t) (fun _ => enterListen_quiet t)) s⟩
  case settleEnd => exact ⟨_, rfl, when_quiet enterListen_quiet s⟩
  case ackTimerEnd q => exact ⟨_, rfl, ackTimer_quiet q.toNat s⟩
  case rdyRise => exact ⟨_, rfl, unless_quiet rdyRise_quiet s⟩
  case rdyFall => exact ⟨_, rfl, when_quiet rdyFall_quiet s⟩
  case readyTimerEnd => exact ⟨_, rfl, atTickOr_quiet readyEnd_quiet spareSup_quiet s⟩
  case stuckBusyTimerEnd => exact ⟨_, rfl, atTickOr_quiet stuckBusyEnd_quiet spareSup_quiet s⟩
  case powerOffTimerEnd => exact ⟨_, rfl, when_quiet (atTick_quiet powerOffEnd_quiet) s⟩
  case healthyTimerEnd => exact ⟨_, rfl, atTickOr_quiet healthyEnd_quiet spareSup_quiet s⟩
  case offerWindowEnd i =>
    exact ⟨_, rfl, when_quiet
      (atTickOr_quiet (placed (windowEnd_quiet i.val)) spareRaise_quiet) s⟩
  case awardWaitEnd => exact ⟨_, rfl, when_quiet (atTick_quiet (placed awardWaitEnd_quiet)) s⟩
  case eswFall =>
    exact ⟨_, rfl, when_quiet (fun t => (setEsw_quiet false t).trans
      (unless_quiet eswFall_quiet _)) s⟩
  case eswRise =>
    exact ⟨_, rfl, unless_quiet (fun t => (setEsw_quiet true t).trans
      (unless_quiet eswRise_quiet _)) s⟩
  case repeatTimerEnd =>
    exact ⟨_, rfl, when_quiet (atTickOr_quiet (placed repeatEnd_quiet) spareCall_quiet) s⟩
  case cooldownEnd =>
    exact ⟨_, rfl, when_quiet (atTickOr_quiet (placed nextRound_quiet) spareCall_quiet) s⟩
  case trackingTimerEnd => exact ⟨_, rfl, when_quiet (atTick_quiet (placed trackNow_quiet)) s⟩
  case graceTimerEnd => exact ⟨_, rfl, atTickOr_quiet graceEnd_quiet spareRaise_quiet s⟩
  case alertPulseEnd => exact ⟨_, rfl, alertPulse_quiet s⟩
  case strapChange a b => exact ⟨_, rfl, Quiet.setPins s _⟩
  all_goals cases h

end Sys2Proof.Machine

namespace Sys2Proof.Machine

/-! ### The four laws across the other commands -/

theorem when_keeps {p : Prop} [Decidable p] {f : State → State} (h : ∀ s, Keeps s (f s))
    (s : State) : Keeps s (if p then f s else s) := Keeps.ite (fun _ => h s) (fun _ => Keeps.refl s)

theorem unless_keeps {p : Prop} [Decidable p] {f : State → State} (h : ∀ s, Keeps s (f s))
    (s : State) : Keeps s (if p then s else f s) := Keeps.ite (fun _ => Keeps.refl s) (fun _ => h s)

/-- A row that runs the words left to a first task of some kinds. -/
theorem runTaskRow_keeps (s : State) : Keeps s (withPort (runTask wordFuel) s) :=
  withPort_keeps (runTask_keeps wordFuel) s

theorem processorAccess_keeps (a : Access) (s : State) : Keeps s
    (if s.path.inHand.isSome then s
      else if processorWaits (classify a s) then arbitrate (classify a s) else classify a s) :=
  unless_keeps (fun t => (classify_keeps a t).trans (when_keeps arbitrate_keeps _)) s

theorem accessComplete_keeps (s : State) : Keeps s
    (match (arbitrate s).path.inHand with
      | some h => if (arbitrate s).path.port = .processor ∧ h.stage = .onPort
          then finishAccess h.access (arbitrate s) else s
      | none => s) := by
  split
  · exact Keeps.ite (fun _ => (arbitrate_keeps s).trans (finishAccess_keeps _ _))
      (fun _ => Keeps.refl s)
  · exact Keeps.refl s

theorem freePort_keeps (s : State) : Keeps s (freePort s) := Keeps.setPath s _

theorem initialRun_keeps (left : List (Nat × Word)) (s : State) :
    Keeps s (arbitrate (withPort (fun t => initialDone (writeAll left t)) s)) :=
  (withPort_keeps (fun t => (writeAll_keeps left t).trans (initialDone_keeps _)) s).trans
    (arbitrate_keeps _)

theorem exec_keeps (c : Instr) (s : State) : Answers (Keeps s) c s := by
  cases q : quietCommand c with
  | true => exact (exec_quiet q s).imp (fun _ h => h.keeps)
  | false =>
    cases c
    case fullReset => exact ⟨_, rfl, fullReset_keeps s⟩
    case resetAssert => exact ⟨_, rfl, when_keeps assertReset_keeps s⟩
    case resetRelease => exact ⟨_, rfl, unless_keeps releaseReset_keeps s⟩
    case initialWritesDone =>
      refine ⟨_, rfl, ?_⟩
      split
      · exact when_keeps (initialRun_keeps _) s
      · exact Keeps.refl s
    case odoPulse => exact ⟨_, rfl, unless_keeps odoPulse_keeps s⟩
    case secondTick => exact ⟨_, rfl, unless_keeps secondTick_keeps s⟩
    case tariff f => exact ⟨_, rfl, when_keeps (takeTariff_keeps f) s⟩
    case meterHire tag i => exact ⟨_, rfl, when_keeps (reqHire_keeps tag i) s⟩
    case meterStop tag => exact ⟨_, rfl, when_keeps (reqStop_keeps tag) s⟩
    case meterResume tag => exact ⟨_, rfl, when_keeps (reqResume_keeps tag) s⟩
    case meterExtra tag n k => exact ⟨_, rfl, when_keeps (reqExtra_keeps tag n k) s⟩
    case meterClear tag => exact ⟨_, rfl, when_keeps (reqClear_keeps tag) s⟩
    case tariffSelect tag i => exact ⟨_, rfl, when_keeps (reqSelect_keeps tag i) s⟩
    case shiftClose tag => exact ⟨_, rfl, when_keeps (reqShiftClose_keeps tag) s⟩
    case alarmRaise tag => exact ⟨_, rfl, when_keeps (reqRaise_keeps tag) s⟩
    case blackboxClear tag => exact ⟨_, rfl, when_keeps (reqBoxClear_keeps tag) s⟩
    case holdTimerEnd => exact ⟨_, rfl, when_keeps (unless_keeps holdEnd_keeps) s⟩
    case requestFetchStart => exact ⟨_, rfl, when_keeps (requestTask_keeps _) s⟩
    case requestFetchComplete =>
      refine ⟨_, rfl, ?_⟩
      split
      · exact when_keeps runTaskRow_keeps s
      · exact Keeps.refl s
    case requestIndexComplete => exact ⟨_, rfl, when_keeps runTaskRow_keeps s⟩
    case eventTaskStart => exact ⟨_, rfl, startEventTask_keeps s⟩
    case eventDeposited =>
      exact ⟨_, rfl, when_keeps (withPort_keeps (runToDeposit_keeps wordFuel)) s⟩
    case eventTaskComplete =>
      refine ⟨_, rfl, ?_⟩
      split
      · exact when_keeps runTaskRow_keeps s
      · exact Keeps.refl s
    case tripLogWriteComplete => exact ⟨_, rfl, when_keeps runTaskRow_keeps s⟩
    case blackBoxWriteComplete => exact ⟨_, rfl, when_keeps runTaskRow_keeps s⟩
    case agentWordEnd =>
      exact ⟨_, rfl, Keeps.ite (fun _ => (arbitrate_keeps s).trans ((freePort_keeps _).trans
        ((agentStep_keeps _).trans (arbitrate_keeps _)))) (fun _ => Keeps.refl s)⟩
    case portGrant => exact ⟨_, rfl, arbitrate_keeps s⟩
    case processorAccess a => exact ⟨_, rfl, processorAccess_keeps a s⟩
    case processorAccessComplete => exact ⟨_, rfl, accessComplete_keeps s⟩
    case requestProducerIndexWrite v =>
      exact ⟨_, rfl, whenOpen_keeps (snoopedWrite_keeps _ _ v) s⟩
    case eventConsumerIndexWrite v => exact ⟨_, rfl, whenOpen_keeps (snoopedWrite_keeps _ _ v) s⟩
    case attentionEnableWrite v => exact ⟨_, rfl, whenOpen_keeps (snoopedWrite_keeps _ _ v) s⟩
    case settingsCommit v => exact ⟨_, rfl, whenOpen_keeps (snoopedWrite_keeps _ _ v) s⟩
    case positionCommit v => exact ⟨_, rfl, whenOpen_keeps (snoopedWrite_keeps _ _ v) s⟩
    case snoopedWordWrite off l v =>
      exact ⟨_, rfl, whenOpen_keeps (when_keeps (snoopedWrite_keeps _ l v)) s⟩
    case guardViolation => exact ⟨_, rfl, whenOpen_keeps (when_keeps guardViolation_keeps) s⟩
    case snapshotLatch => exact ⟨_, rfl, whenOpen_keeps latchAndAnswer_keeps s⟩
    case rxdCharacter b p x y => exact ⟨_, rfl, when_keeps (receiveChar_keeps b.bits p x y) s⟩
    all_goals cases q

/-- The queue of commands is no part of the four laws. -/
theorem step_keeps {s t : State} (h : step s = .next t) :
    (MemoryLaw s → MemoryLaw t) ∧ (EventLaw s → EventLaw t) ∧ (QueueLaw s → QueueLaw t) ∧
      (MeterLaw s → MeterLaw t) := by
  rcases step_cases h with ⟨-, rfl⟩ | ⟨c, rest, -, e⟩
  · exact ⟨id, id, id, id⟩
  · have k := (exec_keeps c (s.setPending rest)).of_next e
    exact ⟨k.mem, k.events, k.queue, k.meter⟩

/-- Settles O58: each command keeps the four laws, so every step does. -/
theorem everyStepKeepsTheDeviceLaws : Obligations.EveryStepKeepsTheDeviceLaws :=
  fun _ _ h => step_keeps h

end Sys2Proof.Machine

namespace Sys2Proof.Machine

/-! ### The agent's task list across every command -/

theorem when_tasks {p : Prop} [Decidable p] {s t : State} (l : TaskLaw s)
    (h : TaskLaw s → TaskLaw t) : TaskLaw (if p then t else s) := by
  split
  · exact h l
  · exact l

theorem unless_tasks {p : Prop} [Decidable p] {s t : State} (l : TaskLaw s)
    (h : TaskLaw s → TaskLaw t) : TaskLaw (if p then s else t) := by
  split
  · exact l
  · exact h l

theorem runTaskRow_tasks {s : State} (l : TaskLaw s) : TaskLaw (withPort (runTask wordFuel) s) :=
  runTask_law wordFuel (s := grantAgent s) l

theorem runToDepositRow_tasks {s : State} (l : TaskLaw s) :
    TaskLaw (withPort (runToDeposit wordFuel) s) :=
  runToDeposit_law wordFuel (s := grantAgent s) l

theorem initialRun_tasks (left : List (Nat × Word)) {s : State} (l : TaskLaw s) :
    TaskLaw (arbitrate (withPort (fun t => initialDone (writeAll left t)) s)) :=
  (arbitrate_lists _).law
    (((initialDone_lists _).before (writeAll_lists left (grantAgent s))).law l)

theorem agentWordEnd_tasks {s : State} (l : TaskLaw s) :
    TaskLaw (arbitrate (agentStep (freePort (arbitrate s)))) :=
  (arbitrate_lists _).law (agentStep_law (s := freePort (arbitrate s)) ((arbitrate_lists s).law l))

theorem accessComplete_tasks {s : State} (l : TaskLaw s) : TaskLaw
    (match (arbitrate s).path.inHand with
      | some h => if (arbitrate s).path.port = .processor ∧ h.stage = .onPort
          then finishAccess h.access (arbitrate s) else s
      | none => s) := by
  split
  · exact when_tasks l (fun k => (finishAccess_lists _ _).law ((arbitrate_lists s).law k))
  · exact l

theorem whenOpen_tasks {f : State → State} (h : ∀ s, Lists s (f s)) {s : State} (l : TaskLaw s) :
    TaskLaw (whenOpen f s) := when_tasks l (h s).law

theorem snoopedWordWrite_tasks (off : Nat) (lanes : BitVec 4) (v : Word) (s : State) :
    Lists s (if treatment off = .snoop then snoopedWrite off lanes v s else s) :=
  Lists.ite (fun _ => snoopedWrite_lists off lanes v s) (fun _ => Lists.refl s)

theorem holdEnd_lists (s : State) : Lists s (holdEnd s) := (raise_lists .switch 0 _).from_same rfl

theorem processorAccess_tasks (a : Access) {s : State} (l : TaskLaw s) : TaskLaw
    (if processorWaits (classify a s) then arbitrate (classify a s) else classify a s) := by
  have k : TaskLaw (classify a s) := (classify_lists a s).law l
  exact when_tasks k (arbitrate_lists _).law

theorem exec_tasks (c : Instr) {s : State} (l : TaskLaw s) : Answers TaskLaw c s := by
  cases q : quietCommand c with
  | true => exact (exec_quiet q s).imp (fun _ h => (Lists.of_quiet h).law l)
  | false =>
    cases c
    case fullReset => exact ⟨_, rfl, TaskLaw.empty rfl⟩
    case resetAssert => exact ⟨_, rfl, when_tasks l (fun _ => TaskLaw.empty rfl)⟩
    case resetRelease => exact ⟨_, rfl, unless_tasks l (releaseReset_lists s).law⟩
    case initialWritesDone =>
      refine ⟨_, rfl, ?_⟩
      split
      · exact when_tasks l (initialRun_tasks _)
      · exact l
    case odoPulse => exact ⟨_, rfl, unless_tasks l (odoPulse_lists s).law⟩
    case secondTick => exact ⟨_, rfl, unless_tasks l (secondTick_lists s).law⟩
    case tariff f => exact ⟨_, rfl, when_tasks l (takeTariff_lists f s).law⟩
    case meterHire tag i => exact ⟨_, rfl, when_tasks l (reqHire_lists tag i s).law⟩
    case meterStop tag => exact ⟨_, rfl, when_tasks l (reqStop_lists tag s).law⟩
    case meterResume tag => exact ⟨_, rfl, when_tasks l (reqResume_lists tag s).law⟩
    case meterExtra tag n k => exact ⟨_, rfl, when_tasks l (reqExtra_lists tag n k s).law⟩
    case meterClear tag => exact ⟨_, rfl, when_tasks l (reqClear_lists tag s).law⟩
    case tariffSelect tag i => exact ⟨_, rfl, when_tasks l (reqSelect_lists tag i s).law⟩
    case shiftClose tag => exact ⟨_, rfl, when_tasks l (reqShiftClose_lists tag s).law⟩
    case alarmRaise tag => exact ⟨_, rfl, when_tasks l (raise_lists .request tag s).law⟩
    case blackboxClear tag => exact ⟨_, rfl, when_tasks l (reqBoxClear_lists tag s).law⟩
    case holdTimerEnd =>
      exact ⟨_, rfl, when_tasks l (fun k => unless_tasks k (holdEnd_lists s).law)⟩
    case requestFetchStart => exact ⟨_, rfl, when_tasks l (requestTask_lists _ s).law⟩
    case requestFetchComplete =>
      refine ⟨_, rfl, ?_⟩
      split
      · exact when_tasks l runTaskRow_tasks
      · exact l
    case requestIndexComplete => exact ⟨_, rfl, when_tasks l runTaskRow_tasks⟩
    case eventTaskStart => exact ⟨_, rfl, (startEventTask_lists s).law l⟩
    case eventDeposited => exact ⟨_, rfl, when_tasks l runToDepositRow_tasks⟩
    case eventTaskComplete =>
      refine ⟨_, rfl, ?_⟩
      split
      · exact when_tasks l runTaskRow_tasks
      · exact l
    case tripLogWriteComplete => exact ⟨_, rfl, when_tasks l runTaskRow_tasks⟩
    case blackBoxWriteComplete => exact ⟨_, rfl, when_tasks l runTaskRow_tasks⟩
    case agentWordEnd => exact ⟨_, rfl, when_tasks l agentWordEnd_tasks⟩
    case portGrant => exact ⟨_, rfl, (arbitrate_lists s).law l⟩
    case processorAccess a =>
      exact ⟨_, rfl, unless_tasks l (processorAccess_tasks a)⟩
    case processorAccessComplete => exact ⟨_, rfl, accessComplete_tasks l⟩
    case requestProducerIndexWrite v =>
      exact ⟨_, rfl, whenOpen_tasks (snoopedWrite_lists _ _ v) l⟩
    case eventConsumerIndexWrite v => exact ⟨_, rfl, whenOpen_tasks (snoopedWrite_lists _ _ v) l⟩
    case attentionEnableWrite v => exact ⟨_, rfl, whenOpen_tasks (snoopedWrite_lists _ _ v) l⟩
    case settingsCommit v => exact ⟨_, rfl, whenOpen_tasks (snoopedWrite_lists _ _ v) l⟩
    case positionCommit v => exact ⟨_, rfl, whenOpen_tasks (snoopedWrite_lists _ _ v) l⟩
    case snoopedWordWrite off x v =>
      exact ⟨_, rfl, whenOpen_tasks (snoopedWordWrite_tasks (wordOffset off) x v) l⟩
    case guardViolation =>
      exact ⟨_, rfl, when_tasks l (fun k => when_tasks k (guardViolation_lists s).law)⟩
    case snapshotLatch => exact ⟨_, rfl, when_tasks l id⟩
    case rxdCharacter b p x y =>
      exact ⟨_, rfl, when_tasks l (receiveChar_lists b.bits p x y s).law⟩
    all_goals cases q

/-! ### The live fare and the black box across every command -/

/-- The fare does not fall and a captured box stays or is emptied; with no request in hand it stays. -/
structure Settled (s t : State) : Prop where
  fine : Fine s t
  firm : s.reader.kept = none → Firm s t

theorem Firm.settled {s t : State} (h : Firm s t) : Settled s t := ⟨h.fine, fun _ => h⟩

theorem Steady.settled {s t : State} (h : Steady s t) : Settled s t := h.firm.settled

theorem Hard.settled {s t : State} (h : Hard s t) : Settled s t := h.firm.settled

theorem Settled.refl (s : State) : Settled s s := (Steady.refl s).settled

theorem Settled.ite {p : Prop} [Decidable p] {s t u : State} (h : p → Settled s t)
    (k : ¬p → Settled s u) : Settled s (if p then t else u) := by
  by_cases c : p
  · rw [if_pos c]; exact h c
  · rw [if_neg c]; exact k c

theorem when_settled {p : Prop} [Decidable p] {s t : State} (h : Settled s t) :
    Settled s (if p then t else s) := Settled.ite (fun _ => h) (fun _ => Settled.refl s)

theorem unless_settled {p : Prop} [Decidable p] {s t : State} (h : Settled s t) :
    Settled s (if p then s else t) := Settled.ite (fun _ => Settled.refl s) (fun _ => h)

theorem arbitrate_steady (s : State) : Steady s (arbitrate s) := Steady.of_side (arbitrate_side s)

theorem initialRun_steady (left : List (Nat × Word)) (s : State) :
    Steady s (arbitrate (withPort (fun t => initialDone (writeAll left t)) s)) := by
  have h : Steady (grantAgent s) (initialDone (writeAll left (grantAgent s))) :=
    Steady.before (initialDone_steady _) (writeAll_steady left (grantAgent s))
  exact Steady.before (arbitrate_steady _) ⟨h.state, h.fare, h.active, h.box⟩

theorem accessComplete_steady (s : State) : Steady s
    (match (arbitrate s).path.inHand with
      | some h => if (arbitrate s).path.port = .processor ∧ h.stage = .onPort
          then finishAccess h.access (arbitrate s) else s
      | none => s) := by
  split
  · exact Steady.ite (fun _ => Steady.before (finishAccess_steady _ _) (arbitrate_steady s))
      (fun _ => Steady.refl s)
  · exact Steady.refl s

theorem processorAccess_steady (a : Access) (s : State) : Steady s
    (if processorWaits (classify a s) then arbitrate (classify a s) else classify a s) := by
  have h : Steady s (classify a s) := Steady.of_side (classify_side a s)
  exact Steady.ite (fun _ => Steady.before (arbitrate_steady _) h) (fun _ => h)

theorem holdEnd_hard (s : State) : Hard s (holdEnd s) := by
  have h := raise_hard .switch 0 (s.setEmerg { s.emerg with holdTimer := none, armed := false })
  exact ⟨h.even, h.box⟩

theorem Settled.of_hear {s t : State} (h : Plain s t ∧ (s.reader.kept = none → Steady s t)) :
    Settled s t := ⟨h.1.fine, fun k => (h.2 k).firm⟩

/-- The commands at which a captured box may be emptied: the full reset, BLACKBOX_CLEAR, and the rows at which the agent's words end, where a fetched request may be taken. -/
def mayEmptyBox : Instr → Bool
  | .fullReset | .blackboxClear _ | .agentWordEnd | .requestFetchComplete | .requestIndexComplete
  | .eventDeposited | .eventTaskComplete | .tripLogWriteComplete | .blackBoxWriteComplete => true
  | _ => false

theorem mayEmptyBox_false {c : Instr} (h1 : c ≠ .fullReset) (h2 : ∀ tag, c ≠ .blackboxClear tag)
    (h3 : c ∉ [Instr.agentWordEnd, .requestFetchComplete, .requestIndexComplete, .eventDeposited,
      .eventTaskComplete, .tripLogWriteComplete, .blackBoxWriteComplete]) :
    mayEmptyBox c = false := by
  cases b : mayEmptyBox c with
  | false => rfl
  | true =>
    cases c
    case fullReset => exact absurd rfl h1
    case blackboxClear tag => exact absurd rfl (h2 tag)
    case agentWordEnd | requestFetchComplete | requestIndexComplete | eventDeposited |
        eventTaskComplete | tripLogWriteComplete | blackBoxWriteComplete =>
      exact absurd (by simp) h3
    all_goals cases b

theorem exec_settled {c : Instr} (b : mayEmptyBox c = false) {s : State}
    (f : s.meter.fare ≤ 9999999) : Answers (Settled s) c s := by
  cases q : quietCommand c with
  | true => exact (exec_quiet q s).imp (fun _ h => (Steady.of_quiet h).settled)
  | false =>
    cases c
    case resetAssert => exact ⟨_, rfl, when_settled (assertReset_steady s).settled⟩
    case resetRelease => exact ⟨_, rfl, unless_settled (releaseReset_steady s).settled⟩
    case initialWritesDone =>
      refine ⟨_, rfl, ?_⟩
      split
      · exact when_settled (initialRun_steady _ s).settled
      · exact Settled.refl s
    case odoPulse => exact ⟨_, rfl, unless_settled (odoPulse_firm f).settled⟩
    case secondTick => exact ⟨_, rfl, unless_settled (secondTick_firm f).settled⟩
    case tariff x => exact ⟨_, rfl, when_settled (takeTariff_steady x s).1.settled⟩
    case meterHire tag i => exact ⟨_, rfl, when_settled (reqHire_hard tag i s).settled⟩
    case meterStop tag => exact ⟨_, rfl, when_settled (reqStop_hard tag s).settled⟩
    case meterResume tag => exact ⟨_, rfl, when_settled (reqResume_hard tag s).settled⟩
    case meterExtra tag n k => exact ⟨_, rfl, when_settled (reqExtra_hard tag n k s).settled⟩
    case meterClear tag => exact ⟨_, rfl, when_settled (reqClear_hard tag s).settled⟩
    case tariffSelect tag i => exact ⟨_, rfl, when_settled (reqSelect_hard tag i s).settled⟩
    case shiftClose tag => exact ⟨_, rfl, when_settled (reqShiftClose_steady tag s).settled⟩
    case alarmRaise tag => exact ⟨_, rfl, when_settled (raise_hard .request tag s).settled⟩
    case holdTimerEnd =>
      exact ⟨_, rfl, when_settled (unless_settled (holdEnd_hard s).settled)⟩
    case requestFetchStart => exact ⟨_, rfl, when_settled (requestTask_steady _ s).settled⟩
    case eventTaskStart => exact ⟨_, rfl, (startEventTask_steady s).settled⟩
    case portGrant => exact ⟨_, rfl, (arbitrate_steady s).settled⟩
    case processorAccess a =>
      exact ⟨_, rfl, unless_settled (processorAccess_steady a s).settled⟩
    case processorAccessComplete => exact ⟨_, rfl, (accessComplete_steady s).settled⟩
    case requestProducerIndexWrite v =>
      exact ⟨_, rfl, when_settled (snoopedWrite_steady _ _ v s).settled⟩
    case eventConsumerIndexWrite v =>
      exact ⟨_, rfl, when_settled (snoopedWrite_steady _ _ v s).settled⟩
    case attentionEnableWrite v =>
      exact ⟨_, rfl, when_settled (snoopedWrite_steady _ _ v s).settled⟩
    case settingsCommit v => exact ⟨_, rfl, when_settled (snoopedWrite_steady _ _ v s).settled⟩
    case positionCommit v => exact ⟨_, rfl, when_settled (snoopedWrite_steady _ _ v s).settled⟩
    case snoopedWordWrite off x v =>
      exact ⟨_, rfl, when_settled (when_settled (snoopedWrite_steady _ x v s).settled)⟩
    case guardViolation =>
      exact ⟨_, rfl, when_settled (when_settled (Steady.of_side (guardViolation_side s)).settled)⟩
    case snapshotLatch =>
      exact ⟨_, rfl, when_settled (Steady.of_side (latchAndAnswer_side s)).settled⟩
    case rxdCharacter x p y z =>
      exact ⟨_, rfl, when_settled (Settled.of_hear (receiveChar_plain x.bits p y z s))⟩
    case fullReset | blackboxClear | agentWordEnd | requestFetchComplete | requestIndexComplete |
        eventDeposited | eventTaskComplete | tripLogWriteComplete | blackBoxWriteComplete => cases b
    all_goals cases q

/-! ### The rows at which the agent's words end -/

theorem Fine.refl (s : State) : Fine s s := (Steady.refl s).firm.fine

theorem when_fine {p : Prop} [Decidable p] {s t : State} (h : p → Fine s t) :
    Fine s (if p then t else s) := by
  by_cases c : p
  · rw [if_pos c]; exact h c
  · rw [if_neg c]; exact Fine.refl s

/-- The agent's use of the port is no part of what the fare and the box stand on. -/
theorem withPort_plain {f : State → State} {s : State} (h : Plain (grantAgent s) (f (grantAgent s))) :
    Plain s (withPort f s) := ⟨h.even, h.box⟩

theorem runTaskRow_fine {s : State} (l : TaskLaw s) : Fine s (withPort (runTask wordFuel) s) :=
  (withPort_plain (runTask_once wordFuel (s := grantAgent s) l)).fine

theorem agentWordEnd_fine {s : State} (l : TaskLaw s) :
    Fine s (arbitrate (agentStep (freePort (arbitrate s)))) := by
  have g : Steady s (freePort (arbitrate s)) :=
    Steady.before (t := arbitrate s) ⟨rfl, rfl, rfl, rfl⟩ (arbitrate_steady s)
  have h : Plain s (agentStep (freePort (arbitrate s))) :=
    g.thenPlain (agentStep_once ((arbitrate_lists s).law l))
  exact (h.thenSteady (arbitrate_steady _)).fine

theorem headWords_any {s : State} {p : AgentWord → Bool} (h : (headWords s).any p = true) :
    ∃ t ts ws, s.agent.tasks = t :: ts ∧ t.words = some ws ∧ ws.any p = true := by
  unfold headWords at h
  split at h
  · rename_i t ts e
    cases k : t.words with
    | none => rw [k] at h; cases h
    | some ws => exact ⟨t, ts, ws, e, k, by rw [k] at h; exact h⟩
  · cases h

theorem runToDepositRow_fine {s : State} (l : TaskLaw s)
    (h : (headWords s).any AgentWord.isProducer = true) :
    Fine s (withPort (runToDeposit wordFuel) s) := by
  obtain ⟨t, ts, ws, e, k, z⟩ := headWords_any h
  exact (withPort_plain (runToDeposit_once wordFuel (s := grantAgent s) l e k z)).fine

theorem isProducer_eq : AgentWord.isProducer = fun w => match w with
    | .producer _ => true
    | _ => false := by
  funext w
  cases w <;> rfl

theorem exec_fine_of_mayEmptyBox {c : Instr} (b : mayEmptyBox c = true) {s : State}
    (l : TaskLaw s) : Answers (Fine s) c s := by
  cases c
  case fullReset => exact ⟨_, rfl, fullReset_fine s⟩
  case blackboxClear tag => exact ⟨_, rfl, when_fine (fun _ => (reqBoxClear_plain tag s).fine)⟩
  case agentWordEnd => exact ⟨_, rfl, when_fine (fun _ => agentWordEnd_fine l)⟩
  case requestFetchComplete =>
    refine ⟨_, rfl, ?_⟩
    split
    · exact when_fine (fun _ => runTaskRow_fine l)
    · exact Fine.refl s
  case requestIndexComplete => exact ⟨_, rfl, when_fine (fun _ => runTaskRow_fine l)⟩
  case eventDeposited =>
    refine ⟨_, rfl, when_fine (fun h => runToDepositRow_fine l ?_)⟩
    rw [isProducer_eq]
    exact (Bool.and_eq_true_iff.1 h).2
  case eventTaskComplete =>
    refine ⟨_, rfl, ?_⟩
    split
    · exact when_fine (fun _ => runTaskRow_fine l)
    · exact Fine.refl s
  case tripLogWriteComplete => exact ⟨_, rfl, when_fine (fun _ => runTaskRow_fine l)⟩
  case blackBoxWriteComplete => exact ⟨_, rfl, when_fine (fun _ => runTaskRow_fine l)⟩
  all_goals cases b

theorem exec_fine (c : Instr) {s : State} (f : s.meter.fare ≤ 9999999) (l : TaskLaw s) :
    Answers (Fine s) c s := by
  cases b : mayEmptyBox c with
  | true => exact exec_fine_of_mayEmptyBox b l
  | false => exact (exec_settled b f).imp (fun _ h => h.fine)

theorem MeterLaw.fare_le {s : State} (m : MeterLaw s) : s.meter.fare ≤ 9999999 := by
  obtain ⟨-, -, -, h, -⟩ := m
  exact h

theorem step_fine {s t : State} (h : step s = .next t) (m : MeterLaw s) (l : TaskLaw s) :
    FareLaw s t ∧ BoxLaw s t ∧ TaskLaw t := by
  rcases step_cases h with ⟨-, rfl⟩ | ⟨c, rest, -, e⟩
  · exact ⟨(Fine.refl t).fare, (Fine.refl t).box, l⟩
  · have k := (exec_fine c (s := s.setPending rest) m.fare_le l).of_next e
    exact ⟨k.fare, k.box, (exec_tasks c (s := s.setPending rest) l).of_next e⟩

theorem exec_keeps_box {c : Instr} (b : mayEmptyBox c = false) {s t : State} (e : exec c s = .next t)
    (m : MeterLaw s) (k : s.reader.kept = none) {x : BlackBox} (h : s.emerg.box = some x) :
    t.emerg.box = some x :=
  (((exec_settled b m.fare_le).of_next e).firm k).box x h

/-- Settles O60: each command answers with the fare law and the box law by what its operations leave alone; the seven rows of agent words rest on the law of the task list. -/
theorem theFareNeverFallsAndTheBoxStays : Obligations.TheFareNeverFallsAndTheBoxStays := by
  refine ⟨fun s t h m l => step_fine h m l, ?_, fun b s => ?_⟩
  · intro s t c rest p h m n1 n2 n3 k b hb
    have e : exec c (s.setPending rest) = .next t := by
      unfold step at h
      rw [p] at h
      exact h
    exact exec_keeps_box (s := s.setPending rest) (mayEmptyBox_false n1 n2 n3) e m k hb
  · have w := (takeWork_plain s).fine
    have d := (fetchDone_plain b s).fine
    exact ⟨w.fare, w.box, d.fare, d.box⟩

end Sys2Proof.Machine

namespace Sys2Proof.Machine

/-! ### The full reset -/

/-- The reset state is its own full reset: the levels of its lines and its bookkeeping are those at reset. -/
theorem fullReset_reset : fullReset State.reset = State.reset := rfl

/-- Settles O57: the reset state is a full reset's, after which the laws hold whatever was before. -/
theorem theDeviceLawsHoldAtReset : Obligations.TheDeviceLawsHoldAtReset := by
  obtain ⟨events, queue, meter⟩ := fullReset_laws State.reset
  have books := (booksLaw_iff _).2 (fullReset_books State.reset)
  rw [fullReset_reset] at events queue meter books
  exact ⟨rfl, events, queue, meter, books, TaskLaw.empty rfl⟩

/-- Settles O3: FULL_RESET answers the reset state with lines, memory, counts and queue kept, and each block of the reset state has the values of its chapter. -/
theorem fullResetGivesTheFullResetValues : Obligations.FullResetGivesTheFullResetValues :=
  ⟨fun _ => rfl, rfl, rfl, rfl, rfl, rfl, rfl, rfl, rfl, rfl, rfl, rfl, rfl, rfl, rfl, rfl, rfl,
    rfl, rfl, rfl⟩

/-! ### The assertion of RESET -/

/-- What is on the memory port when RESET is asserted finishes there, granted first if the port was free (R166, R167). -/
def portFinished (s : State) : State := finishPort (arbitrate s)

theorem portFinished_eq (s : State) :
    ∃ p, portFinished s = (s.setPath p).setMem (portFinished s).mem := by
  obtain ⟨p, hp, -⟩ := arbitrate_path s
  obtain ⟨m, hm⟩ := finishPort_mem (arbitrate s)
  refine ⟨p, ?_⟩
  rw [portFinished, hm, hp]
  rfl

theorem arbitrate_mem (s : State) : (arbitrate s).mem = s.mem := (arbitrate_side s).mem

theorem portFinished_free {s : State} (h : (arbitrate s).path.port = .free) :
    (portFinished s).mem = s.mem := by
  rw [portFinished, finishPort, h]
  exact arbitrate_mem s

theorem portFinished_processor_idle {s : State} (h : (arbitrate s).path.port = .processor)
    (i : (arbitrate s).path.inHand = none) : (portFinished s).mem = s.mem := by
  rw [portFinished, finishPort, h, i]
  exact arbitrate_mem s

theorem portFinished_processor_read {s : State} (h : (arbitrate s).path.port = .processor)
    {x : InHand} (i : (arbitrate s).path.inHand = some x) (r : x.access.write = none) :
    (portFinished s).mem = s.mem := by
  simp only [portFinished, finishPort, h, i, r, arbitrate_mem]

theorem portFinished_processor_write {s : State} (h : (arbitrate s).path.port = .processor)
    {x : InHand} (i : (arbitrate s).path.inHand = some x) {v : Word} (r : x.access.write = some v) :
    (portFinished s).mem = Memory.writeLanes s.mem (wordAddr x.access) x.access.lanes v := by
  simp only [portFinished, finishPort, h, i, r, State.setMem_mem, arbitrate_mem]

theorem arbitrate_nextAgentWord (s : State) : nextAgentWord (arbitrate s) = nextAgentWord s := by
  obtain ⟨p, hp, -⟩ := arbitrate_path s
  rw [hp]
  rfl

/-- The word goes to the memory and the base that arbitration leaves alone. -/
theorem wordToMemory_arbitrate (w : AgentWord) (s : State) :
    (wordToMemory w (arbitrate s)).mem = (wordToMemory w s).mem := by
  obtain ⟨p, hp, hb, -⟩ := arbitrate_path s
  rw [hp]
  cases w <;> simp [wordToMemory, agentWrite, baseOf, hb]

theorem portFinished_agent_idle {s : State} (h : (arbitrate s).path.port = .agent)
    (n : nextAgentWord s = none) : (portFinished s).mem = s.mem := by
  simp only [portFinished, finishPort, h, arbitrate_nextAgentWord, n, arbitrate_mem]

theorem portFinished_agent_word {s : State} (h : (arbitrate s).path.port = .agent) {w : AgentWord}
    (n : nextAgentWord s = some w) : (portFinished s).mem = (wordToMemory w s).mem := by
  simp only [portFinished, finishPort, h, arbitrate_nextAgentWord, n, wordToMemory_arbitrate]

theorem nextAgentWord_initial {s : State} {off : Nat} {v : Word} {left : List (Nat × Word)}
    (h : s.agent.initial = .writing ((off, v) :: left)) : nextAgentWord s = some (.write off v) := by
  rw [nextAgentWord, h]

theorem nextAgentWord_idle {s : State}
    (h : s.agent.initial = .notBegun ∨ s.agent.initial = .writing []) : nextAgentWord s = none := by
  rcases h with h | h <;> rw [nextAgentWord, h]

theorem nextAgentWord_task {s : State} (h : s.agent.initial = .done) :
    nextAgentWord s = (headWords s).head? := by
  rw [nextAgentWord, h]

/-- A TRIP entry already answered takes its trip out of the backlog (R35, R42). -/
theorem settleTrip_eq (s : State) : settleTrip s = s.setTrip { s.trip with
    backlog := if s.uplink.entries.any (fun e => e.cls == .trip && e.answered)
      then s.trip.backlog.drop 1 else s.trip.backlog } := by
  unfold settleTrip
  split <;> rfl

theorem assertReset_eq (s : State) : ∃ p, assertReset s = clearBlocks
    ((((s.setPath p).setMem (portFinished s).mem).setTrip { s.trip with
      backlog := if s.uplink.entries.any (fun e => e.cls == .trip && e.answered)
        then s.trip.backlog.drop 1 else s.trip.backlog }).setEmerg s.emerg.assert) := by
  obtain ⟨p, hp⟩ := portFinished_eq s
  refine ⟨p, ?_⟩
  unfold assertReset
  rw [← portFinished, hp, settleTrip_eq]
  rfl

theorem exec_resetAssert {s : State} (h : s.phase = .running) :
    exec .resetAssert s = .next (assertReset s) := congrArg Host.Outcome.next (if_pos h)

theorem assertReset_mem (s : State) : (assertReset s).mem = (portFinished s).mem := by
  obtain ⟨p, h⟩ := assertReset_eq s
  rw [h]
  rfl

theorem headWords_cons {s : State} {x : Task} {xs : List Task} (h : s.agent.tasks = x :: xs) :
    headWords s = x.words.getD [] := by
  rw [headWords, h]

theorem headWords_nil {s : State} (h : s.agent.tasks = []) : headWords s = [] := by
  rw [headWords, h]

/-- Settles O4: what is on the port finishes by the kind of its user, and the blocks take the values that clearBlocks and the assertions of the kept blocks write out. -/
theorem terminalResetKeepsTheKeepAliveBlocks :
    Obligations.TerminalResetKeepsTheKeepAliveBlocks := by
  intro s run
  refine ⟨assertReset s, exec_resetAssert run, ?_⟩
  have mem := assertReset_mem s
  obtain ⟨p, h⟩ := assertReset_eq s
  rw [h] at mem ⊢
  rw [mem]
  refine ⟨rfl, rfl, rfl, rfl, rfl, rfl, rfl, rfl, rfl, rfl, rfl, rfl, rfl, rfl, rfl, rfl, rfl, rfl,
    rfl, rfl, ?_, rfl, fun x xs e => headWords_cons e, headWords_nil⟩
  rintro u rfl
  refine ⟨arbitrate_busy, fun _ => arbitrate_quiet, portFinished_free, fun hp => ⟨?_, ?_⟩,
    fun ha => ⟨?_, ?_, fun d => ⟨?_, ?_⟩⟩⟩
  · exact portFinished_processor_idle hp
  · exact fun x i => ⟨portFinished_processor_read hp i, fun v => portFinished_processor_write hp i⟩
  · exact fun i => portFinished_agent_idle ha (nextAgentWord_idle i)
  · exact fun off v left i => portFinished_agent_word ha (nextAgentWord_initial i)
  · intro e
    exact portFinished_agent_idle ha (by rw [nextAgentWord_task d, e]; rfl)
  · intro w ws e
    have word := portFinished_agent_word ha (w := w) (by rw [nextAgentWord_task d, e]; rfl)
    rw [word]
    refine ⟨?_, ?_, ?_, ?_, ?_, ?_⟩
    · rintro off rfl; rfl
    · rintro off v rfl; rfl
    · rintro n rfl; rfl
    · rintro rfl; rfl
    · rintro rfl; rfl
    · rintro rfl; rfl

end Sys2Proof.Machine

namespace Sys2Proof.Machine

/-! ### The meter requests (R7 to R14, Table 7) -/

theorem whenRunning_running {f : State → State} {s : State} (h : s.phase = .running) :
    whenRunning f s = f s := if_pos h

section

variable {s : State} (run : s.phase = .running)

include run

theorem exec_meterHire (tag : Half) (slot : Byte) :
    exec (.meterHire tag slot) s = .next (reqHire tag slot s) :=
  congrArg Host.Outcome.next (whenRunning_running run)

theorem exec_meterStop (tag : Half) : exec (.meterStop tag) s = .next (reqStop tag s) :=
  congrArg Host.Outcome.next (whenRunning_running run)

theorem exec_meterResume (tag : Half) : exec (.meterResume tag) s = .next (reqResume tag s) :=
  congrArg Host.Outcome.next (whenRunning_running run)

theorem exec_meterExtra (tag amount : Half) (code : Byte) :
    exec (.meterExtra tag amount code) s = .next (reqExtra tag amount code s) :=
  congrArg Host.Outcome.next (whenRunning_running run)

theorem exec_meterClear (tag : Half) : exec (.meterClear tag) s = .next (reqClear tag s) :=
  congrArg Host.Outcome.next (whenRunning_running run)

theorem exec_tariffSelect (tag : Half) (slot : Byte) :
    exec (.tariffSelect tag slot) s = .next (reqSelect tag slot s) :=
  congrArg Host.Outcome.next (whenRunning_running run)

theorem exec_tariff (f : DownFrame) : exec (.tariff f) s = .next (takeTariff f s) :=
  congrArg Host.Outcome.next (whenRunning_running run)

end

theorem reqHire_outOfRange {slot : Byte} (h : 3 < slot.toNat) (tag : Half) (s : State) :
    reqHire tag slot s = produce tag (.refused 0x05 .outOfRange) s := if_pos h

theorem reqHire_wrongState {slot : Byte} (h : slot.toNat ≤ 3) {s : State}
    (hs : s.meter.state ≠ .vacant) (tag : Half) :
    reqHire tag slot s = produce tag (.refused 0x05 .wrongState) s := by
  rw [reqHire, if_neg (Nat.not_lt.2 h), if_pos hs, refuse]

theorem reqHire_noTariff {slot : Byte} (h : slot.toNat ≤ 3) {s : State}
    (hs : s.meter.state = .vacant) (ht : slotTariff s.meter slot.toNat = none) (tag : Half) :
    reqHire tag slot s = produce tag (.refused 0x05 .noTariff) s := by
  rw [reqHire, if_neg (Nat.not_lt.2 h), if_neg (not_not.2 hs), ht, refuse]

theorem reqHire_taken {slot : Byte} (h : slot.toNat ≤ 3) {s : State}
    (hs : s.meter.state = .vacant) {r : Tariff} (ht : slotTariff s.meter slot.toNat = some r)
    (tag : Half) :
    reqHire tag slot s = placeHeld (hire { slot := slot.toNat, tariff := r } tag s) := by
  rw [reqHire, if_neg (Nat.not_lt.2 h), if_neg (not_not.2 hs), ht]

theorem reqSelect_outOfRange {slot : Byte} (h : 3 < slot.toNat) (tag : Half) (s : State) :
    reqSelect tag slot s = produce tag (.refused 0x0A .outOfRange) s := if_pos h

theorem reqSelect_wrongState {slot : Byte} (h : slot.toNat ≤ 3) {s : State}
    (hs : s.meter.state = .vacant) (tag : Half) :
    reqSelect tag slot s = produce tag (.refused 0x0A .wrongState) s := by
  rw [reqSelect, if_neg (Nat.not_lt.2 h), if_pos hs, refuse]

theorem reqSelect_noTariff {slot : Byte} (h : slot.toNat ≤ 3) {s : State}
    (hs : s.meter.state ≠ .vacant) (ht : slotTariff s.meter slot.toNat = none) (tag : Half) :
    reqSelect tag slot s = produce tag (.refused 0x0A .noTariff) s := by
  rw [reqSelect, if_neg (Nat.not_lt.2 h), if_neg hs, ht, refuse]

theorem reqSelect_taken {slot : Byte} (h : slot.toNat ≤ 3) {s : State}
    (hs : s.meter.state ≠ .vacant) {r : Tariff} (ht : slotTariff s.meter slot.toNat = some r)
    (tag : Half) :
    reqSelect tag slot s = reportMeter 0x0A s.meter.state tag 0 0 0
      (s.setMeter { s.meter with change := some { kind := .select, slot := slot.toNat } }) := by
  rw [reqSelect, if_neg (Nat.not_lt.2 h), if_neg hs, ht]

theorem reqStop_wrongState {s : State} (h : s.meter.state ≠ .hired) (tag : Half) :
    reqStop tag s = produce tag (.refused 0x06 .wrongState) s := if_neg h

theorem reqStop_taken {s : State} (h : s.meter.state = .hired) (tag : Half) :
    reqStop tag s =
      reportMeter 0x06 .hired tag 0 0 0 (s.setMeter { s.meter with state := .hold }) := if_pos h

theorem reqResume_wrongState {s : State} (h : s.meter.state ≠ .hold) (tag : Half) :
    reqResume tag s = produce tag (.refused 0x07 .wrongState) s := if_neg h

theorem reqResume_taken {s : State} (h : s.meter.state = .hold) (tag : Half) :
    reqResume tag s =
      reportMeter 0x07 .hold tag 0 0 0 (s.setMeter { s.meter with state := .hired }) := if_pos h

theorem reqExtra_outOfRange {amount : Half} {code : Byte} (h : amount = 0 ∨ 15 < code.toNat)
    (tag : Half) (s : State) :
    reqExtra tag amount code s = produce tag (.refused 0x08 .outOfRange) s := if_pos h

theorem extra_inRange {amount : Half} {code : Byte} (ha : amount ≠ 0) (hc : code.toNat ≤ 15) :
    ¬ (amount = 0 ∨ 15 < code.toNat) := not_or.2 ⟨ha, Nat.not_lt.2 hc⟩

theorem reqExtra_wrongState {amount : Half} {code : Byte} (ha : amount ≠ 0)
    (hc : code.toNat ≤ 15) {s : State} (hs : s.meter.state = .vacant) (tag : Half) :
    reqExtra tag amount code s = produce tag (.refused 0x08 .wrongState) s := by
  rw [reqExtra, if_neg (extra_inRange ha hc), if_pos hs, refuse]

theorem reqExtra_taken {amount : Half} {code : Byte} (ha : amount ≠ 0)
    (hc : code.toNat ≤ 15) {s : State} (hs : s.meter.state ≠ .vacant) (tag : Half) :
    reqExtra tag amount code s =
      reportMeter 0x08 s.meter.state tag code.toNat amount.toNat
        (min amount.toNat (99999 - s.meter.extras))
        (s.setMeter { s.meter with
          extras := s.meter.extras + min amount.toNat (99999 - s.meter.extras) }) := by
  rw [reqExtra, if_neg (extra_inRange ha hc), if_neg hs]
  rfl

theorem reqClear_wrongState {s : State} (h : s.meter.state ≠ .hold) (tag : Half) :
    reqClear tag s = produce tag (.refused 0x09 .wrongState) s := if_neg h

/-- Settles O16: each request answers by the branch of its check, a taken one with its one item changed. -/
theorem meterRequestsAreTakenOrRefusedByTable7 :
    Obligations.MeterRequestsAreTakenOrRefusedByTable7 := by
  refine ⟨fun tag s run => ⟨fun slot h => ⟨?_, ?_⟩, fun slot h hs => ?_, fun slot h hs ht => ?_,
    fun hs => ?_, fun hs => ?_, fun amount code h => ?_, fun amount code ha hc hs => ?_,
    fun hs => ?_, fun slot h hs => ?_, fun slot h hs ht => ?_⟩,
    fun tag s run => ⟨fun hs => ?_, fun hs => ?_, fun amount code hs ha hc => ?_,
      fun slot r hs h ht => ?_⟩⟩
  · rw [exec_meterHire run, reqHire_outOfRange h]
  · rw [exec_tariffSelect run, reqSelect_outOfRange h]
  · rw [exec_meterHire run, reqHire_wrongState h hs]
  · rw [exec_meterHire run, reqHire_noTariff h hs ht]
  · rw [exec_meterStop run, reqStop_wrongState hs]
  · rw [exec_meterResume run, reqResume_wrongState hs]
  · rw [exec_meterExtra run, reqExtra_outOfRange h]
  · rw [exec_meterExtra run, reqExtra_wrongState ha hc hs]
  · rw [exec_meterClear run, reqClear_wrongState hs]
  · rw [exec_tariffSelect run, reqSelect_wrongState h hs]
  · rw [exec_tariffSelect run, reqSelect_noTariff h hs ht]
  · rw [exec_meterStop run, reqStop_taken hs]
    rfl
  · rw [exec_meterResume run, reqResume_taken hs]
    rfl
  · rw [exec_meterExtra run, reqExtra_taken ha hc hs]
    rfl
  · rw [exec_tariffSelect run, reqSelect_taken h hs ht]
    rfl

end Sys2Proof.Machine

namespace Sys2Proof.Machine

/-! ### The TARIFF frame (R2 to R6, R61) -/

/-- R3: the ranges of Table 6, written out. -/
theorem tariff_valid_iff (t : Tariff) : t.valid = true ↔
    t.version ≤ 65535 ∧ t.flagDrop ≤ 65535 ∧ 1 ≤ t.stepAmount ∧ t.stepAmount ≤ 1000 ∧
      t.distanceInc ≤ 1048575 ∧ t.timeInc ≤ 1048575 ∧ t.slowThreshold ≤ 255 ∧
      (0 < t.distanceInc ∨ 0 < t.timeInc) := by
  simp only [Tariff.valid, Bool.and_eq_true, decide_eq_true_eq, and_assoc,
    Nat.add_pos_iff_pos_or_pos]
  rfl

/-- The record that stands in a TARIFF body (Table 48). -/
def tariffFields (body : List Byte) : Tariff :=
  { version := natBE (slice body 1 2), flagDrop := natBE (slice body 3 2),
    stepAmount := natBE (slice body 5 2), distanceInc := natBE (slice body 7 4),
    timeInc := natBE (slice body 11 4), slowThreshold := natBE (slice body 15 1) }

theorem tariffFields_eq_iff (body : List Byte) (r : Tariff) : r = tariffFields body ↔
    r.version = natBE (slice body 1 2) ∧ r.flagDrop = natBE (slice body 3 2) ∧
      r.stepAmount = natBE (slice body 5 2) ∧ r.distanceInc = natBE (slice body 7 4) ∧
      r.timeInc = natBE (slice body 11 4) ∧ r.slowThreshold = natBE (slice body 15 1) := by
  cases r
  exact Iff.of_eq (Tariff.mk.injEq ..)

theorem tariffBody_eq_some_iff (body : List Byte) (slot : Nat) (r : Tariff) :
    tariffBody body = some (slot, r) ↔ body.length = 16 ∧ slot = (byteAt body 0).toNat ∧ slot ≤ 3 ∧
      r = tariffFields body ∧ r.valid = true := by
  have unfolded : tariffBody body =
      if body.length = 16 ∧ (byteAt body 0).toNat ≤ 3 ∧ (tariffFields body).valid = true
      then some ((byteAt body 0).toNat, tariffFields body) else none := rfl
  rw [unfolded, Option.ite_none_right_eq_some, Option.some.injEq, Prod.mk.injEq]
  constructor
  · rintro ⟨⟨len, le, val⟩, rfl, rfl⟩
    exact ⟨len, rfl, le, rfl, val⟩
  · rintro ⟨len, rfl, le, rfl, val⟩
    exact ⟨⟨len, le, val⟩, rfl, rfl⟩

theorem setsReload_iff (slot : Nat) (m : Meter) : setsReload slot m = true ↔
    m.state ≠ .vacant ∧ m.active.map (·.slot) = some slot := by
  simp only [setsReload, Bool.and_eq_true, bne_iff_ne, beq_iff_eq]

theorem ownTariff_valid {f : DownFrame} {slot : Nat} {r : Tariff}
    (h : tariffBody f.body = some (slot, r)) (s : State) : ownTariff f s = produce 0
      (.tariffLoaded slot r.version (scopeOf f.flags)
        (s.meter.state != .vacant && s.meter.active.map (·.slot) == some slot))
      (s.setMeter { s.meter with
        slots := s.meter.slots.set slot (some r),
        change := if s.meter.state ≠ .vacant ∧ s.meter.active.map (·.slot) = some slot
          then some { kind := .reload, slot := slot } else s.meter.change }) := by
  simp only [ownTariff, h, loadSlot, setsReload_iff]
  rfl

theorem ownTariff_invalid {f : DownFrame} (h : tariffBody f.body = none) (s : State) :
    ownTariff f s = s := by
  rw [ownTariff, h]

/-- A frame whose scope has no ACK duty is handed over and its buffer freed (R60). -/
theorem handOver_without_ack {c : DownClass} {f : DownFrame}
    (ha : scopeAllowed c (scopeOf f.flags) = true) (hd : ackDuty c (scopeOf f.flags) = false)
    (owner : State → State) (r : AckResult) (s : State) :
    handOver c owner r f s = freeBuffer c.code f (owner s) := by
  rw [handOver, if_pos ha, if_neg (by rw [hd]; exact Bool.false_ne_true)]

/-- A new frame with an ACK duty is handed over, acknowledged, listed, and its buffer freed (R60, R61, R62). -/
theorem handOver_new {c : DownClass} {f : DownFrame} {s : State}
    (ha : scopeAllowed c (scopeOf f.flags) = true) (hd : ackDuty c (scopeOf f.flags) = true)
    (hn : dedupeFind f.seq s = none) (owner : State → State) (r : AckResult) :
    handOver c owner r f s =
      freeBuffer c.code f (dedupeAdd f.seq r (offerAck c.code f.seq r (owner s))) := by
  rw [handOver, if_pos ha, if_pos hd, hn]

/-- Settles O21: the owner by the body, the hand-over by the scope, the body by Table 48. -/
theorem tariffFramesLoadTheSlot : Obligations.TariffFramesLoadTheSlot := by
  intro f s run
  refine ⟨ownTariff f s, fun slot r h => ownTariff_valid h s, fun h => ownTariff_invalid h s,
    fun fleet => ?_, fun cab new r hr => ?_, fun slot r => ?_⟩
  · rw [exec_tariff run, takeTariff, handOver_without_ack (by rw [fleet]; rfl) (by rw [fleet]; rfl)]
    rfl
  · rw [exec_tariff run, takeTariff, handOver_new (by rw [cab]; rfl) (by rw [cab]; rfl) new, hr]
    rfl
  · rw [tariffBody_eq_some_iff, tariffFields_eq_iff, tariff_valid_iff]
    simp only [and_assoc]

end Sys2Proof.Machine

namespace Sys2Proof.Machine

/-! ### Events placed at once -/

/-- An event placed at once changes the event writer and the attention unit only (R172). -/
theorem produce_eq (tag : Half) (p : Payload) (s : State) : produce tag p s =
    (s.setEvw (produce tag p s).evw).setAttn (produce tag p s).attn := by
  obtain ⟨e, a, h⟩ := produce_changes tag p s
  rw [h]
  rfl

theorem raiseFactor_eq (f : Factor) (s : State) : raiseFactor f s = s.setAttn { s.attn with
    factors := if s.phase = .running then s.attn.factors ||| f.mask else s.attn.factors } := by
  unfold raiseFactor
  split <;> rfl

/-- What an event does rests on the phase, the clock, the event writer and the attention unit alone. -/
theorem produce_congr {s t : State} (hp : t.phase = s.phase) (hc : t.clock = s.clock)
    (he : t.evw = s.evw) (ha : t.attn = s.attn) (tag : Half) (p : Payload) :
    (produce tag p t).evw = (produce tag p s).evw ∧
      (produce tag p t).attn = (produce tag p s).attn := by
  simp only [produce, placeEvent, dropEvent, eventNow, raiseFactor_eq, hp, hc, he]
  split
  · rename_i run
    split <;> simp [hp, ha, run]
  · exact ⟨he, ha⟩

/-! ### What a charge may change -/

/-- From s to t the meter, the open trip's record, the event writer and the attention unit alone may change. -/
def MeterSide (s t : State) : Prop := ∃ m o e a,
  t = (((s.setMeter m).setTrip { s.trip with openTrip := o }).setEvw e).setAttn a

namespace MeterSide

theorem refl (s : State) : MeterSide s s := ⟨s.meter, s.trip.openTrip, s.evw, s.attn, rfl⟩

theorem trans {s t u : State} (h : MeterSide s t) (k : MeterSide t u) : MeterSide s u := by
  obtain ⟨m, o, e, a, rfl⟩ := h
  obtain ⟨m', o', e', a', rfl⟩ := k
  exact ⟨m', o', e', a', rfl⟩

theorem setMeter (s : State) (m : Meter) : MeterSide s (s.setMeter m) :=
  ⟨m, s.trip.openTrip, s.evw, s.attn, rfl⟩

theorem updateTrip (f : TripRecord → TripRecord) (s : State) : MeterSide s (updateTrip f s) :=
  ⟨s.meter, s.trip.openTrip.map f, s.evw, s.attn, rfl⟩

theorem produce (tag : Half) (p : Payload) (s : State) : MeterSide s (produce tag p s) := by
  obtain ⟨e, a, h⟩ := produce_changes tag p s
  exact ⟨s.meter, s.trip.openTrip, e, a, h⟩

theorem eq {s t : State} (h : MeterSide s t) : t = (((s.setMeter t.meter).setTrip { s.trip with
    openTrip := t.trip.openTrip }).setEvw t.evw).setAttn t.attn := by
  obtain ⟨m, o, e, a, rfl⟩ := h
  rfl

theorem shift {s t : State} (h : MeterSide s t) : t.trip.shift = s.trip.shift := by
  obtain ⟨m, o, e, a, rfl⟩ := h
  rfl

end MeterSide

/-! ### A step (R15, R17, R18, R29) -/

/-- The meter after a step under an active copy: the accumulator less the threshold, the fare up to the cap (R15, R17). -/
def stepped (a : ActiveCopy) (inc : Nat) (m : Meter) : Meter :=
  stepFare { m with acc := less (m.acc + inc) Config.threshold } a.tariff.stepAmount

/-- A trip's record with one more step in its last segment (R29). -/
def countLast (r : TripRecord) : TripRecord := { r with segments := countStep r.segments }

theorem stepFare_eq (m : Meter) (n : Nat) : stepFare m n = { m with
    fare := min (m.fare + n) 9999999, fareCap := m.fareCap || decide (9999999 < m.fare + n) } := by
  unfold stepFare
  split
  · rename_i h
    have h : 9999999 < m.fare + n := h
    rw [min_eq_right h.le, decide_eq_true h, Bool.or_true]
    rfl
  · rename_i h
    have h : ¬ 9999999 < m.fare + n := h
    rw [min_eq_left (Nat.not_lt.1 h), decide_eq_false h, Bool.or_false]

theorem stepped_eq (a : ActiveCopy) (inc : Nat) (m : Meter) : ∃ n f b,
    stepped a inc m = { m with acc := n, fare := f, fareCap := b } := by
  rw [stepped, stepFare_eq]
  exact ⟨_, _, _, rfl⟩

theorem stepped_acc (a : ActiveCopy) (inc : Nat) (m : Meter) :
    (stepped a inc m).acc = m.acc + inc - 1048576 := by
  rw [stepped, stepFare_eq, ← threshold_eq, ← less_eq]

theorem stepped_fare (a : ActiveCopy) (inc : Nat) (m : Meter) :
    (stepped a inc m).fare = min (m.fare + a.tariff.stepAmount) 9999999 := by
  rw [stepped, stepFare_eq]

theorem stepped_fareCap_iff (a : ActiveCopy) (inc : Nat) (m : Meter) :
    (stepped a inc m).fareCap = true ↔
      m.fareCap = true ∨ 9999999 < m.fare + a.tariff.stepAmount := by
  rw [stepped, stepFare_eq, Bool.or_eq_true, decide_eq_true_eq]

theorem addIncrement_below {a : ActiveCopy} {inc : Nat} {s : State}
    (h : s.meter.acc + inc < 1048576) :
    addIncrement a inc s = s.setMeter { s.meter with acc := s.meter.acc + inc } :=
  if_neg (Nat.not_le.2 h)

theorem addIncrement_step {a : ActiveCopy} {inc : Nat} {s : State}
    (h : 1048576 ≤ s.meter.acc + inc) : addIncrement a inc s =
      applyChange (updateTrip countLast (s.setMeter (stepped a inc s.meter))) := if_pos h

theorem applyChange_none {s : State} (h : s.meter.change = none) : applyChange s = s := by
  rw [applyChange, h]

/-- A pending change of a slot that holds a tariff is applied (R18, R19, R29). -/
theorem applyChange_some {s : State} {c : PendingChange} {a : ActiveCopy} {r : Tariff}
    (hc : s.meter.change = some c) (ha : s.meter.active = some a)
    (hr : slotTariff s.meter c.slot = some r) : applyChange s =
      produce 0 (.tariffApplied c.kind c.slot r.version a.slot a.tariff.version s.meter.fare)
        (updateTrip (addSegment c.slot r.version) (s.setMeter { s.meter with
          active := some { slot := c.slot, tariff := r }, change := none })) := by
  rw [applyChange, hc, ha]
  simp only [hr]

theorem applyChange_side (s : State) : MeterSide s (applyChange s) := by
  unfold applyChange
  split
  · split
    · exact ((MeterSide.setMeter s _).trans (MeterSide.updateTrip _ _)).trans
        (MeterSide.produce _ _ _)
    · exact MeterSide.refl s
  · exact MeterSide.refl s

theorem produce_meter (tag : Half) (p : Payload) (s : State) :
    (produce tag p s).meter = s.meter := (produce_quiet tag p s).meter

/-- Of the meter a pending change touches the active copy and itself only. -/
theorem applyChange_meter (s : State) :
    ∃ x c, (applyChange s).meter = { s.meter with active := x, change := c } := by
  unfold applyChange
  split
  · split
    · exact ⟨_, _, produce_meter _ _ _⟩
    · exact ⟨_, _, rfl⟩
  · exact ⟨_, _, rfl⟩

theorem addIncrement_side (a : ActiveCopy) (inc : Nat) (s : State) :
    MeterSide s (addIncrement a inc s) := by
  rcases Nat.lt_or_ge (s.meter.acc + inc) 1048576 with h | h
  · rw [addIncrement_below h]
    exact MeterSide.setMeter s _
  · rw [addIncrement_step h]
    exact ((MeterSide.setMeter s _).trans (MeterSide.updateTrip _ _)).trans (applyChange_side _)

theorem addIncrement_step_meter (a : ActiveCopy) {inc : Nat} {s : State}
    (h : 1048576 ≤ s.meter.acc + inc) : ∃ x c,
    (addIncrement a inc s).meter = { stepped a inc s.meter with active := x, change := c } := by
  rw [addIncrement_step h]
  exact applyChange_meter _

theorem addIncrement_step_none {a : ActiveCopy} {inc : Nat} {s : State}
    (h : 1048576 ≤ s.meter.acc + inc) (hc : s.meter.change = none) : addIncrement a inc s =
      updateTrip countLast (s.setMeter (stepped a inc s.meter)) := by
  obtain ⟨n, f, b, e⟩ := stepped_eq a inc s.meter
  rw [addIncrement_step h, applyChange_none (by rw [e]; exact hc)]

theorem addIncrement_step_some {a : ActiveCopy} {inc : Nat} {s : State}
    (h : 1048576 ≤ s.meter.acc + inc) {c : PendingChange} (hc : s.meter.change = some c)
    (ha : s.meter.active = some a) {r : Tariff} (hr : slotTariff s.meter c.slot = some r) :
    addIncrement a inc s =
      produce 0 (.tariffApplied c.kind c.slot r.version a.slot a.tariff.version
          (min (s.meter.fare + a.tariff.stepAmount) 9999999))
        (updateTrip (addSegment c.slot r.version)
          ((updateTrip countLast (s.setMeter (stepped a inc s.meter))).setMeter
            { stepped a inc s.meter with
              active := some { slot := c.slot, tariff := r }, change := none })) := by
  have fare := stepped_fare a inc s.meter
  obtain ⟨n, f, b, e⟩ := stepped_eq a inc s.meter
  rw [e] at fare
  rw [addIncrement_step h, e, ← fare]
  exact applyChange_some hc ha hr

/-- Of the meter an increment touches the accumulator, the fare, its cap mark, the active copy and the pending change only. -/
theorem addIncrement_meter (a : ActiveCopy) (inc : Nat) (s : State) : ∃ n f b x c,
    (addIncrement a inc s).meter =
      { s.meter with acc := n, fare := f, fareCap := b, active := x, change := c } := by
  rcases Nat.lt_or_ge (s.meter.acc + inc) 1048576 with h | h
  · rw [addIncrement_below h]
    exact ⟨_, _, _, _, _, rfl⟩
  · obtain ⟨x, c, e⟩ := addIncrement_step_meter a h
    obtain ⟨n, f, b, e'⟩ := stepped_eq a inc s.meter
    rw [e, e']
    exact ⟨_, _, _, _, _, rfl⟩

end Sys2Proof.Machine

namespace Sys2Proof.Machine

/-! ### What an increment leaves behind (R15 to R19, R29) -/

theorem produce_openTrip (tag : Half) (p : Payload) (s : State) :
    (produce tag p s).trip.openTrip = s.trip.openTrip := (produce_quiet tag p s).openTrip

theorem addIncrement_stepped (a : ActiveCopy) {inc : Nat} {s : State}
    (h : 1048576 ≤ s.meter.acc + inc) :
    (addIncrement a inc s).meter.acc = s.meter.acc + inc - 1048576 ∧
      (addIncrement a inc s).meter.fare = min (s.meter.fare + a.tariff.stepAmount) 9999999 ∧
      ((addIncrement a inc s).meter.fareCap = true ↔
        s.meter.fareCap = true ∨ 9999999 < s.meter.fare + a.tariff.stepAmount) := by
  obtain ⟨x, c, e⟩ := addIncrement_step_meter a h
  rw [e]
  exact ⟨stepped_acc a inc s.meter, stepped_fare a inc s.meter, stepped_fareCap_iff a inc s.meter⟩

/-- A step with no change pending. -/
theorem addIncrement_unchanged (a : ActiveCopy) {inc : Nat} {s : State}
    (h : 1048576 ≤ s.meter.acc + inc) (hc : s.meter.change = none) :
    (addIncrement a inc s).meter.active = s.meter.active ∧
      (addIncrement a inc s).meter.change = none ∧
      (addIncrement a inc s).evw = s.evw ∧ (addIncrement a inc s).attn = s.attn ∧
      (addIncrement a inc s).trip.openTrip = s.trip.openTrip.map countLast := by
  obtain ⟨n, f, b, e⟩ := stepped_eq a inc s.meter
  rw [addIncrement_step_none h hc, e]
  exact ⟨rfl, hc, rfl, rfl, rfl⟩

/-- A step that applies a pending change. -/
theorem addIncrement_applied {a : ActiveCopy} {inc : Nat} {s : State}
    (h : 1048576 ≤ s.meter.acc + inc) {c : PendingChange} (hc : s.meter.change = some c)
    (ha : s.meter.active = some a) {r : Tariff} (hr : slotTariff s.meter c.slot = some r)
    {p : State} (hp : p = produce 0 (.tariffApplied c.kind c.slot r.version a.slot
      a.tariff.version (min (s.meter.fare + a.tariff.stepAmount) 9999999)) s) :
    (addIncrement a inc s).meter.active = some { slot := c.slot, tariff := r } ∧
      (addIncrement a inc s).meter.change = none ∧
      (addIncrement a inc s).evw = p.evw ∧ (addIncrement a inc s).attn = p.attn ∧
      (addIncrement a inc s).trip.openTrip =
        s.trip.openTrip.map (fun x => addSegment c.slot r.version (countLast x)) := by
  rw [addIncrement_step_some h hc ha hr, hp, produce_meter, produce_openTrip]
  obtain ⟨evw, attn⟩ := produce_congr (s := s) (t := updateTrip (addSegment c.slot r.version)
    ((updateTrip countLast (s.setMeter (stepped a inc s.meter))).setMeter
      { stepped a inc s.meter with active := some { slot := c.slot, tariff := r }, change := none }))
    rfl rfl rfl rfl 0 (.tariffApplied c.kind c.slot r.version a.slot
      a.tariff.version (min (s.meter.fare + a.tariff.stepAmount) 9999999))
  exact ⟨rfl, rfl, evw, attn, Option.map_map ..⟩

/-! ### Pulses (R15, R21 to R25) -/

theorem exec_odoPulse {s : State} (h : s.phase ≠ .fullReset) :
    exec .odoPulse s = .next (odoPulse s) := congrArg Host.Outcome.next (if_neg h)

theorem pulseAccepted_iff (s : State) : pulseAccepted s = true ↔
    s.settings.accepted.maxPulses = 0 ∨
      s.meter.secondCount < s.settings.accepted.maxPulses := by
  rw [pulseAccepted, Bool.or_eq_true, beq_iff_eq, decide_eq_true_eq]

theorem satAdd_eq (max n k : Nat) : satAdd max n k = min (n + k) max := rfl

theorem odoPulse_rejected {s : State} (h0 : s.settings.accepted.maxPulses ≠ 0)
    (h : s.settings.accepted.maxPulses ≤ s.meter.secondCount) : odoPulse s = rejectPulse s := by
  have no : ¬ pulseAccepted s = true := by
    rw [pulseAccepted_iff]
    exact not_or.2 ⟨h0, Nat.not_lt.2 h⟩
  exact if_neg no

theorem odoPulse_accepted {s : State} (h : s.settings.accepted.maxPulses = 0 ∨
    s.meter.secondCount < s.settings.accepted.maxPulses) :
    odoPulse s = chargePulse (countPulse s) := if_pos ((pulseAccepted_iff s).2 h)

theorem chargePulse_uncharged {s : State} (h : s.meter.state ≠ .hired) : chargePulse s = s := by
  unfold chargePulse
  split
  · rename_i hs _
    exact absurd hs h
  · rfl

/-- The state of an accepted pulse in HIRED as its increment is added: counted in the second, the peak, the hiring and the shift (R21, R24, R25). -/
def hiredPulse (s : State) : State :=
  (s.setMeter { s.meter with
    secondCount := min (s.meter.secondCount + 1) 65535,
    peak := max s.meter.peak (min (s.meter.secondCount + 1) 65535),
    hiredPulses := min (s.meter.hiredPulses + 1) 4294967295 }).setTrip { s.trip with
      shift := { s.trip.shift with
        totalPulses := min (s.trip.shift.totalPulses + 1) 4294967295 } }

theorem countPulse_eq (s : State) : countPulse s = (s.setMeter { s.meter with
    secondCount := min (s.meter.secondCount + 1) 65535,
    peak := if s.meter.state = .vacant then s.meter.peak
      else max s.meter.peak (min (s.meter.secondCount + 1) 65535) }).setTrip { s.trip with
        shift := { s.trip.shift with
          totalPulses := min (s.trip.shift.totalPulses + 1) 4294967295 } } := rfl

theorem countPulse_hired {s : State} (h : s.meter.state = .hired) : (countPulse s).setMeter
    { (countPulse s).meter with
      hiredPulses := satAdd Config.max32 (countPulse s).meter.hiredPulses 1 } = hiredPulse s := by
  have during : s.meter.state ≠ .vacant := by rw [h]; exact MeterState.noConfusion
  rw [countPulse_eq, if_neg during]
  rfl

theorem odoPulse_hired {s : State} {a : ActiveCopy} (hs : s.meter.state = .hired)
    (ha : s.meter.active = some a) (h : s.settings.accepted.maxPulses = 0 ∨
      s.meter.secondCount < s.settings.accepted.maxPulses) :
    odoPulse s = addIncrement a a.tariff.distanceInc (hiredPulse s) := by
  have hs' : (countPulse s).meter.state = .hired := hs
  have ha' : (countPulse s).meter.active = some a := ha
  rw [odoPulse_accepted h, chargePulse, hs', ha', ← countPulse_hired hs]

theorem rejectPulse_eq (s : State) : rejectPulse s = ((s.setMeter { s.meter with
    rejectMark := true, pulseFault := true }).setTrip { s.trip with
      openTrip := s.trip.openTrip.map (fun r => { r with pulseFault := true }),
      shift := { s.trip.shift with
        rejectedPulses := min (s.trip.shift.rejectedPulses + 1) 4294967295 } }).setAttn
    { s.attn with factors :=
      if s.phase = .running then s.attn.factors ||| 0x010#9 else s.attn.factors } := by
  rw [rejectPulse, raiseFactor_eq]
  rfl

theorem hiredPulse_sets (s : State) : ∃ m x, hiredPulse s = (s.setMeter m).setTrip x :=
  ⟨_, _, rfl⟩

/-- A charged pulse changes the meter, the trip's record and shift, the event writer and the attention unit alone. -/
theorem hiredPulse_frame {s t : State} (h : MeterSide (hiredPulse s) t) :
    MemorySideKept s t ∧ t.clock = s.clock ∧ t.settings = s.settings ∧ t.position = s.position ∧
      t.rx = s.rx ∧ t.link = s.link ∧ t.uplink = s.uplink ∧ t.sup = s.sup ∧
      t.offers = s.offers ∧ t.pool = s.pool ∧ t.emerg = s.emerg := by
  obtain ⟨m', x, e'⟩ := hiredPulse_sets s
  obtain ⟨m, o, e, a, rfl⟩ := h
  rw [e']
  exact ⟨⟨rfl, rfl, rfl, rfl⟩, rfl, rfl, rfl, rfl, rfl, rfl, rfl, rfl, rfl, rfl⟩

/-- Settles O10: by the limit and the meter's state; in HIRED the increment is added to the counted state and the step, if any, is the shared one. -/
theorem pulsesAreLimitedCountedAndCharged : Obligations.PulsesAreLimitedCountedAndCharged := by
  refine ⟨fun s run => ⟨fun h0 h => ?_, fun h hs => ?_⟩, fun s a run hs ha h => ?_⟩
  · rw [exec_odoPulse run, odoPulse_rejected h0 h, rejectPulse_eq]
    exact ⟨_, rfl, rfl⟩
  · rw [exec_odoPulse run, odoPulse_accepted h,
      chargePulse_uncharged (s := countPulse s) hs, countPulse_eq]
  · rw [exec_odoPulse run, odoPulse_hired hs ha h]
    have side := addIncrement_side a a.tariff.distanceInc (hiredPulse s)
    obtain ⟨n, f, b, x, c, m⟩ := addIncrement_meter a a.tariff.distanceInc (hiredPulse s)
    refine ⟨_, rfl, by rw [m]; exact hs, by rw [m]; rfl, by rw [m]; rfl, by rw [m]; rfl,
      by rw [m]; rfl, by rw [m]; rfl, side.shift, fun lo => ?_, fun hi => ?_,
      hiredPulse_frame side⟩
    · rw [addIncrement_below (s := hiredPulse s) lo]
      exact ⟨rfl, rfl, rfl, rfl, rfl, rfl, rfl, rfl⟩
    · obtain ⟨acc, fare, cap⟩ := addIncrement_stepped a (s := hiredPulse s) hi
      refine ⟨acc, fare, cap, fun hc => ?_, fun c r hc hr => ?_⟩
      · obtain ⟨act, chg, evw, attn, -⟩ := addIncrement_unchanged a (s := hiredPulse s) hi hc
        exact ⟨act, chg, evw, attn⟩
      · obtain ⟨act, chg, evw, attn, -⟩ :=
          addIncrement_applied (s := hiredPulse s) hi hc ha hr rfl
        obtain ⟨evw', attn'⟩ := produce_congr (s := s) (t := hiredPulse s) rfl rfl rfl rfl 0
          (.tariffApplied c.kind c.slot r.version a.slot a.tariff.version
            (min (s.meter.fare + a.tariff.stepAmount) 9999999))
        exact ⟨_, rfl, act, chg, evw.trans evw', attn.trans attn'⟩

end Sys2Proof.Machine

namespace Sys2Proof.Machine

/-! ### The second tick at the fare meter (R16, R23) -/

theorem exec_secondTick {s : State} (h : s.phase ≠ .fullReset) :
    exec .secondTick s = .next (secondTick s) := congrArg Host.Outcome.next (if_neg h)

/-- A second that is not slow, or outside HIRED, is not charged. -/
theorem chargeTime_uncharged {s : State} (h : s.meter.state ≠ .hired ∨
    ∃ a, s.meter.active = some a ∧ a.tariff.slowThreshold ≤ s.meter.secondCount) :
    chargeTime s = s := by
  unfold chargeTime
  split
  · rename_i a hs ha
    rcases h with h | ⟨b, hb, hn⟩
    · exact absurd hs h
    · rw [ha, Option.some.injEq] at hb
      exact if_neg (hb ▸ Nat.not_lt.2 hn)
  · rfl

theorem chargeTime_charged {s : State} {a : ActiveCopy} (hs : s.meter.state = .hired)
    (ha : s.meter.active = some a) (h : s.meter.secondCount < a.tariff.slowThreshold) :
    chargeTime s = addIncrement a a.tariff.timeInc s := by
  unfold chargeTime
  simp only [hs, ha, if_pos h]

/-- The time charge is none, or an increment under the active copy of a hiring. -/
theorem chargeTime_cases (s : State) :
    chargeTime s = s ∨ ∃ a, chargeTime s = addIncrement a a.tariff.timeInc s := by
  unfold chargeTime
  split
  · split
    · exact Or.inr ⟨_, rfl⟩
    · exact Or.inl rfl
  · exact Or.inl rfl

theorem chargeTime_side (s : State) : MeterSide s (chargeTime s) := by
  rcases chargeTime_cases s with h | ⟨a, h⟩ <;> rw [h]
  · exact MeterSide.refl s
  · exact addIncrement_side a _ s

theorem chargeTime_meter (s : State) : ∃ n f b x c, (chargeTime s).meter =
    { s.meter with acc := n, fare := f, fareCap := b, active := x, change := c } := by
  rcases chargeTime_cases s with h | ⟨a, h⟩ <;> rw [h]
  · exact ⟨_, _, _, _, _, rfl⟩
  · exact addIncrement_meter a _ s

theorem meterTick_side (s : State) : MeterSide s (meterTick s) :=
  (chargeTime_side s).trans (MeterSide.setMeter _ _)

theorem countSeconds_eq (m : Meter) : countSeconds m = { m with
    elapsed := if m.state = .vacant then m.elapsed else min (m.elapsed + 1) 4294967295,
    holdSecs := if m.state = .hold then min (m.holdSecs + 1) 4294967295 else m.holdSecs } := by
  rcases m with ⟨_ | _ | _, _⟩ <;> rfl

/-- Everything outside the time charge: the seconds, the settling of PULSE_FAULT, the new second. -/
theorem meterTick_meter (s : State) : ∃ n f b x c, (meterTick s).meter = { s.meter with
    acc := n, fare := f, fareCap := b, active := x, change := c,
    elapsed := if s.meter.state = .vacant then s.meter.elapsed
      else min (s.meter.elapsed + 1) 4294967295,
    holdSecs := if s.meter.state = .hold then min (s.meter.holdSecs + 1) 4294967295
      else s.meter.holdSecs,
    pulseFault := s.meter.pulseFault && s.meter.rejectMark, secondCount := 0,
    rejectMark := false } := by
  obtain ⟨n, f, b, x, c, h⟩ := chargeTime_meter s
  refine ⟨n, f, b, x, c, ?_⟩
  have e : (meterTick s).meter = newSecond (countSeconds (chargeTime s).meter) := rfl
  rw [e, h, countSeconds_eq]
  rfl

/-- The seconds and the new second leave the charge's own items alone. -/
theorem meterTick_charge (s : State) :
    (meterTick s).meter.acc = (chargeTime s).meter.acc ∧
      (meterTick s).meter.fare = (chargeTime s).meter.fare ∧
      (meterTick s).meter.fareCap = (chargeTime s).meter.fareCap ∧
      (meterTick s).meter.active = (chargeTime s).meter.active ∧
      (meterTick s).meter.change = (chargeTime s).meter.change ∧
      (meterTick s).trip = (chargeTime s).trip ∧ (meterTick s).evw = (chargeTime s).evw ∧
      (meterTick s).attn = (chargeTime s).attn := by
  have e : (meterTick s).meter = newSecond (countSeconds (chargeTime s).meter) := rfl
  rw [e, countSeconds_eq]
  exact ⟨rfl, rfl, rfl, rfl, rfl, rfl, rfl, rfl⟩

theorem countTick_record (s : State) : (countTick s).position.record = s.position.record := by
  obtain ⟨-, -, -, -, -, -, -, -, -, -, -, -, -, -, -, -, -, p⟩ := openTick_same (tickFix (tickClock s))
  have h : (countTick s).position = (openTick (tickFix (tickClock s))).position := rfl
  rw [h, p, tickFix]
  split <;> rfl

/-- The counts and ends of the tick leave the meter and the trip's record alone. -/
theorem secondTick_meter (s : State) : (secondTick s).meter = (meterTick s).meter ∧
    (secondTick s).trip.openTrip = (meterTick s).trip.openTrip := by
  obtain ⟨meter, -, trip, -⟩ := countTick_same (meterTick s)
  exact ⟨(secondTick_quiet s).meter.trans meter, by rw [(secondTick_quiet s).openTrip, trip]⟩

/-- The tick leaves the trip recorder's numbers, the accepted settings, the black box, the position record and the memory side alone, and the clock grows by one. -/
theorem secondTick_frame (s : State) : (secondTick s).clock = s.clock + 1 ∧
    (secondTick s).trip.next = s.trip.next ∧ (secondTick s).trip.shift = s.trip.shift ∧
    (secondTick s).settings.accepted = s.settings.accepted ∧
    (secondTick s).emerg.box = s.emerg.box ∧
    (secondTick s).position.record = s.position.record ∧ MemorySideKept s (secondTick s) := by
  have q := secondTick_quiet s
  have record := countTick_record (meterTick s)
  obtain ⟨-, clock, trip, settings, box, mem, path, agent, reader, -⟩ := countTick_same (meterTick s)
  obtain ⟨m, o, e, a, h⟩ := meterTick_side s
  rw [h] at q record clock trip settings box mem path agent reader
  exact ⟨q.clock.trans clock, by rw [q.next, trip]; rfl, by rw [q.shift, trip]; rfl,
    by rw [q.accepted, settings]; rfl, q.box.trans box, by rw [q.position, record]; rfl,
    q.mem.trans mem, q.path.trans path, q.agent.trans agent, q.reader.trans reader⟩

/-- Settles O12: the meter's second by R16's steps, and the frame of the counts and ends that follow it. -/
theorem tickClosesTheMetersSecond : Obligations.TickClosesTheMetersSecond := by
  intro s run
  obtain ⟨meter, record⟩ := secondTick_meter s
  obtain ⟨clock, frame⟩ := secondTick_frame s
  obtain ⟨acc, fare, cap, act, chg, trip, evw, attn⟩ := meterTick_charge s
  obtain ⟨n, f, b, x, c, m⟩ := meterTick_meter s
  refine ⟨meterTick s, secondTick s, exec_secondTick run, rfl, clock, meter, record,
    (meterTick_side s).eq, by rw [m], by rw [m], by rw [m], by rw [m], by rw [m], by rw [m],
    by rw [m], by rw [m], by rw [m], by rw [m], fun uncharged => ?_, fun a hs ha slow => ?_, frame⟩
  · rw [acc, fare, cap, act, chg, trip, evw, attn, chargeTime_uncharged uncharged]
    exact ⟨rfl, rfl, rfl, rfl, rfl, rfl, rfl, rfl⟩
  · rw [acc, fare, cap, act, chg, trip, evw, attn, chargeTime_charged hs ha slow]
    refine ⟨fun lo => ?_, fun hi => ?_⟩
    · rw [addIncrement_below lo]
      exact ⟨rfl, rfl, rfl, rfl, rfl, rfl, rfl, rfl⟩
    · obtain ⟨acc, fare, cap⟩ := addIncrement_stepped a hi
      refine ⟨acc, fare, cap, fun hc => ?_, fun c r hc hr => ?_⟩
      · obtain ⟨act, chg, evw, attn, -⟩ := addIncrement_unchanged a hi hc
        exact ⟨act, chg, evw, attn⟩
      · obtain ⟨act, chg, evw, attn, -⟩ := addIncrement_applied hi hc ha hr rfl
        exact ⟨_, rfl, act, chg, evw, attn⟩

/-! ### The tariff segments (R17, R18, R29) -/

theorem countStep_append (gs : List Segment) (g : Segment) : countStep (gs ++ [g]) =
    gs ++ [{ g with steps := min (g.steps + 1) 4294967295 }] := by
  induction gs with
  | nil => rfl
  | cons x xs ih =>
    cases xs with
    | nil => rfl
    | cons y ys => exact congrArg (List.cons x) ih

theorem countLast_eq {r : TripRecord} {gs : List Segment} {g : Segment}
    (h : r.segments = gs ++ [g]) : countLast r = { r with
      segments := gs ++ [{ g with steps := min (g.steps + 1) 4294967295 }] } := by
  rw [countLast, h, countStep_append]

theorem addSegment_room {r : TripRecord} (h : r.segments.length < 6) (slot version : Nat) :
    addSegment slot version r = { r with
      segments := r.segments ++ [{ slot := slot, version := version, steps := 0 }] } := if_pos h

theorem addSegment_full {r : TripRecord} (h : 6 ≤ r.segments.length) (slot version : Nat) :
    addSegment slot version r = { r with truncated := true } := if_neg (Nat.not_lt.2 h)

/-- The commands of a step take it by adding their increment to a state that has the meter's and the trip's items of s. -/
theorem exec_step {k : Instr} {inc : Nat} {s : State} {a : ActiveCopy} (run : s.phase ≠ .fullReset)
    (hs : s.meter.state = .hired) (ha : s.meter.active = some a)
    (h : (k = .odoPulse ∧ inc = a.tariff.distanceInc ∧ (s.settings.accepted.maxPulses = 0 ∨
        s.meter.secondCount < s.settings.accepted.maxPulses)) ∨
      (k = .secondTick ∧ inc = a.tariff.timeInc ∧ s.meter.secondCount < a.tariff.slowThreshold)) :
    ∃ t v, exec k s = .next t ∧ t.trip.openTrip = (addIncrement a inc v).trip.openTrip ∧
      v.trip.openTrip = s.trip.openTrip ∧ v.meter.acc = s.meter.acc ∧
      v.meter.change = s.meter.change ∧ v.meter.active = s.meter.active ∧
      v.meter.slots = s.meter.slots := by
  rcases h with ⟨rfl, rfl, accepted⟩ | ⟨rfl, rfl, slow⟩
  · exact ⟨_, hiredPulse s, exec_odoPulse run, by rw [odoPulse_hired hs ha accepted], rfl, rfl, rfl,
      rfl, rfl⟩
  · refine ⟨_, s, exec_secondTick run, ?_, rfl, rfl, rfl, rfl, rfl⟩
    rw [(secondTick_meter s).2, ← chargeTime_charged hs ha slow]
    rfl

/-- Settles O11: the step of either command counts in the last segment and passes its boundary on the same record. -/
theorem stepsAreCountedInTheTripSegments : Obligations.StepsAreCountedInTheTripSegments := by
  intro k inc s a r g gs run hs ha how hi hr hg
  obtain ⟨t, v, e, ht, vr, vacc, vchg, vact, vslots⟩ := exec_step run hs ha how
  rw [← vacc] at hi
  have counted := countLast_eq hg
  have applied {c : PendingChange} {f : Tariff} (hc : s.meter.change = some c)
      (hf : slotTariff s.meter c.slot = some f) :
      t.trip.openTrip = some (addSegment c.slot f.version (countLast r)) := by
    obtain ⟨-, -, -, -, h⟩ := addIncrement_applied hi (vchg.trans hc) (vact.trans ha)
      (r := f) (by rw [slotTariff, vslots]; exact hf) rfl
    rw [ht, h, vr, hr]
    rfl
  have length : (countLast r).segments.length = r.segments.length := by
    rw [counted, hg, List.length_append, List.length_append]
    rfl
  refine ⟨t, e, fun hc => ?_, fun c f hc hf room => ?_, fun c f hc hf full => ?_⟩
  · obtain ⟨-, -, -, -, h⟩ := addIncrement_unchanged a hi (vchg.trans hc)
    rw [ht, h, vr, hr, ← counted]
    rfl
  · rw [applied hc hf, addSegment_room (by rw [length]; exact room), counted]
  · rw [applied hc hf, addSegment_full (by rw [length]; exact full), counted]

end Sys2Proof.Machine

namespace Sys2Proof.Machine

/-! ### A tick at which no timer comes to its end -/

/-- No timer in seconds stands at its end, and the contention clock has not surely passed the dwell. -/
structure NoEnd (s : State) : Prop where
  ready : s.sup.ready ≠ some 0
  powerOff : s.sup.powerOff ≠ some 0
  stuckBusy : s.sup.stuckBusy ≠ some 0
  healthy : s.sup.healthy ≠ some 0
  repeatTimer : s.emerg.repeatTimer ≠ some 0
  cooldownTimer : s.emerg.cooldownTimer ≠ some 0
  trackTimer : s.emerg.trackTimer ≠ some 0
  graceTimer : s.emerg.graceTimer ≠ some 0
  holdoff : s.trip.holdoff ≠ some 0
  dwell : ∀ n, s.link.clock = some n → n ≤ s.settings.accepted.dwell
  offers : ∀ o, some o ∈ s.offers.entries → o.remaining ≠ some 0

theorem whenDue_early {timer : State → Option Nat} {s : State} (h : timer s ≠ some 0)
    (f : State → State) : whenDue timer f s = s := if_neg h

theorem offerAt_mem {i : Nat} {s : State} {o : Offer} (h : offerAt i s = some o) :
    some o ∈ s.offers.entries := by
  rw [offerAt, List.getD_eq_getElem?_getD] at h
  cases e : s.offers.entries[i]? with
  | none => rw [e] at h; cases h
  | some x =>
    rw [e] at h
    exact h ▸ List.mem_of_getElem? e

theorem ite_none_ne {p : Prop} [Decidable p] {x : Option Nat} (h : x ≠ some 0) :
    (if p then x else none) ≠ some 0 := by
  split
  · exact h
  · exact nofun

namespace NoEnd

variable {s : State} (h : NoEnd s)

include h

theorem endSup_eq : endSup s = s := by
  rw [endSup, whenDue_early (timer := (·.sup.healthy)) h.healthy,
    whenDue_early (timer := (·.sup.stuckBusy)) h.stuckBusy,
    whenDue_early (timer := (·.sup.ready)) h.ready,
    whenDue_early (timer := (·.sup.powerOff)) h.powerOff]

theorem remainingOf_ne (i : Nat) : remainingOf i s ≠ some 0 := by
  intro e
  obtain ⟨o, ho, he⟩ := Option.bind_eq_some_iff.1 e
  exact ite_none_ne (h.offers o (offerAt_mem ho)) he

theorem endWindows_eq (n : Nat) : endWindows n s = s := by
  induction n with
  | zero => rfl
  | succ n ih => rw [endWindows, ih, whenDue_early (h.remainingOf_ne n)]

theorem awardRemaining_ne : awardRemaining s ≠ some 0 := by
  intro e
  obtain ⟨⟨i, o⟩, hw, he⟩ := Option.bind_eq_some_iff.1 e
  unfold waitingAward at hw
  split at hw
  · rename_i j p hj
    obtain ⟨-, hw⟩ := Option.ite_none_right_eq_some.1 hw
    cases hw
    exact h.offers o (offerAt_mem (findJob_at hj).1) he
  · cases hw

theorem endDwell_eq : endDwell s = s := by
  unfold endDwell
  split
  · rename_i n hn
    exact if_neg (fun c => Nat.not_lt.2 (h.dwell n hn) c.2.1)
  · rfl

theorem endEmerg_eq : endEmerg s = s := by
  have hr : repeatLeft s ≠ some 0 := ite_none_ne h.repeatTimer
  have hc : cooldownLeft s ≠ some 0 := ite_none_ne h.cooldownTimer
  have ht : trackLeft s ≠ some 0 := ite_none_ne h.trackTimer
  rw [endEmerg, whenDue_early hr, whenDue_early hc, whenDue_early ht,
    whenDue_early (timer := (·.emerg.graceTimer)) h.graceTimer]

theorem endTimers_eq : endTimers s = s := by
  rw [endTimers, h.endSup_eq, h.endWindows_eq, endAward, whenDue_early h.awardRemaining_ne,
    whenDue_early (timer := (·.trip.holdoff)) h.holdoff, h.endDwell_eq, h.endEmerg_eq]

end NoEnd

/-! ### No report waits -/

theorem placeOne_idle {s : State} (h : heldReports s = []) : placeOne s = s := by
  rw [placeOne, h]
  exact ite_self s

theorem placeMany_idle (n : Nat) {s : State} (h : heldReports s = []) : placeMany n s = s := by
  induction n with
  | zero => rfl
  | succ n ih => rw [placeMany, placeOne_idle h, ih]

theorem placeHeld_idle {s : State} (h : heldReports s = []) : placeHeld s = s :=
  placeMany_idle _ h

theorem heldByOffers_map {g : Offer → Offer} (hg : ∀ o, (g o).held = o.held) (i : Nat)
    (es : List (Option Offer)) : heldByOffers i (es.map (Option.map g)) = heldByOffers i es := by
  induction es generalizing i with
  | nil => rfl
  | cons e es ih =>
    have held : (e.map g).bind (·.held) = e.bind (·.held) := by
      cases e with
      | none => rfl
      | some o => exact hg o
    rw [List.map_cons, heldByOffers, heldByOffers, held, ih]

/-- Counting the timers leaves the reports where they are. -/
theorem heldReports_openTick (s : State) : heldReports (openTick s) = heldReports s := by
  cases h : s.book.counted with
  | true => rw [openTick_counted h]
  | false =>
    rw [openTick_eq h]
    unfold heldReports
    simp only [State.setLink_offers, State.setTrip_offers, State.setEmerg_offers,
      State.setSup_offers, State.setOffers_offers]
    rw [heldByOffers_map (g := fun o => { o with remaining := countDown o.remaining })
      (fun _ => rfl)]
    rfl

/-! ### The counts of a tick (R16, R36, R90, R110, R114, R138, R177) -/

/-- The tick's count of the timers is the one that an end row takes; clock and fix age are beside it. -/
theorem countTick_timers (s : State) : (countTick s).sup = (openTick s).sup ∧
    (countTick s).emerg = (openTick s).emerg ∧ (countTick s).trip = (openTick s).trip ∧
    (countTick s).offers = (openTick s).offers ∧ (countTick s).link = (openTick s).link ∧
    (countTick s).pool = (openTick s).pool ∧ (countTick s).settings = (openTick s).settings := by
  unfold countTick
  rw [tickFix_position (tickClock s)]
  cases h : s.book.counted with
  | false =>
    rw [openTick_eq h, openTick_eq (by exact h)]
    exact ⟨rfl, rfl, rfl, rfl, rfl, rfl, rfl⟩
  | true =>
    rw [openTick_counted h, openTick_counted (by exact h)]
    exact ⟨rfl, rfl, rfl, rfl, rfl, rfl, rfl⟩

theorem tickFix_running {s : State} (h : s.phase = .running) : tickFix s = s.setPosition
    { s.position with fixAge := satAdd Config.max16 s.position.fixAge 1 } := if_pos h

theorem tickFix_in_reset {s : State} (h : s.phase ≠ .running) : tickFix s = s := if_neg h

theorem tickFix_setMeter (m : Meter) (s : State) :
    tickFix (s.setMeter m) = (tickFix s).setMeter m := by
  by_cases h : s.phase = .running
  · rw [tickFix_running h, tickFix_running (by exact h)]
    rfl
  · rw [tickFix_in_reset h, tickFix_in_reset (by exact h)]

theorem openTick_setMeter (m : Meter) (s : State) :
    openTick (s.setMeter m) = (openTick s).setMeter m := by
  cases h : s.book.counted with
  | true => rw [openTick_counted h, openTick_counted (by exact h)]
  | false =>
    rw [openTick_eq h, openTick_eq (by exact h)]
    rfl

theorem countTick_setMeter (m : Meter) (s : State) :
    countTick (s.setMeter m) = (countTick s).setMeter m := by
  have clock : tickClock (s.setMeter m) = (tickClock s).setMeter m := rfl
  rw [countTick, clock, tickFix_setMeter, openTick_setMeter]
  rfl

theorem heldReports_countTick (s : State) : heldReports (countTick s) = heldReports s := by
  obtain ⟨-, emerg, trip, offers, -, pool, settings⟩ := countTick_timers s
  rw [← heldReports_openTick s]
  unfold heldReports
  rw [emerg, trip, offers, pool, settings]

theorem meterTick_unhired {s : State} (h : s.meter.state ≠ .hired) :
    meterTick s = s.setMeter (meterTick s).meter := by
  rw [meterTick, chargeTime_uncharged (Or.inl h)]
  rfl

/-- A tick at which no timer comes to its end and no report waits, outside HIRED, counts and does no more. -/
theorem secondTick_uneventful {s : State} (hs : s.meter.state ≠ .hired)
    (hr : heldReports s = []) (h : NoEnd (countTick s)) :
    secondTick s = (countTick s).setMeter (meterTick s).meter := by
  have counted : countTick (meterTick s) = (countTick s).setMeter (meterTick s).meter := by
    rw [← countTick_setMeter, ← meterTick_unhired hs]
  have noEnd : NoEnd (countTick (meterTick s)) := by
    rw [counted]
    exact ⟨h.ready, h.powerOff, h.stuckBusy, h.healthy, h.repeatTimer, h.cooldownTimer,
      h.trackTimer, h.graceTimer, h.holdoff, h.dwell, h.offers⟩
  have noReport : heldReports (countTick (meterTick s)) = [] := by
    rw [heldReports_countTick, meterTick_unhired hs]
    exact hr
  rw [secondTick, noEnd.endTimers_eq, placeHeld_idle noReport, counted]

/-- No timer comes to its end at a tick whose count brings none to 0. -/
theorem noEnd_countTick {s : State}
    (dwell : ∀ n, (openTick s).link.clock = some n → n ≤ s.settings.accepted.dwell)
    (timers : ∀ x, x = (openTick s).sup.ready ∨ x = (openTick s).sup.powerOff ∨
      x = (openTick s).sup.stuckBusy ∨ x = (openTick s).sup.healthy ∨
      x = (openTick s).emerg.repeatTimer ∨ x = (openTick s).emerg.cooldownTimer ∨
      x = (openTick s).emerg.trackTimer ∨ x = (openTick s).emerg.graceTimer ∨
      x = (openTick s).trip.holdoff → x ≠ some 0)
    (offers : ∀ o, some o ∈ (openTick s).offers.entries → o.remaining ≠ some 0) :
    NoEnd (countTick s) := by
  obtain ⟨sup, emerg, trip, off, link, -, settings⟩ := countTick_timers s
  obtain ⟨-, -, -, accepted, -⟩ := openTick_same s
  constructor
  case dwell => rw [link, settings, accepted]; exact dwell
  case offers => rw [off]; exact offers
  case holdoff => rw [trip]; exact timers _ (by simp)
  case ready | powerOff | stuckBusy | healthy => rw [sup]; exact timers _ (by simp)
  case repeatTimer | cooldownTimer | trackTimer | graceTimer =>
    rw [emerg]; exact timers _ (by simp)

theorem countTick_eq (s : State) : ∃ u, u = openTick { s with
      clock := s.clock + 1
      secs := s.secs + 1
      position := if s.phase = .running
        then { s.position with fixAge := min (s.position.fixAge + 1) 65535 } else s.position } ∧
    countTick s = { u with book := { u.book with counted := false } } := by
  refine ⟨openTick (tickFix (tickClock s)), congrArg openTick ?_, rfl⟩
  have phase : (tickClock s).phase = s.phase := rfl
  rw [tickFix, phase]
  split <;> rfl

theorem spareSup_eq (s u : State) : spareSup s u =
    (u.setSup (spareSup s u).sup).setLink { u.link with clock := (spareSup s u).link.clock } := rfl

theorem spareSup_timers (s u : State) :
    (spareSup s u).sup.ready = spare 5 s.sup.ready u.sup.ready ∧
      (spareSup s u).sup.powerOff =
        spare s.settings.accepted.powerOffTime s.sup.powerOff u.sup.powerOff ∧
      (spareSup s u).sup.stuckBusy =
        spare s.settings.accepted.busyLimit s.sup.stuckBusy u.sup.stuckBusy ∧
      (spareSup s u).sup.healthy = spare 60 s.sup.healthy u.sup.healthy ∧
      (spareSup s u).link.clock = spare 0 s.link.clock u.link.clock :=
  ⟨rfl, rfl, rfl, rfl, rfl⟩

/-- A spared timer stands at its full length. -/
theorem spare_eq (n : Nat) (now c : Option Nat) : spare n now c = if now = some n then some n else c := by
  unfold spare
  split
  · rename_i h
    exact h
  · rfl

theorem spareRaise_override {s : State} (h : s.sup.override = true) (u : State) :
    spareRaise s u = spareSup s (spareCall s u) := if_pos h

theorem spareRaise_plain {s : State} (h : s.sup.override = false) (u : State) :
    spareRaise s u = spareCall s u := if_neg (by rw [h]; exact Bool.false_ne_true)

/-- Settles O13: the counts by the tick at hand, the uneventful tick by what each end asks for, the spared timers by their full length. -/
theorem tickCountsEverySecondsTimer : Obligations.TickCountsEverySecondsTimer := by
  refine ⟨fun s h => ?_, fun s h => openTick_counted h, countTick_eq, ?_, ?_, ?_, ?_⟩
  · rw [openTick_eq h]
    simp only [State.setLink, State.setTrip, State.setEmerg, State.setSup, State.setOffers,
      State.setBook, countDown]
  · intro s u hu run hs hr dwell timers offers
    subst hu
    have h : NoEnd (countTick s) := noEnd_countTick dwell timers offers
    refine ⟨secondTick s, exec_secondTick (by rw [run]; exact Phase.noConfusion), ?_⟩
    rw [secondTick_uneventful hs hr h]
    rfl
  · rintro s u t rfl rfl
    obtain ⟨cycles, override, -⟩ := openTick_states s
    obtain ⟨ready, powerOff, stuckBusy, healthy, clock⟩ := spareSup_timers s (openTick s)
    refine ⟨spareSup_eq s _, cycles, override, ?_, powerOff, stuckBusy, ?_, ?_⟩
    · rw [ready, spare_eq]
    · rw [healthy, spare_eq]
    · rw [clock, spare_eq]
  · rintro s u t rfl rfl
    exact ⟨rfl, rfl, rfl, rfl, rfl⟩
  · intro s u
    refine ⟨fun h => spareRaise_override h u, fun h => spareRaise_plain h u, _, rfl, ?_⟩
    rw [spareRelease, spare_eq]
    rfl

end Sys2Proof.Machine

namespace Sys2Proof.Machine

/-! ### The terminal area is served (R168) -/

theorem areaOpen_iff (s : State) : areaOpen s = true ↔
    s.phase = .running ∧ s.path.base.isSome = true ∧ s.agent.initial = .done := by
  simp only [areaOpen, Bool.and_eq_true, decide_eq_true_eq, and_assoc]

theorem whenOpen_served {s : State} {b : Nat} (run : s.phase = .running)
    (base : s.path.base = some b) (done : s.agent.initial = .done) (f : State → State) :
    whenOpen f s = f s := if_pos ((areaOpen_iff s).2 ⟨run, by rw [base]; rfl, done⟩)

theorem whenOpen_closed {s : State}
    (h : s.phase ≠ .running ∨ s.path.base = none ∨ s.agent.initial ≠ .done) (f : State → State) :
    whenOpen f s = s := by
  refine if_neg (fun served => ?_)
  obtain ⟨run, base, done⟩ := (areaOpen_iff s).1 served
  rcases h with h | h | h
  · exact h run
  · rw [h] at base
    cases base
  · exact h done

/-! ### What the owners of the snooped words take (R161, R170, R174, R177, R178) -/

theorem takeProducer_taken {v : Word} (h : v.toNat ≤ 15) (s : State) :
    takeProducer v s = s.setReader { s.reader with producer := v.toNat } := if_pos h

theorem takeProducer_ignored {v : Word} (h : 15 < v.toNat) (s : State) :
    takeProducer v s = raiseFactor .format s := if_neg (Nat.not_le.2 h)

theorem consumerOk_iff (c old producer : Nat) : consumerOk c old producer = true ↔
    c ≤ 63 ∧ (c + 64 - old) % 64 ≤ (producer + 64 - old) % 64 := by
  rw [consumerOk, Bool.and_eq_true, decide_eq_true_eq, decide_eq_true_eq]

theorem takeConsumer_taken {v : Word} {s : State} (h : v.toNat ≤ 63)
    (k : (v.toNat + 64 - s.evw.consumer) % 64 ≤ (s.evw.producer + 64 - s.evw.consumer) % 64) :
    takeConsumer v s = s.setEvw { s.evw with consumer := v.toNat } :=
  if_pos ((consumerOk_iff _ _ _).2 ⟨h, k⟩)

theorem takeConsumer_ignored {v : Word} {s : State} (h : 63 < v.toNat ∨
    (s.evw.producer + 64 - s.evw.consumer) % 64 < (v.toNat + 64 - s.evw.consumer) % 64) :
    takeConsumer v s = raiseFactor .format s := by
  refine if_neg (fun ok => ?_)
  obtain ⟨h1, h2⟩ := (consumerOk_iff _ _ _).1 ok
  rcases h with h | h
  · exact Nat.not_lt.2 h1 h
  · exact Nat.not_lt.2 h2 h

theorem takePosition_taken {s : State} {p : Position} (h : positionOf s.position.staging = some p) :
    takePosition s = s.setPosition { s.position with record := some p, fixAge := 0 } := by
  rw [takePosition, h]

theorem takePosition_ignored {s : State} (h : positionOf s.position.staging = none) :
    takePosition s = raiseFactor .format s := by
  rw [takePosition, h]

/-- Table 42: the position record stands in its three words, each field in its range (R177). -/
theorem positionOf_eq_some_iff (ws : List Word) (p : Position) : positionOf ws = some p ↔
    -90000000 ≤ (ws.getD 0 0).toInt ∧ (ws.getD 0 0).toInt ≤ 90000000 ∧
      -180000000 ≤ (ws.getD 1 0).toInt ∧ (ws.getD 1 0).toInt ≤ 180000000 ∧
      (ws.getD 2 0).toNat / 2 ^ 16 % 2 ^ 9 ≤ 359 ∧
      p = { latitude := ws.getD 0 0, longitude := ws.getD 1 0,
            speed := BitVec.ofNat 16 ((ws.getD 2 0).toNat / 2 ^ 0 % 2 ^ 16),
            heading := (ws.getD 2 0).toNat / 2 ^ 16 % 2 ^ 9, fixValid := (ws.getD 2 0).msb } := by
  rw [positionOf, Option.ite_none_right_eq_some, Option.some.injEq]
  simp only [stagingWord, field, and_assoc, eq_comm (a := p)]

/-- The words that SETTINGS and POSITION records hold are snooped (Table 36). -/
theorem treatment_settings {n : Nat} (h : n < 0x003C) : treatment n = .snoop :=
  if_pos (by omega)

theorem treatment_position {n : Nat} (h : 0x0060 ≤ n) (k : n < 0x006C) : treatment n = .snoop := by
  unfold treatment
  rw [if_neg (by omega), if_neg (by omega), if_neg (by omega), if_neg (by omega),
    if_pos (by omega)]

theorem snoopTake_settings {n : Nat} (h : n < 0x003C) (v : Word) (s : State) :
    snoopTake n v s = takeSettingsWord (n / 4) v s := if_pos h

theorem snoopTake_position {n : Nat} (h : 0x0060 ≤ n) (k : n < 0x006C) (v : Word) (s : State) :
    snoopTake n v s = takePositionWord ((n - 0x0060) / 4) v s := by
  unfold snoopTake
  rw [if_neg (by omega), if_neg (by omega), if_neg (by omega), if_neg (by omega),
    if_pos ⟨h, k⟩]

theorem snoopedWrite_full (n : Nat) (v : Word) (s : State) : snoopedWrite n 0xF v s =
    snoopTake n v (s.setMem (Memory.writeLanes s.mem (baseOf s + n) 0xF v)) := by
  unfold snoopedWrite
  exact if_pos rfl

theorem snoopedWrite_partial {lanes : BitVec 4} (h : lanes ≠ 0xF) (n : Nat) (v : Word) (s : State) :
    snoopedWrite n lanes v s =
      raiseFactor .format (s.setMem (Memory.writeLanes s.mem (baseOf s + n) lanes v)) := if_neg h

theorem raiseFactor_format {s : State} (run : s.phase = .running) : raiseFactor .format s =
    s.setAttn { s.attn with factors := s.attn.factors ||| 0x004 } := raiseFactor_running _ run

/-- A discarded write is counted and sets GUARD (R162). -/
theorem guardViolation_running {s : State} (run : s.phase = .running) : guardViolation s =
    (s.setPath { s.path with guardCount := min (s.path.guardCount + 1) 65535 }).setAttn
      { s.attn with factors := s.attn.factors ||| 0x008 } := raiseFactor_running _ run

theorem latchAndAnswer_eq (s : State) : latchAndAnswer s = s.setPath { s.path with
    snapshot := snapshotWords s, answer := some ((snapshotWords s).getD 0 0) } := rfl

/-! ### The host's commands while the area is served -/

section

variable {s : State} {b : Nat} (run : s.phase = .running) (base : s.path.base = some b)
  (done : s.agent.initial = .done)

include run base done

theorem exec_whenOpen {c : Instr} {f : State → State}
    (h : ∀ t, exec c t = .next (whenOpen f t)) : exec c s = .next (f s) := by
  rw [h, whenOpen_served run base done]

omit run done in
theorem baseOf_eq : baseOf s = b := by
  rw [baseOf, base]
  rfl

/-- A full word written at a snooped offset by its own command (R161). -/
theorem exec_fullWord {c : Instr} {n : Nat} {v : Word}
    (h : ∀ t, exec c t = .next (whenOpen (snoopedWrite n 0xF v) t)) {m : List Host.Cell}
    (hm : m = Memory.writeLanes s.mem (b + n) 0xF v) :
    exec c s = .next (snoopTake n v (s.setMem m)) := by
  rw [exec_whenOpen run base done h, snoopedWrite_full, baseOf_eq base, hm]

theorem exec_snoopedWordWrite {off : Half} (lanes : BitVec 4) (v : Word)
    (h : treatment (wordOffset off) = .snoop) :
    exec (.snoopedWordWrite off lanes v) s = .next (snoopedWrite (wordOffset off) lanes v s) := by
  rw [exec_whenOpen run base done (c := .snoopedWordWrite off lanes v) (fun _ => rfl), if_pos h]

theorem exec_guardViolation {off : Half} (lanes : BitVec 4) (v : Word)
    (h : treatment (wordOffset off) = .guard ∨ treatment (wordOffset off) = .liveZone) :
    exec (.guardViolation off lanes v) s = .next (guardViolation s) := by
  rw [exec_whenOpen run base done (c := .guardViolation off lanes v) (fun _ => rfl), if_pos h]

end

/-- While the area is not served the row names nothing (log entry 3). -/
theorem exec_closed {c : Instr} {f : State → State} (h : ∀ t, exec c t = .next (whenOpen f t))
    {u : State} (closed : u.phase ≠ .running ∨ u.path.base = none ∨ u.agent.initial ≠ .done) :
    exec c u = .next u := by
  rw [h, whenOpen_closed closed]

/-! ### The words of a snapshot (Tables 13 and 43) and the conditions (Table 41) -/

theorem anyAwarded_iff (s : State) : anyAwarded s = true ↔
    ∃ o ∈ s.offers.entries.filterMap id, o.state = .awarded := by
  rw [anyAwarded, List.any_eq_true]
  constructor
  · rintro ⟨e, he, h⟩
    cases e with
    | none => cases h
    | some o => exact ⟨o, List.mem_filterMap.2 ⟨some o, he, rfl⟩, beq_iff_eq.1 h⟩
  · rintro ⟨o, ho, h⟩
    obtain ⟨e, he, rfl⟩ := List.mem_filterMap.1 ho
    exact ⟨some o, he, beq_iff_eq.2 h⟩

theorem effectiveDuty_busy {s : State} (h : s.meter.state ≠ .vacant ∨
    ∃ o ∈ s.offers.entries.filterMap id, o.state = .awarded) : effectiveDuty s = .busy :=
  if_pos (h.imp_right (anyAwarded_iff s).2)

theorem effectiveDuty_driver {s : State} (h : s.meter.state = .vacant)
    (k : ∀ o ∈ s.offers.entries.filterMap id, o.state ≠ .awarded) :
    effectiveDuty s = s.offers.driverDuty := by
  refine if_neg (not_or.2 ⟨not_not.2 h, fun awarded => ?_⟩)
  obtain ⟨o, ho, ha⟩ := (anyAwarded_iff s).1 awarded
  exact k o ho ha

theorem congestActive_iff (s : State) : congestActive s = true ↔
    s.link.state = .contend ∧ s.link.dwellPassed = true ∧ ∃ q e,
      s.link.target = some q ∧ entryWith q s = some e ∧ (e.cls = .bid ∨ e.cls = .alarm) := by
  rw [congestActive, Bool.and_eq_true, Bool.and_eq_true, decide_eq_true_eq, and_assoc]
  refine and_congr_right fun _ => and_congr_right fun _ => ?_
  cases ht : s.link.target with
  | none => simp
  | some q =>
    cases he : entryWith q s with
    | none => simp [he]
    | some e => simp [he]

theorem jobEntry_eq (s : State) : jobEntry s = (s.offers.entries.filterMap id).find?
    (fun o => o.state == .bidSent || o.state == .awarded) := rfl

/-- The job state and the offer id of a snapshot, by the entry that holds the job. -/
theorem zoneDutyWords_eq (s : State) : zoneDutyWords s =
    [ s.clock, halves s.path.guardCount 0,
      packed (effectiveDuty s).code s.offers.driverDuty.code (s.offers.entries.countP (·.isSome))
        (match jobEntry s with | none => 0 | some o => if o.state = .bidSent then 1 else 2),
      (match jobEntry s with | none => 0 | some o => o.id),
      halves s.offers.suppressed s.offers.malformed,
      halves s.offers.overflow (s.pool.slots.countP (·.isSome)), halves s.pool.malformed 0 ] := by
  unfold zoneDutyWords jobId
  cases jobEntry s <;> rfl

theorem zoneLinkWords_eq (s : State) : zoneLinkWords s =
    [ packed s.link.state.code s.link.channel (s.link.pendingChannel.getD 255)
        s.uplink.entries.length,
      packed s.rx.badRun ((if s.rx.linkPoor then 1 else 0) + if congestActive s then 2 else 0)
        s.sup.cycles (if s.sup.override then 1 else 0),
      halves s.rx.totalBad s.rx.overrun, halves s.rx.unknown s.uplink.dropped,
      halves s.uplink.unmatched 0,
      packed s.emerg.state.code s.emerg.round s.emerg.attempt
        ((if s.emerg.graceTimer.isSome then 1 else 0) + if s.emerg.box.isSome then 2 else 0),
      halves s.emerg.trackCount s.emerg.ignored, halves s.emerg.keyedCount 0, s.emerg.lastSent,
      (match s.emerg.box with | none => 0 | some x => x.time) ] := by
  unfold zoneLinkWords
  cases s.emerg.box <;> rfl

theorem conditions_eq (s : State) : conditions s = (if s.meter.pulseFault then 0x010 else 0) |||
    (if s.rx.linkPoor then 0x020 else 0) ||| (if s.link.state = .failed then 0x040 else 0) |||
    (if congestActive s then 0x080 else 0) ||| (if s.emerg.state = .quiet then 0 else 0x100) := by
  simp only [conditions, Factor.when, Factor.mask, decide_eq_true_eq, ite_not]

/-- The host's full words while the area is served: each reaches memory and its owner takes it or ignores it with FORMAT. -/
theorem hostWords_taken {s : State} {v : Word} {b : Nat} (run : s.phase = .running)
    (base : s.path.base = some b) (done : s.agent.initial = .done) {f : BitVec 9}
    (hf : f = s.attn.factors ||| 0x004) :
    (∀ m, m = Memory.writeLanes s.mem (b + 0x0040) 0xF v →
      (v.toNat ≤ 15 → exec (.requestProducerIndexWrite v) s =
        .next ((s.setMem m).setReader { s.reader with producer := v.toNat })) ∧
      (15 < v.toNat → exec (.requestProducerIndexWrite v) s =
        .next ((s.setMem m).setAttn { s.attn with factors := f }))) ∧
    (∀ m, m = Memory.writeLanes s.mem (b + 0x004C) 0xF v →
      (v.toNat ≤ 63 → (v.toNat + 64 - s.evw.consumer) % 64 ≤
          (s.evw.producer + 64 - s.evw.consumer) % 64 →
        exec (.eventConsumerIndexWrite v) s =
          .next ((s.setMem m).setEvw { s.evw with consumer := v.toNat })) ∧
      (63 < v.toNat ∨ (s.evw.producer + 64 - s.evw.consumer) % 64 <
          (v.toNat + 64 - s.evw.consumer) % 64 →
        exec (.eventConsumerIndexWrite v) s =
          .next ((s.setMem m).setAttn { s.attn with factors := f }))) ∧
    (∀ m, m = Memory.writeLanes s.mem (b + 0x0074) 0xF v →
      exec (.attentionEnableWrite v) s =
        .next ((s.setMem m).setAttn { s.attn with enables := v.setWidth 9 })) ∧
    (∀ m, m = Memory.writeLanes s.mem (b + 0x006C) 0xF v →
      (∀ p, positionOf s.position.staging = some p → exec (.positionCommit v) s =
        .next ((s.setMem m).setPosition { s.position with record := some p, fixAge := 0 })) ∧
      (positionOf s.position.staging = none → exec (.positionCommit v) s =
        .next ((s.setMem m).setAttn { s.attn with factors := f }))) := by
  subst hf
  have ignored (m : List Host.Cell) : raiseFactor .format (s.setMem m) =
      (s.setMem m).setAttn { s.attn with factors := s.attn.factors ||| 0x004 } :=
    raiseFactor_format (s := s.setMem m) run
  refine ⟨fun m hm => ?_, fun m hm => ?_, fun m hm => ?_, fun m hm => ?_⟩
  · rw [exec_fullWord run base done (c := .requestProducerIndexWrite v) (fun _ => rfl) hm]
    refine ⟨fun h => congrArg _ (takeProducer_taken h _), fun h => congrArg _ ?_⟩
    exact (takeProducer_ignored h _).trans (ignored m)
  · rw [exec_fullWord run base done (c := .eventConsumerIndexWrite v) (fun _ => rfl) hm]
    refine ⟨fun h k => congrArg _ (takeConsumer_taken (s := s.setMem m) h k),
      fun h => congrArg _ ?_⟩
    exact (takeConsumer_ignored (s := s.setMem m) h).trans (ignored m)
  · exact exec_fullWord run base done (c := .attentionEnableWrite v) (fun _ => rfl) hm
  · rw [exec_fullWord run base done (c := .positionCommit v) (fun _ => rfl) hm]
    refine ⟨fun p h => congrArg _ (takePosition_taken (s := s.setMem m) h),
      fun h => congrArg _ ?_⟩
    exact (takePosition_ignored (s := s.setMem m) h).trans (ignored m)

/-- A snooped word of the records by its offset: a full one joins its staging copy, a partial one sets FORMAT. -/
theorem snoopedWords_taken {s : State} {b : Nat} (run : s.phase = .running)
    (base : s.path.base = some b) (done : s.agent.initial = .done) (off : Half) (lanes : BitVec 4)
    (v : Word) {m : List Host.Cell}
    (hm : m = Memory.writeLanes s.mem (b + wordOffset off) lanes v) :
    (wordOffset off < 0x003C → lanes = 0xF → exec (.snoopedWordWrite off lanes v) s =
      .next ((s.setMem m).setSettings { s.settings with
        staging := s.settings.staging.set (wordOffset off / 4) v })) ∧
    (0x0060 ≤ wordOffset off → wordOffset off < 0x006C → lanes = 0xF →
      exec (.snoopedWordWrite off lanes v) s = .next ((s.setMem m).setPosition { s.position with
        staging := s.position.staging.set ((wordOffset off - 0x0060) / 4) v })) ∧
    (treatment (wordOffset off) = .snoop → lanes ≠ 0xF →
      exec (.snoopedWordWrite off lanes v) s = .next ((s.setMem m).setAttn { s.attn with
        factors := s.attn.factors ||| 0x004 })) := by
  have e : m = Memory.writeLanes s.mem (baseOf s + wordOffset off) lanes v := by
    rw [hm, baseOf_eq base]
  refine ⟨?_, ?_, ?_⟩
  · rintro h rfl
    rw [exec_snoopedWordWrite run base done _ v (treatment_settings h), snoopedWrite_full, ← e,
      snoopTake_settings h]
    rfl
  · rintro h k rfl
    rw [exec_snoopedWordWrite run base done _ v (treatment_position h k), snoopedWrite_full, ← e,
      snoopTake_position h k]
    rfl
  · intro h k
    rw [exec_snoopedWordWrite run base done lanes v h, snoopedWrite_partial k, ← e]
    exact congrArg _ (raiseFactor_format (s := s.setMem m) run)

/-- Settles O52: each word by its owner while the area is served, the rows that name nothing else, and the snapshot's words list by list. -/
theorem hostWordsAreTakenOrDiscarded : Obligations.HostWordsAreTakenOrDiscarded := by
  refine ⟨fun s v b run base done g f hf hg => ?_, fun s p h w j c hp hh hw hj hc => ?_⟩
  · obtain ⟨producer, consumer, enables, position⟩ := hostWords_taken run base done hf (v := v)
    refine ⟨producer, consumer, enables, position, ?_, fun off lanes n hn => ⟨fun m hm => ?_, fun h => ?_⟩, ?_,
      positionOf_eq_some_iff, fun u off lanes closed => ⟨?_, ?_, ?_, ?_, ?_, ?_, ?_, ?_, ?_⟩⟩
    · exact exec_whenOpen run base done (c := .attentionWordWrite v) (fun _ => rfl)
    · subst hn hf
      exact snoopedWords_taken run base done off lanes v hm
    · subst hn
      rw [exec_guardViolation run base done lanes v h, guardViolation_running run, hg]
    · exact exec_whenOpen run base done (c := .snapshotLatch) (fun _ => rfl)
    all_goals exact exec_closed (fun _ => rfl) closed
  · have packed_eq : p = packed := by
      funext x y z u
      exact hp x y z u
    have halves_eq : h = halves := by
      funext x y
      exact hh x y
    have w32_eq : w = w32 := funext hw
    have job : j = jobEntry s := hj
    have congest : c = congestActive s := Bool.eq_iff_iff.2 (hc.trans (congestActive_iff s).symm)
    rw [packed_eq, halves_eq, w32_eq, job, congest]
    refine ⟨?_, conditions_eq s, effectiveDuty_driver, effectiveDuty_busy⟩
    rw [snapshotWords, zoneDutyWords_eq, zoneLinkWords_eq]
    rfl

end Sys2Proof.Machine

namespace Sys2Proof.Machine

/-! ### A bid that a hiring meets (R119, R120) -/

/-- The outcome a hiring leaves behind an abandon mark (R119). -/
def hireOutcome : Option Deferred → Deferred
  | none | some .abandon => .abandon
  | some .award | some .late => .late
  | some .taken => .taken

theorem hireBid_deferred {i q : Nat} {o : Offer} {s : State} (hq : o.bidSeq = some q)
    (h : o.deferred ≠ none ∨ ∃ e, entryWith q s = some e ∧ e.state = .onAir) :
    hireBid i o s = setOffer i (some { o with
      deferred := some (hireOutcome o.deferred), remaining := none })
        (updateEntry q (fun x => { x with abandon := true }) s) := by
  have deferred : o.deferred.isSome ∨
      (o.bidSeq.bind (fun q => entryWith q s)).map (·.state) = some .onAir := by
    rcases h with h | ⟨e, he, ha⟩
    · exact Or.inl (Option.isSome_iff_ne_none.2 h)
    · exact Or.inr (by rw [hq, Option.bind_some, he, Option.map_some, ha])
  unfold hireBid
  simp only
  rw [if_pos deferred, hq]
  generalize o.deferred = d
  rcases d with _ | d
  · rfl
  · cases d <;> rfl

section

variable {i : Nat} {o : Offer} {s : State} (plain : o.deferred = none)
  (sent : ∀ q e, o.bidSeq = some q → entryWith q s = some e → e.state ≠ .onAir)

include plain sent

/-- A BID not in the air is withdrawn, and its offer closes at once. -/
theorem hireBid_withdrawn : hireBid i o s = match o.progress with
    | some .queued => closeOffer i o .abandoned .noneOffered (withdrawBid o s)
    | _ => closeOffer i o .abandoned (offerRelease o.id (withdrawBid o s)).2
        (offerRelease o.id (withdrawBid o s)).1 := by
  have now : ¬ (o.deferred.isSome ∨
      (o.bidSeq.bind (fun q => entryWith q s)).map (·.state) = some .onAir) := by
    rintro (h | h)
    · simp [plain] at h
    · obtain ⟨e, he, ha⟩ := Option.map_eq_some_iff.1 h
      obtain ⟨q, hq, hf⟩ := Option.bind_eq_some_iff.1 he
      exact sent q e hq hf ha
  unfold hireBid
  simp only [if_neg now]
  rfl

theorem hireBid_queued (hp : o.progress = some .queued) :
    hireBid i o s = closeOffer i o .abandoned .noneOffered (withdrawBid o s) := by
  rw [hireBid_withdrawn plain sent, hp]

theorem hireBid_sent (hp : o.progress = some .awaitAck ∨ o.progress = some .acked) :
    hireBid i o s = closeOffer i o .abandoned (offerRelease o.id (withdrawBid o s)).2
      (offerRelease o.id (withdrawBid o s)).1 := by
  rw [hireBid_withdrawn plain sent]
  rcases hp with hp | hp <;> rw [hp]

end

/-! ### What the settling of the job leaves alone -/

/-- The emergency controller and the driver's duty are those of s. -/
def DutySide (s t : State) : Prop := t.emerg = s.emerg ∧ t.offers.driverDuty = s.offers.driverDuty

namespace DutySide

theorem trans {s t u : State} (h : DutySide s t) (k : DutySide t u) : DutySide s u :=
  ⟨k.1.trans h.1, k.2.trans h.2⟩

theorem of_radio {s t : State} (h : RadioSide s t) : DutySide s t :=
  ⟨h.emerg, congrArg OfferTable.driverDuty h.offers⟩

theorem setOffer (i : Nat) (o : Option Offer) (s : State) : DutySide s (setOffer i o s) := ⟨rfl, rfl⟩

theorem closeOffer (i : Nat) (o : Offer) (r : ClosingReason) (n : ReleaseNote) (s : State) :
    DutySide s (closeOffer i o r n s) := ⟨rfl, rfl⟩

end DutySide

theorem withdrawBid_radio (o : Offer) (s : State) : RadioSide s (withdrawBid o s) := by
  unfold withdrawBid
  split
  · exact withdrawEntry_radio _ s
  · exact RadioSide.refl s

theorem hireBid_side (i : Nat) (o : Offer) (s : State) : DutySide s (hireBid i o s) := by
  have w := DutySide.of_radio (withdrawBid_radio o s)
  unfold hireBid
  simp only
  split
  · refine DutySide.trans ?_ (DutySide.setOffer _ _ _)
    split
    · exact DutySide.of_radio (updateEntry_radio _ _ s)
    · exact ⟨rfl, rfl⟩
  · split
    · exact w.trans (DutySide.closeOffer _ _ _ _ _)
    · exact (w.trans (DutySide.of_radio (offerRelease_radio _ _))).trans
        (DutySide.closeOffer _ _ _ _ _)

theorem settleJob_none {s : State} (h : findJob s = none) : settleJob s = (s, none) := by
  rw [settleJob, h]

theorem settleJob_awarded {s : State} {i : Nat} {o : Offer} (h : findJob s = some (i, o))
    (ha : o.state = .awarded) : settleJob s = (closeOffer i o .done .noneOffered s, some o.id) := by
  rw [settleJob, h]
  exact if_pos ha

theorem settleJob_bid {s : State} {i : Nat} {o : Offer} (h : findJob s = some (i, o))
    (ha : o.state ≠ .awarded) : settleJob s = (hireBid i o s, none) := by
  rw [settleJob, h]
  exact if_neg ha

theorem settleJob_offerId (s : State) : (settleJob s).2 =
    (findJob s).bind (fun p => if p.2.state = .awarded then some p.2.id else none) := by
  cases h : findJob s with
  | none => rw [settleJob_none h, Option.bind_none]
  | some p =>
    rw [Option.bind_some]
    by_cases ha : p.2.state = .awarded
    · rw [settleJob_awarded h ha, if_pos ha]
    · rw [settleJob_bid h ha, if_neg ha]

theorem settleJob_side (s : State) : DutySide s (settleJob s).1 := by
  cases h : findJob s with
  | none => rw [settleJob_none h]; exact ⟨rfl, rfl⟩
  | some p =>
    by_cases ha : p.2.state = .awarded
    · rw [settleJob_awarded h ha]; exact DutySide.closeOffer _ _ _ _ s
    · rw [settleJob_bid h ha]; exact hireBid_side _ _ s

/-! ### The duty after a change (R106, R107) -/

theorem dutyAfter_stays_busy {s : State} (h : effectiveDuty s = .busy) (tag : Half)
    (c : DutyCause) : dutyAfter .busy tag c s = closeOpen .superseded s := by
  simp [dutyAfter, h]

theorem dutyAfter_turns_busy {s : State} (h : effectiveDuty s = .busy) {before : Duty}
    (hb : before ≠ .busy) (tag : Half) (c : DutyCause) : dutyAfter before tag c s =
      closeOpen .superseded (produce tag (.dutyChanged s.offers.driverDuty .busy before c) s) := by
  simp [dutyAfter, h, hb.symm]

theorem effectiveDuty_not_busy {s : State} (h : effectiveDuty s ≠ .busy) :
    effectiveDuty s = s.offers.driverDuty :=
  if_neg fun hired => h (if_pos hired)

/-! ### A hiring (R7, R28, R120) -/

/-- The state in which a hiring reports: the job settled, the meter started and the trip open. -/
def hiringOpened (a : ActiveCopy) (s : State) : State :=
  openTrip (settleJob s).2 a ((settleJob s).1.setMeter (startHiring a (settleJob s).1.meter))

theorem hire_eq (a : ActiveCopy) (tag : Half) (s : State) : hire a tag s =
    tripTest (dutyAfter (effectiveDuty s) tag .meter
      (reportMeter 0x05 .vacant tag 0 0 0 (hiringOpened a s))) := rfl

theorem hire_quiet (a : ActiveCopy) (tag : Half) (s : State) :
    Quiet (hiringOpened a s) (placeHeld (hire a tag s)) :=
  (reportMeter_quiet _ _ _ _ _ _ _).trans ((dutyAfter_quiet _ _ _ _).trans
    ((tripTest_quiet _).trans (placeHeld_quiet _)))

theorem hiringOpened_meter (a : ActiveCopy) (s : State) :
    (hiringOpened a s).meter = startHiring a s.meter := by
  rw [hiringOpened, openTrip, State.setTrip_meter, State.setMeter_meter, (settleJob_quiet s).meter]

theorem hiringOpened_sets (a : ActiveCopy) (s : State) : hiringOpened a s =
    ((settleJob s).1.setMeter (hiringOpened a s).meter).setTrip { (settleJob s).1.trip with
      openTrip := (hiringOpened a s).trip.openTrip, next := (hiringOpened a s).trip.next } := rfl

theorem hiringOpened_next (a : ActiveCopy) (s : State) : (hiringOpened a s).trip.next =
    if s.trip.next = 4294967295 then 1 else s.trip.next + 1 := by
  have hn : (settleJob s).1.trip.next = s.trip.next := (settleJob_quiet s).next
  rw [hiringOpened, openTrip, State.setTrip_trip, State.setMeter_trip, hn]
  rfl

theorem hiringOpened_openTrip (a : ActiveCopy) (s : State) : (hiringOpened a s).trip.openTrip = some
    { number := s.trip.next, offerId := (settleJob s).2, start := s.clock, finish := 0,
      hiredPulses := 0, holdSecs := 0, fare := 0, extras := 0, total := 0, peak := 0,
      emergency := s.emerg.state ≠ .quiet, pulseFault := false, fareCap := false,
      unreported := false, truncated := false,
      segments := [{ slot := a.slot, version := a.tariff.version, steps := 0 }] } := by
  have hn : (settleJob s).1.trip.next = s.trip.next := (settleJob_quiet s).next
  have hc : (settleJob s).1.clock = s.clock := (settleJob_quiet s).clock
  have he : (settleJob s).1.emerg = s.emerg := (settleJob_side s).1
  simp only [hiringOpened, openTrip, State.setTrip_trip, State.setMeter_trip, State.setMeter_clock,
    State.setMeter_emerg, hn, hc, he]

theorem reportMeter_duty (c : Byte) (b : MeterState) (tag : Half) (x y z : Nat) (s : State) :
    effectiveDuty (reportMeter c b tag x y z s) = effectiveDuty s ∧
      (reportMeter c b tag x y z s).offers = s.offers := by
  rw [reportMeter, produce_eq, effectiveDuty]
  exact ⟨rfl, rfl⟩

/-- The fields of the recorder and of the rest of the device that a hiring leaves alone. -/
theorem hire_frame {a : ActiveCopy} {s t : State} (q : Quiet (hiringOpened a s) t) :
    t.trip.shift = s.trip.shift ∧ t.trip.logWrite = s.trip.logWrite ∧
      t.trip.logIndex = s.trip.logIndex ∧ t.clock = s.clock ∧
      t.settings.accepted = s.settings.accepted ∧ t.position = s.position ∧
      t.emerg.box = s.emerg.box ∧ MemorySideKept s t := by
  have j := settleJob_quiet s
  exact ⟨q.shift.trans j.shift, q.logWrite.trans j.logWrite, q.logIndex.trans j.logIndex,
    q.clock.trans j.clock, q.accepted.trans j.accepted, q.position.trans j.position,
    q.box.trans j.box, q.mem.trans j.mem, q.path.trans j.path, q.agent.trans j.agent,
    q.reader.trans j.reader⟩

theorem hiringOpened_busy (a : ActiveCopy) (s : State) : effectiveDuty (hiringOpened a s) = .busy :=
  effectiveDuty_busy (Or.inl (by rw [hiringOpened_meter, startHiring]; simp))

theorem hire_stays_busy (a : ActiveCopy) (tag : Half) {s : State} (h : effectiveDuty s = .busy) :
    hire a tag s = tripTest (closeOpen .superseded
      (reportMeter 0x05 .vacant tag 0 0 0 (hiringOpened a s))) := by
  rw [hire_eq, h, dutyAfter_stays_busy ((reportMeter_duty _ _ _ _ _ _ _).1.trans
    (hiringOpened_busy a s))]

theorem hire_turns_busy (a : ActiveCopy) (tag : Half) {s : State} (h : effectiveDuty s ≠ .busy) :
    hire a tag s = tripTest (closeOpen .superseded (produce tag
      (.dutyChanged s.offers.driverDuty .busy s.offers.driverDuty .meter)
      (reportMeter 0x05 .vacant tag 0 0 0 (hiringOpened a s)))) := by
  obtain ⟨hd, ho⟩ := reportMeter_duty 0x05 .vacant tag 0 0 0 (hiringOpened a s)
  have driver : (hiringOpened a s).offers.driverDuty = s.offers.driverDuty := (settleJob_side s).2
  rw [hire_eq, dutyAfter_turns_busy (hd.trans (hiringOpened_busy a s)) h, ho, driver,
    effectiveDuty_not_busy h]

/-- METER_STATE as a hiring reports it (R14). -/
theorem hire_report (a : ActiveCopy) (tag : Half) (s : State) :
    reportMeter 0x05 .vacant tag 0 0 0 (hiringOpened a s) = produce tag
      (.meterState 0x05 .vacant .hired (some a.slot) none a.tariff.flagDrop 0 0 0 0)
      (hiringOpened a s) := by
  rw [reportMeter, hiringOpened_meter]
  rfl

/-- Settles O17: the job, the meter and the trip in turn, then the two cases of the duty; a bid by where its BID stands. -/
theorem hireStartsTheHiringAndOpensTheTrip : Obligations.HireStartsTheHiringAndOpensTheTrip := by
  refine ⟨fun tag slot r s run hslot hs ht => ?_, fun i o s => ⟨fun plain sent => ?_,
    fun q hq h => ?_⟩⟩
  · let a : ActiveCopy := { slot := slot.toNat, tariff := r }
    obtain ⟨t, hw⟩ : ∃ t, t = placeHeld (hire a tag s) := ⟨_, rfl⟩
    have q : Quiet (hiringOpened a s) t := hw ▸ hire_quiet a tag s
    refine ⟨(settleJob s).1, reportMeter 0x05 .vacant tag 0 0 0 (hiringOpened a s), t, ?_,
      fun h => ?_, fun i o h => ⟨fun ha => ?_, fun ha => ?_⟩, ?_, ?_, ?_, ?_, fun busy => ?_,
      fun idle => ?_, hire_frame q⟩
    · rw [exec_meterHire run, reqHire_taken hslot hs ht, hw]
    · rw [settleJob_none h]
    · rw [settleJob_awarded h ha]
    · rw [settleJob_bid h ha]
    · rw [q.meter, hiringOpened_meter, startHiring]
    · rw [q.openTrip, hiringOpened_openTrip, settleJob_offerId]
    · rw [q.next, hiringOpened_next]
    · rw [q.meter, q.openTrip, q.next, ← hiringOpened_sets, hire_report]
    · rw [hw, hire_stays_busy a tag busy]
    · rw [hw, hire_turns_busy a tag idle]
  · refine ⟨withdrawBid o s, rfl, fun hp => hireBid_queued plain sent hp,
      fun hp => ⟨_, _, rfl, hireBid_sent plain sent hp⟩⟩
  · refine ⟨hireOutcome o.deferred, ?_, ?_, fun k => ?_, hireBid_deferred hq h⟩
    · rintro (k | k) <;> rw [k] <;> rfl
    · rintro (k | k) <;> rw [k] <;> rfl
    · rw [k]; rfl

end Sys2Proof.Machine

namespace Sys2Proof.Machine

/-! ### What reports and the duty leave alone in the trip recorder -/

/-- The backlog and the holdoff are those of s. -/
def BacklogSide (s t : State) : Prop :=
  t.trip.backlog = s.trip.backlog ∧ t.trip.holdoff = s.trip.holdoff

namespace BacklogSide

theorem refl (s : State) : BacklogSide s s := ⟨rfl, rfl⟩

theorem trans {s t u : State} (h : BacklogSide s t) (k : BacklogSide t u) : BacklogSide s u :=
  ⟨k.1.trans h.1, k.2.trans h.2⟩

theorem of_trip {s t : State} (h : t.trip = s.trip) : BacklogSide s t := by
  rw [BacklogSide, h]
  exact ⟨rfl, rfl⟩

theorem produce (tag : Half) (p : Payload) (s : State) : BacklogSide s (produce tag p s) := by
  refine of_trip ?_
  rw [produce_eq]
  rfl

theorem placeFrom (src : HeldSource) (s : State) : BacklogSide s (placeFrom src s) := by
  unfold Machine.placeFrom
  split
  case h_3 => split <;> exact ⟨rfl, rfl⟩
  case h_4 | h_5 => split <;> exact of_trip rfl
  case h_1 | h_2 =>
    split
    · split <;> exact of_trip rfl
    · exact of_trip rfl

theorem placeMany (n : Nat) (s : State) : BacklogSide s (placeMany n s) := by
  induction n generalizing s with
  | zero => exact refl s
  | succ n ih =>
    refine trans ?_ (ih _)
    unfold placeOne
    split
    · split
      · exact placeFrom _ s
      · exact refl s
    · exact refl s

theorem closeAll (r : ClosingReason) (l : List (Nat × Offer)) (s : State) :
    BacklogSide s (closeAll r l s) := by
  induction l generalizing s with
  | nil => exact refl s
  | cons x l ih => exact trans (of_trip rfl) (ih _)

theorem dutyAfter (b : Duty) (tag : Half) (c : DutyCause) (s : State) :
    BacklogSide s (dutyAfter b tag c s) := by
  unfold Machine.dutyAfter
  have told : BacklogSide s (if effectiveDuty s = b then s
      else Machine.produce tag (.dutyChanged s.offers.driverDuty (effectiveDuty s) b c) s) := by
    split
    · exact refl s
    · exact produce _ _ s
  simp only
  split
  · exact told
  · exact told.trans (closeAll _ _ _)

end BacklogSide

/-! ### Tasks for the agent (R165) -/

theorem beginTask_sets (s : State) : ∃ a, beginTask s = s.setAgent a := by
  unfold beginTask
  split
  · split
    · split
      · exact ⟨_, rfl⟩
      · exact ⟨s.agent, rfl⟩
    · exact ⟨s.agent, rfl⟩
  · exact ⟨s.agent, rfl⟩

theorem requestTask_sets (k : TaskKind) (s : State) : ∃ a, requestTask k s = s.setAgent a := by
  unfold requestTask
  split
  · exact ⟨s.agent, rfl⟩
  · obtain ⟨a, h⟩ := beginTask_sets (s.setAgent { s.agent with
      tasks := s.agent.tasks ++ [{ kind := k, words := none, bytes := [], number := 0 }] })
    exact ⟨a, h⟩

/-- Beginning the first task leaves the kinds of the list as they are. -/
theorem taskListed_beginTask (k : TaskKind) (s : State) :
    taskListed k (beginTask s) = taskListed k s := by
  unfold beginTask
  split
  · split
    · rename_i x xs e
      split
      · simp only [taskListed, State.setAgent_agent, e, List.any_cons]
      · rfl
    · rfl
  · rfl

theorem taskListed_requestTask {k : TaskKind} (same : k.same k = true) (s : State) :
    taskListed k (requestTask k s) = true := by
  unfold requestTask
  split
  · assumption
  · rw [taskListed_beginTask]
    simp only [taskListed, State.setAgent_agent, List.any_append, List.any_cons, same,
      Bool.true_or, Bool.or_true]

/-! ### The close of a trip (R12, R31) -/

/-- The record of trip r as a clear closes it. -/
def closedAs (s : State) (r : TripRecord) : TripRecord := markUnreported s (closedRecord s r)

/-- The recorder with trip r closed, before its log write is asked for and its report held. -/
def tripClosed (s : State) (r : TripRecord) : State :=
  s.setTrip { s.trip with
    backlog := backlogWith (closedAs s r) s.trip.backlog,
    shift := s.trip.shift.addTrip (closedAs s r), logWrite := some (closedAs s r),
    openTrip := none }

theorem closeTrip_open {s : State} {r : TripRecord} (h : s.trip.openTrip = some r) (tag : Half) :
    closeTrip tag s = addTripReport tag
      (tripClosedPayload (closedAs s r) (tripClosed s r).trip.backlog.length)
      (requestTripLog (tripClosed s r)) := by
  rw [closeTrip, h]
  rfl

theorem closedAs_eq (s : State) (r : TripRecord) : closedAs s r = { r with
    finish := s.clock, fare := s.meter.fare, extras := s.meter.extras,
    total := s.meter.fare + s.meter.extras, hiredPulses := s.meter.hiredPulses,
    holdSecs := s.meter.holdSecs, peak := s.meter.peak, fareCap := s.meter.fareCap,
    unreported := decide (16 ≤ s.trip.backlog.length) } := rfl

theorem tripClosed_eq (s : State) (r : TripRecord) : tripClosed s r = s.setTrip { s.trip with
    openTrip := none, logWrite := some (closedAs s r),
    backlog := (if 16 ≤ s.trip.backlog.length then s.trip.backlog
      else s.trip.backlog ++ [closedAs s r]),
    shift := { s.trip.shift with
      trips := min (s.trip.shift.trips + 1) 4294967295,
      fareTotal := s.trip.shift.fareTotal + s.meter.fare,
      extrasTotal := s.trip.shift.extrasTotal + s.meter.extras,
      hiredPulses := min (s.trip.shift.hiredPulses + s.meter.hiredPulses) 4294967295,
      unreported := if 16 ≤ s.trip.backlog.length
        then min (s.trip.shift.unreported + 1) 4294967295 else s.trip.shift.unreported } } := by
  simp only [tripClosed, backlogWith, Shift.addTrip, closedAs_eq, decide_eq_true_eq, satAdd_eq,
    Config.max32]

/-- The state in which a clear reports: the trip closed, TRIP_CLOSED held and the meter VACANT. -/
def hiringCleared (tag : Half) (s : State) : State :=
  (closeTrip tag s).setMeter (vacate (closeTrip tag s).meter)

theorem clearHiring_eq {s : State} (h : s.meter.state = .hold) (tag : Half) :
    clearHiring tag s = tripTest (dutyAfter .busy tag .meter
      (reportMeter 0x09 .hold tag 0 0 0 (hiringCleared tag s))) := by
  rw [clearHiring, effectiveDuty_busy (Or.inl (by rw [h]; decide))]
  rfl

theorem clearHiring_quiet {s : State} (h : s.meter.state = .hold) (tag : Half) :
    Quiet (hiringCleared tag s) (placeHeld (clearHiring tag s)) := by
  rw [clearHiring_eq h]
  exact (reportMeter_quiet _ _ _ _ _ _ _).trans ((dutyAfter_quiet _ _ _ _).trans
    ((tripTest_quiet _).trans (placeHeld_quiet _)))

theorem clearHiring_backlog {s : State} (h : s.meter.state = .hold) (tag : Half) :
    BacklogSide (hiringCleared tag s) (placeHeld (clearHiring tag s)) := by
  rw [clearHiring_eq h]
  exact (BacklogSide.produce _ _ _).trans ((BacklogSide.dutyAfter _ _ _ _).trans
    ((BacklogSide.of_trip (tripTest_radio _).trip).trans (BacklogSide.placeMany _ _)))

theorem clear_report (tag : Half) (s : State) :
    reportMeter 0x09 .hold tag 0 0 0 (hiringCleared tag s) = produce tag
      (.meterState 0x09 .hold .vacant none none 0 0 0 0 0) (hiringCleared tag s) := rfl

theorem requestTripLog_ready {s : State} (run : s.phase = .running) (h : s.agent.initial = .done) :
    requestTripLog s = requestTask .tripLog s := if_pos ⟨run, h⟩

theorem requestTripLog_waits {s : State} (h : s.agent.initial ≠ .done) : requestTripLog s = s :=
  if_neg fun k => h k.2

theorem requestTripLog_sets (s : State) : ∃ a, requestTripLog s = s.setAgent a := by
  unfold requestTripLog
  split
  · exact requestTask_sets _ s
  · exact ⟨s.agent, rfl⟩

/-- TRIP_CLOSED joins the pending list and is counted; the meter is VACANT. -/
theorem hiringCleared_eq {s : State} {r : TripRecord} (h : s.trip.openTrip = some r) (tag : Half)
    {v : State} (hv : v = requestTripLog (tripClosed s r)) : hiringCleared tag s =
      ((v.setTrip { v.trip with
        reports := s.trip.reports ++ [{ order := s.book.produced, event :=
          { tag := tag, time := s.clock, payload := tripClosedPayload (closedAs s r)
              (tripClosed s r).trip.backlog.length } }] }).setBook
        { s.book with produced := s.book.produced + 1 }).setMeter (vacate s.meter) := by
  obtain ⟨a, ha⟩ := requestTripLog_sets (tripClosed s r)
  rw [hiringCleared, closeTrip_open h, hv, ha]
  rfl

/-- The recorder of tripClosed with its report held; the rest of the device is that of s. -/
theorem clear_frame {s : State} {r : TripRecord} (hs : s.meter.state = .hold)
    (hr : s.trip.openTrip = some r) {tag : Half} {t : State} (ht : t = placeHeld (clearHiring tag s)) :
    t.trip.openTrip = none ∧ t.trip.logWrite = some (closedAs s r) ∧ t.trip.next = s.trip.next ∧
      t.trip.shift = (tripClosed s r).trip.shift ∧
      t.trip.backlog = (tripClosed s r).trip.backlog ∧ t.trip.logIndex = s.trip.logIndex ∧
      t.trip.holdoff = s.trip.holdoff ∧ t.mem = s.mem ∧ t.path = s.path ∧ t.reader = s.reader ∧
      t.clock = s.clock ∧ t.settings.accepted = s.settings.accepted ∧ t.position = s.position ∧
      t.emerg.box = s.emerg.box := by
  have q : Quiet (hiringCleared tag s) t := ht ▸ clearHiring_quiet hs tag
  have k : BacklogSide (hiringCleared tag s) t := ht ▸ clearHiring_backlog hs tag
  obtain ⟨a, ha⟩ := requestTripLog_sets (tripClosed s r)
  rw [hiringCleared_eq hr tag ha.symm] at q k
  exact ⟨q.openTrip, q.logWrite, q.next, q.shift, k.1, q.logIndex, k.2, q.mem, q.path, q.reader,
    q.clock, q.accepted, q.position, q.box⟩

/-- Settles O18: the states of the clear in turn, and what the reports that follow leave alone. -/
theorem clearClosesTheTrip : Obligations.ClearClosesTheTrip := by
  intro tag r s run hs hr
  obtain ⟨v, hv⟩ : ∃ v, v = requestTripLog (tripClosed s r) := ⟨_, rfl⟩
  obtain ⟨t, ht⟩ : ∃ t, t = placeHeld (clearHiring tag s) := ⟨_, rfl⟩
  have q : Quiet (hiringCleared tag s) t := ht ▸ clearHiring_quiet hs tag
  have logged : s.agent.initial = .done → v = requestTask .tripLog (tripClosed s r) :=
    fun ready => hv.trans (requestTripLog_ready run ready)
  refine ⟨t, tripClosed s r, v, hiringCleared tag s, closedAs s r, ?_, closedAs_eq s r,
    tripClosed_eq s r, logged, fun waits => hv.trans (requestTripLog_waits waits),
    hiringCleared_eq hr tag hv, ?_, fun ready => ?_, q.meter, clear_frame hs hr ht⟩
  · rw [exec_meterClear run, reqClear, if_pos hs, ht]
  · rw [ht, clearHiring_eq hs, clear_report]
  · have listed : taskListed .tripLog v = true := by
      rw [logged ready]
      exact taskListed_requestTask rfl _
    rw [taskListed, q.agent, hiringCleared_eq hr tag hv]
    exact listed

end Sys2Proof.Machine

namespace Sys2Proof.Machine

/-! ### SHIFT_CLOSE (R40) -/

theorem exec_shiftClose {s : State} (run : s.phase = .running) (tag : Half) :
    exec (.shiftClose tag) s = .next (reqShiftClose tag s) :=
  congrArg Host.Outcome.next (whenRunning_running run)

theorem reqShiftClose_taken {s : State} (h : s.meter.state = .vacant) (tag : Half) :
    reqShiftClose tag s = placeHeld (closeShift tag s) := if_pos h

theorem reqShiftClose_wrongState {s : State} (h : s.meter.state ≠ .vacant) (tag : Half) :
    reqShiftClose tag s = produce tag (.refused 0x0B .wrongState) s := if_neg h

/-- SHIFT_CLOSED joins the pending list with the totals as they stood, and the totals restart. -/
theorem closeShift_eq (tag : Half) (s : State) : closeShift tag s = (s.setTrip { s.trip with
    reports := s.trip.reports ++ [{ order := s.book.produced, event :=
      { tag := tag, time := s.clock, payload := .shiftClosed s.trip.shift s.clock } }],
    shift := { trips := 0, fareTotal := 0, extrasTotal := 0, hiredPulses := 0, totalPulses := 0,
               rejectedPulses := 0, unreported := 0, start := s.clock } }).setBook
      { s.book with produced := s.book.produced + 1 } := rfl

/-- Placing the held reports takes reports off the trip recorder's list and changes nothing else of it. -/
theorem placeHeld_trip (s : State) :
    (placeHeld s).trip = { s.trip with reports := (placeHeld s).trip.reports } := by
  have q := placeHeld_quiet s
  obtain ⟨backlog, holdoff⟩ : BacklogSide s (placeHeld s) := BacklogSide.placeMany _ s
  simp only [← q.next, ← q.openTrip, ← q.logWrite, ← q.logIndex, ← q.shift, ← backlog, ← holdoff]

theorem produce_trip (tag : Half) (p : Payload) (s : State) : (produce tag p s).trip = s.trip := by
  rw [produce_eq]
  rfl

/-- SHIFT_CLOSE carries no parameters (R181). -/
theorem lengthAgrees_shiftClose (ps : List Byte) : lengthAgrees 0x0B ps = true ↔ ps = [] := by
  simp [lengthAgrees]

/-- Settles O19: taken in VACANT and refused elsewhere; the reports placed leave the rest of the recorder as the close left it. -/
theorem shiftCloseRestartsTheTotals : Obligations.ShiftCloseRestartsTheTotals := by
  intro tag s run
  refine ⟨fun vacant => ?_, fun busy => ⟨?_, produce_trip _ _ s⟩, lengthAgrees_shiftClose⟩
  · refine ⟨placeHeld (closeShift tag s), closeShift tag s, ?_, closeShift_eq tag s, rfl,
      placeHeld_trip _, (placeHeld_quiet _).meter⟩
    rw [exec_shiftClose run, reqShiftClose_taken vacant]
  · rw [exec_shiftClose run, reqShiftClose_wrongState busy]

/-! ### The TRIP entry and the end of the holdoff (R34, R36) -/

theorem exec_tripEnqueue (s : State) : exec .tripEnqueue s = .next (tripTest s) := rfl

theorem exec_holdoffEnd (s : State) : exec .holdoffEnd s =
    .next (atTickOr (·.trip.holdoff) holdoffEnd justReleased spareRelease s) := rfl

theorem linkDown_iff (s : State) :
    linkDown s = true ↔ s.link.state = .offline ∨ s.link.state = .failed := by
  simp only [linkDown, Bool.or_eq_true, decide_eq_true_eq]

theorem linkDown_false_iff (s : State) :
    linkDown s = false ↔ s.link.state ≠ .offline ∧ s.link.state ≠ .failed := by
  rw [← Bool.not_eq_true, linkDown_iff, not_or]

/-- R34 holds for the oldest trip: its entry is offered. -/
theorem tripTest_offers {s : State} {r : TripRecord} {rest : List TripRecord}
    (oldest : s.trip.backlog = r :: rest) (run : s.phase = .running)
    (queued : countClass .trip s.uplink.entries = 0) (room : s.uplink.entries.length < 12)
    (stopped : s.trip.holdoff = none) (up : linkDown s = false) :
    tripTest s = (offerEntry .trip r.airImage false false (.trip r.number) s).1 := by
  rw [tripTest, oldest]
  exact if_pos ⟨run, queued, room, stopped, up⟩

/-- One condition of R34 fails: nothing is offered. -/
theorem tripTest_waits {s : State} (h : s.trip.backlog = [] ∨ s.phase ≠ .running ∨
    countClass .trip s.uplink.entries ≠ 0 ∨ 12 ≤ s.uplink.entries.length ∨
    s.trip.holdoff ≠ none ∨ linkDown s = true) : tripTest s = s := by
  unfold tripTest
  split
  · rename_i r rest oldest
    refine if_neg ?_
    rintro ⟨run, queued, room, stopped, up⟩
    rcases h with h | h | h | h | h | h
    · rw [oldest] at h
      cases h
    · exact h run
    · exact h queued
    · exact Nat.not_lt.2 h room
    · exact h stopped
    · rw [up] at h
      cases h
  · rfl

theorem openTick_holdoff_none {s : State} (h : s.trip.holdoff = none) :
    (openTick s).trip.holdoff = none := by
  cases c : s.book.counted with
  | true => rw [openTick_counted c, h]
  | false => rw [openTick_eq c]; simp [h, countDown]

theorem justReleased_iff (s : State) :
    justReleased s = true ↔ s.phase = .running ∧ s.trip.holdoff = some 60 := by
  simp only [justReleased, Bool.and_eq_true, beq_iff_eq, Config.holdoffSeconds]

theorem exec_holdoffEnd_stopped {s : State} (h : s.trip.holdoff = none) :
    exec .holdoffEnd s = .next s := by
  have idle : justReleased s = false := by
    rw [← Bool.not_eq_true, justReleased_iff, h]
    exact fun ⟨_, k⟩ => nomatch k
  rw [exec_holdoffEnd, atTickOr_early (by rw [openTick_holdoff_none h]; exact nofun) idle]

/-- Settles O20: R34's conditions and their failures, then the end of the holdoff by the tick at hand. -/
theorem tripEntryFollowsTheBacklogTest : Obligations.TripEntryFollowsTheBacklogTest := by
  intro s
  refine ⟨fun r rest oldest run queued room stopped notOffline notFailed => ?_, fun h => ?_,
    ?_, exec_holdoffEnd_stopped⟩
  · rw [exec_tripEnqueue, tripTest_offers oldest run queued room stopped
      ((linkDown_false_iff s).2 ⟨notOffline, notFailed⟩)]
  · rw [← linkDown_iff] at h
    rw [exec_tripEnqueue, tripTest_waits h]
  · rintro u rfl
    refine ⟨fun due => ?_, fun early idle => ?_, fun early released => ?_⟩
    · rw [exec_holdoffEnd, atTickOr_due due]
      rfl
    · rw [exec_holdoffEnd, atTickOr_early early idle]
    · rw [exec_holdoffEnd, atTickOr_taken early released]

end Sys2Proof.Machine

namespace Sys2Proof.Machine

/-! ### The timers that run out at a tick (log entry 15) -/

theorem exec_secondTick_fullReset {s : State} (h : s.phase = .fullReset) :
    exec .secondTick s = .next s := congrArg Host.Outcome.next (if_pos h)

/-- The windows end in the order of their entries. -/
theorem endWindows_eq_foldl (n : Nat) (s : State) : endWindows n s = (List.range n).foldl
    (fun x i => if remainingOf i x = some 0 then windowEnd i x else x) s := by
  induction n with
  | zero => rfl
  | succ n ih =>
    rw [List.range_succ, List.foldl_append, ← ih]
    rfl

theorem endDwell_passed {s : State} {n : Nat} (clock : s.link.clock = some n)
    (contend : s.link.state = .contend) (past : s.settings.accepted.dwell < n)
    (first : s.link.dwellPassed = false) : endDwell s = dwellEnd s := by
  rw [endDwell, clock]
  exact if_pos ⟨contend, past, first⟩

theorem endDwell_waits {s : State} (h : s.link.clock = none ∨ s.link.state ≠ .contend ∨
    s.link.dwellPassed = true ∨
    ∃ n, s.link.clock = some n ∧ n ≤ s.settings.accepted.dwell) : endDwell s = s := by
  unfold endDwell
  split
  · rename_i n clock
    refine if_neg ?_
    rintro ⟨contend, past, first⟩
    rcases h with h | h | h | ⟨m, h, waits⟩
    · rw [clock] at h
      cases h
    · exact h contend
    · rw [first] at h
      cases h
    · rw [clock] at h
      cases h
      exact Nat.not_lt.2 waits past
  · rfl

theorem repeatLeft_iff (s : State) : repeatLeft s = some 0 ↔
    s.emerg.state = .calling ∧ s.emerg.repeatTimer = some 0 := Option.ite_none_right_eq_some

theorem cooldownLeft_iff (s : State) : cooldownLeft s = some 0 ↔
    s.emerg.state = .cooldown ∧ s.emerg.cooldownTimer = some 0 := Option.ite_none_right_eq_some

theorem trackLeft_iff (s : State) : trackLeft s = some 0 ↔
    s.emerg.state = .tracking ∧ s.emerg.trackTimer = some 0 := Option.ite_none_right_eq_some

theorem readyLeft_iff (s : State) : readyLeft s = some 0 ↔
    (s.link.state = .powerOnWait ∧ s.pins.rdy = false) ∧ s.sup.ready = some 0 :=
  Option.ite_none_right_eq_some

theorem stuckBusyLeft_iff (s : State) : stuckBusyLeft s = some 0 ↔
    (receiving s.link.state = true ∧ s.pins.cd = true) ∧ s.sup.stuckBusy = some 0 :=
  Option.ite_none_right_eq_some

/-- The ends of a tick one after another, in the model's order. -/
theorem endTimers_chain (s : State) : ∃ a b c d e f g h i j k : State,
    a = (if s.sup.healthy = some 0 then healthyEnd s else s) ∧
    b = (if a.sup.stuckBusy = some 0 then stuckBusyEnd a else a) ∧
    c = (if b.sup.ready = some 0 then readyEnd b else b) ∧
    d = (if c.sup.powerOff = some 0 then powerOffEnd c else c) ∧
    e = endWindows 8 d ∧
    f = (if awardRemaining e = some 0 then awardWaitEnd e else e) ∧
    g = (if f.trip.holdoff = some 0 then holdoffEnd f else f) ∧ h = endDwell g ∧
    i = (if repeatLeft h = some 0 then repeatEnd h else h) ∧
    j = (if cooldownLeft i = some 0 then nextRound i else i) ∧
    k = (if trackLeft j = some 0 then trackNow j else j) ∧
    endTimers s = (if k.emerg.graceTimer = some 0 then graceEnd k else k) := by
  obtain ⟨a, ha⟩ : ∃ a, a = whenDue (·.sup.healthy) healthyEnd s := ⟨_, rfl⟩
  obtain ⟨b, hb⟩ : ∃ b, b = whenDue (·.sup.stuckBusy) stuckBusyEnd a := ⟨_, rfl⟩
  obtain ⟨c, hc⟩ : ∃ c, c = whenDue (·.sup.ready) readyEnd b := ⟨_, rfl⟩
  obtain ⟨d, hd⟩ : ∃ d, d = whenDue (·.sup.powerOff) powerOffEnd c := ⟨_, rfl⟩
  obtain ⟨e, he⟩ : ∃ e, e = endWindows 8 d := ⟨_, rfl⟩
  obtain ⟨f, hf⟩ : ∃ f, f = whenDue awardRemaining awardWaitEnd e := ⟨_, rfl⟩
  obtain ⟨g, hg⟩ : ∃ g, g = whenDue (·.trip.holdoff) holdoffEnd f := ⟨_, rfl⟩
  obtain ⟨h, hh⟩ : ∃ h, h = endDwell g := ⟨_, rfl⟩
  obtain ⟨i, hi⟩ : ∃ i, i = whenDue repeatLeft repeatEnd h := ⟨_, rfl⟩
  obtain ⟨j, hj⟩ : ∃ j, j = whenDue cooldownLeft nextRound i := ⟨_, rfl⟩
  obtain ⟨k, hk⟩ : ∃ k, k = whenDue trackLeft trackNow j := ⟨_, rfl⟩
  refine ⟨a, b, c, d, e, f, g, h, i, j, k, ha, hb, hc, hd, he, hf, hg, hh, hi, hj, hk, ?_⟩
  have size : Config.tableSize = 8 := rfl
  rw [endTimers, endEmerg, endAward, endSup, size, ← ha, ← hb, ← hc, ← hd, ← he, ← hf, ← hg, ← hh,
    ← hi, ← hj, ← hk, whenDue]

/-! ### The rows that name a timer's end (log entry 4) -/

theorem receiving_iff (l : LinkState) : receiving l = true ↔ l = .listen ∨ l = .contend := by
  cases l <;> decide

theorem justRestarted_iff (s : State) : justRestarted s = true ↔
    (s.link.state = .powerOnWait ∧ s.sup.ready = some 5) ∨
      (channelAccess s.link.state = true ∧ s.sup.healthy = some 60) := by
  simp only [justRestarted, Bool.or_eq_true, Bool.and_eq_true, beq_iff_eq, Config.readySeconds,
    Config.healthySeconds]

theorem justCycled_iff (s : State) : justCycled s = true ↔
    s.link.state = .powerOff ∧ s.sup.powerOff = some s.settings.accepted.powerOffTime := by
  simp only [justCycled, Bool.and_eq_true, beq_iff_eq]

theorem justWatched_iff (s : State) : justWatched s = true ↔ justCycled s = true ∨
    ((s.link.state = .listen ∨ s.link.state = .contend) ∧ s.pins.cd = true ∧
      s.sup.stuckBusy = some s.settings.accepted.busyLimit) := by
  simp only [justWatched, Bool.or_eq_true, Bool.and_eq_true, beq_iff_eq, receiving_iff, and_assoc]

theorem justRaised_iff (s : State) : justRaised s = true ↔ s.emerg.state = .calling ∧
    s.emerg.attempt = 1 ∧ s.emerg.repeatTimer = some s.settings.accepted.repeatInterval := by
  simp only [justRaised, Bool.and_eq_true, beq_iff_eq, and_assoc]

theorem justAnswered_iff (s : State) : justAnswered s = true ↔ s.emerg.state = .tracking ∧
    s.emerg.trackTimer = some s.settings.accepted.trackInterval := by
  simp only [justAnswered, Bool.and_eq_true, beq_iff_eq]

theorem openTick_pins (s : State) : (openTick s).pins = s.pins := by
  obtain ⟨-, -, -, -, -, -, -, -, -, -, -, -, -, -, -, pins, -⟩ := openTick_same s
  exact pins

theorem openTick_ready (s : State) : (openTick s).sup.ready = s.sup.ready ∨
    (openTick s).sup.ready = countDown s.sup.ready := by
  cases c : s.book.counted with
  | true => exact Or.inl (by rw [openTick_counted c])
  | false => exact Or.inr (by rw [openTick_eq c]; rfl)

/-- A ready timer just started, or a channel already accessed, has no end of the ready timer at this tick. -/
theorem readyLeft_restarted {s : State} (h : justRestarted s = true) :
    readyLeft (openTick s) ≠ some 0 := by
  obtain ⟨-, -, -, link⟩ := openTick_states s
  rw [Ne, readyLeft_iff, link]
  rintro ⟨⟨waits, -⟩, out⟩
  rcases (justRestarted_iff s).1 h with ⟨-, ready⟩ | ⟨access, -⟩
  · rcases openTick_ready s with e | e <;> rw [e, ready] at out <;> cases out
  · rw [waits] at access
    cases access

/-- In TRACKING no repeat timer ends. -/
theorem repeatLeft_answered {s : State} (h : justAnswered s = true) :
    repeatLeft (openTick s) ≠ some 0 := by
  obtain ⟨-, -, state, -⟩ := openTick_states s
  rw [Ne, repeatLeft_iff, state, ((justAnswered_iff s).1 h).1]
  exact fun k => nomatch k.1

/-- In TRACKING no cooldown ends. -/
theorem cooldownLeft_answered {s : State} (h : justAnswered s = true) :
    cooldownLeft (openTick s) ≠ some 0 := by
  obtain ⟨-, -, state, -⟩ := openTick_states s
  rw [Ne, cooldownLeft_iff, state, ((justAnswered_iff s).1 h).1]
  exact fun k => nomatch k.1

theorem whenRunning_same {f : State → State} {s : State} (h : f s = s) : whenRunning f s = s := by
  rw [whenRunning, h, ite_self]

theorem exec_healthyTimerEnd (s : State) : exec .healthyTimerEnd s =
    .next (atTickOr (·.sup.healthy) healthyEnd justCycled spareSup s) := rfl

theorem exec_stuckBusyTimerEnd (s : State) : exec .stuckBusyTimerEnd s =
    .next (atTickOr stuckBusyLeft stuckBusyEnd justWatched spareSup s) := rfl

theorem exec_readyTimerEnd (s : State) : exec .readyTimerEnd s =
    .next (atTickOr readyLeft readyEnd justRestarted spareSup s) := rfl

theorem exec_graceTimerEnd (s : State) : exec .graceTimerEnd s =
    .next (atTickOr (·.emerg.graceTimer) graceEnd justRaised spareRaise s) := rfl

theorem exec_offerWindowEnd {s : State} (run : s.phase = .running) (i : Fin 8) :
    exec (.offerWindowEnd i) s = .next (atTickOr (remainingOf i.val)
      (fun t => placeHeld (windowEnd i.val t)) justRaised spareRaise s) :=
  congrArg Host.Outcome.next (whenRunning_running run)

theorem exec_awardWaitEnd {s : State} (run : s.phase = .running) : exec .awardWaitEnd s =
    .next (atTick awardRemaining (fun t => placeHeld (awardWaitEnd t)) s) :=
  congrArg Host.Outcome.next (whenRunning_running run)

theorem exec_repeatTimerEnd {s : State} (run : s.phase = .running) : exec .repeatTimerEnd s =
    .next (atTickOr repeatLeft (fun t => placeHeld (repeatEnd t)) justAnswered spareCall s) :=
  congrArg Host.Outcome.next (whenRunning_running run)

theorem exec_cooldownEnd {s : State} (run : s.phase = .running) : exec .cooldownEnd s =
    .next (atTickOr cooldownLeft (fun t => placeHeld (nextRound t)) justAnswered spareCall s) :=
  congrArg Host.Outcome.next (whenRunning_running run)

theorem exec_trackingTimerEnd {s : State} (run : s.phase = .running) : exec .trackingTimerEnd s =
    .next (atTick trackLeft (fun t => placeHeld (trackNow t)) s) :=
  congrArg Host.Outcome.next (whenRunning_running run)

theorem exec_powerOffTimerEnd {s : State} (off : s.link.state = .powerOff) :
    exec .powerOffTimerEnd s = .next (atTick (·.sup.powerOff) powerOffEnd s) :=
  congrArg Host.Outcome.next (if_pos off)

/-- Each row ends its timer where the count of the tick at hand leaves it at 0. -/
theorem endRows_due {s u : State} (hu : u = openTick s) (run : s.phase = .running) :
    (u.sup.healthy = some 0 → exec .healthyTimerEnd s = .next (healthyEnd u)) ∧
    (u.sup.stuckBusy = some 0 → s.link.state = .listen ∨ s.link.state = .contend →
      s.pins.cd = true → exec .stuckBusyTimerEnd s = .next (stuckBusyEnd u)) ∧
    (u.sup.ready = some 0 → s.link.state = .powerOnWait → s.pins.rdy = false →
      exec .readyTimerEnd s = .next (readyEnd u)) ∧
    (u.sup.powerOff = some 0 → s.link.state = .powerOff →
      exec .powerOffTimerEnd s = .next (powerOffEnd u)) ∧
    (∀ i : Fin 8, remainingOf i.val u = some 0 →
      exec (.offerWindowEnd i) s = .next (placeHeld (windowEnd i.val u))) ∧
    (awardRemaining u = some 0 → exec .awardWaitEnd s = .next (placeHeld (awardWaitEnd u))) ∧
    (u.trip.holdoff = some 0 → exec .holdoffEnd s = .next (holdoffEnd u)) ∧
    (u.emerg.repeatTimer = some 0 → s.emerg.state = .calling →
      exec .repeatTimerEnd s = .next (placeHeld (repeatEnd u))) ∧
    (u.emerg.cooldownTimer = some 0 → s.emerg.state = .cooldown →
      exec .cooldownEnd s = .next (placeHeld (nextRound u))) ∧
    (u.emerg.trackTimer = some 0 → s.emerg.state = .tracking →
      exec .trackingTimerEnd s = .next (placeHeld (trackNow u))) ∧
    (u.emerg.graceTimer = some 0 → exec .graceTimerEnd s = .next (graceEnd u)) := by
  subst hu
  obtain ⟨-, -, state, link⟩ := openTick_states s
  have pins := openTick_pins s
  refine ⟨fun h => ?_, fun h st cd => ?_, fun h st rdy => ?_, fun h off => ?_, fun i h => ?_,
    fun h => ?_, fun h => ?_, fun h st => ?_, fun h st => ?_, fun h st => ?_, fun h => ?_⟩
  · rw [exec_healthyTimerEnd, atTickOr_due h]
  · rw [exec_stuckBusyTimerEnd, atTickOr_due ((stuckBusyLeft_iff _).2 ⟨⟨?_, pins ▸ cd⟩, h⟩)]
    rw [link, receiving_iff]
    exact st
  · rw [exec_readyTimerEnd, atTickOr_due ((readyLeft_iff _).2 ⟨⟨link.trans st, pins ▸ rdy⟩, h⟩)]
  · rw [exec_powerOffTimerEnd off, atTick_due h]
  · rw [exec_offerWindowEnd run, atTickOr_due h]
  · rw [exec_awardWaitEnd run, atTick_due h]
  · rw [exec_holdoffEnd, atTickOr_due h]
  · rw [exec_repeatTimerEnd run, atTickOr_due ((repeatLeft_iff _).2 ⟨state.trans st, h⟩)]
  · rw [exec_cooldownEnd run, atTickOr_due ((cooldownLeft_iff _).2 ⟨state.trans st, h⟩)]
  · rw [exec_trackingTimerEnd run, atTick_due ((trackLeft_iff _).2 ⟨state.trans st, h⟩)]
  · rw [exec_graceTimerEnd, atTickOr_due h]

/-- A row whose timer the tick at hand does not end, no arrival of that tick seen, changes nothing. -/
theorem endRows_early {s u : State} (hu : u = openTick s) :
    (u.sup.healthy ≠ some 0 → justCycled s = false → exec .healthyTimerEnd s = .next s) ∧
    (u.sup.stuckBusy ≠ some 0 → justWatched s = false → exec .stuckBusyTimerEnd s = .next s) ∧
    (u.sup.ready ≠ some 0 → justRestarted s = false → exec .readyTimerEnd s = .next s) ∧
    (u.sup.powerOff ≠ some 0 → exec .powerOffTimerEnd s = .next s) ∧
    (∀ i : Fin 8, remainingOf i.val u ≠ some 0 → justRaised s = false →
      exec (.offerWindowEnd i) s = .next s) ∧
    (awardRemaining u ≠ some 0 → exec .awardWaitEnd s = .next s) ∧
    (u.trip.holdoff ≠ some 0 → justReleased s = false → exec .holdoffEnd s = .next s) ∧
    (u.emerg.repeatTimer ≠ some 0 → justAnswered s = false → exec .repeatTimerEnd s = .next s) ∧
    (u.emerg.cooldownTimer ≠ some 0 → justAnswered s = false → exec .cooldownEnd s = .next s) ∧
    (u.emerg.trackTimer ≠ some 0 → exec .trackingTimerEnd s = .next s) ∧
    (u.emerg.graceTimer ≠ some 0 → justRaised s = false → exec .graceTimerEnd s = .next s) := by
  subst hu
  refine ⟨fun h k => ?_, fun h k => ?_, fun h k => ?_, fun h => ?_, fun i h k => ?_, fun h => ?_,
    fun h k => ?_, fun h k => ?_, fun h k => ?_, fun h => ?_, fun h k => ?_⟩
  · rw [exec_healthyTimerEnd, atTickOr_early h k]
  · rw [exec_stuckBusyTimerEnd, atTickOr_early (fun e => h ((stuckBusyLeft_iff _).1 e).2) k]
  · rw [exec_readyTimerEnd, atTickOr_early (fun e => h ((readyLeft_iff _).1 e).2) k]
  · refine congrArg Host.Outcome.next ?_
    rw [atTick_early h, ite_self]
  · exact congrArg Host.Outcome.next (whenRunning_same (atTickOr_early h k))
  · exact congrArg Host.Outcome.next (whenRunning_same (atTick_early h))
  · rw [exec_holdoffEnd, atTickOr_early h k]
  · exact congrArg Host.Outcome.next (whenRunning_same
      (atTickOr_early (fun e => h ((repeatLeft_iff _).1 e).2) k))
  · exact congrArg Host.Outcome.next (whenRunning_same
      (atTickOr_early (fun e => h ((cooldownLeft_iff _).1 e).2) k))
  · exact congrArg Host.Outcome.next (whenRunning_same (atTick_early (fun e => h ((trackLeft_iff _).1 e).2)))
  · rw [exec_graceTimerEnd, atTickOr_early h k]

/-- A row that an arrival of the same tick came before begins the tick, with what that arrival started spared. -/
theorem endRows_taken {s u : State} (hu : u = openTick s) :
    (justRestarted s = true → exec .readyTimerEnd s = .next (spareSup s u)) ∧
    (u.sup.healthy ≠ some 0 → justCycled s = true →
      exec .healthyTimerEnd s = .next (spareSup s u)) ∧
    (u.sup.stuckBusy ≠ some 0 → justWatched s = true →
      exec .stuckBusyTimerEnd s = .next (spareSup s u)) ∧
    (∀ i : Fin 8, remainingOf i.val u ≠ some 0 → justRaised s = true → s.phase = .running →
      exec (.offerWindowEnd i) s = .next (spareRaise s u)) ∧
    (u.trip.holdoff ≠ some 0 → justReleased s = true →
      exec .holdoffEnd s = .next (spareRelease s u)) ∧
    (justAnswered s = true → s.phase = .running →
      exec .repeatTimerEnd s = .next (spareCall s u) ∧
      exec .cooldownEnd s = .next (spareCall s u)) ∧
    (u.emerg.graceTimer ≠ some 0 → justRaised s = true →
      exec .graceTimerEnd s = .next (spareRaise s u)) := by
  subst hu
  refine ⟨fun k => ?_, fun h k => ?_, fun h k => ?_, fun i h k run => ?_, fun h k => ?_,
    fun k run => ⟨?_, ?_⟩, fun h k => ?_⟩
  · rw [exec_readyTimerEnd, atTickOr_taken (readyLeft_restarted k) k]
  · rw [exec_healthyTimerEnd, atTickOr_taken h k]
  · rw [exec_stuckBusyTimerEnd, atTickOr_taken (fun e => h ((stuckBusyLeft_iff _).1 e).2) k]
  · rw [exec_offerWindowEnd run, atTickOr_taken h k]
  · rw [exec_holdoffEnd, atTickOr_taken h k]
  · rw [exec_repeatTimerEnd run, atTickOr_taken (repeatLeft_answered k) k]
  · rw [exec_cooldownEnd run, atTickOr_taken (cooldownLeft_answered k) k]
  · rw [exec_graceTimerEnd, atTickOr_taken h k]

/-- Settles O14: the ends of a tick in their chain, then the rows of an end by what the tick at hand does to their timer. -/
theorem timersThatRunOutEndAtTheTick : Obligations.TimersThatRunOutEndAtTheTick := by
  refine ⟨fun s h => exec_secondTick h, fun s h => exec_secondTick_fullReset h, fun s => ?_,
    fun s u hu run => endRows_due hu run, fun s u hu => endRows_early hu,
    fun s u hu => endRows_taken hu, fun s => ⟨justRestarted_iff s, justCycled_iff s,
      justWatched_iff s, justRaised_iff s, justAnswered_iff s, justReleased_iff s⟩⟩
  obtain ⟨a, b, c, d, e, f, g, h, i, j, k, ha, hb, hc, hd, he, hf, hg, hh, hi, hj, hk, ends⟩ :=
    endTimers_chain s
  rw [endWindows_eq_foldl] at he
  simp only [repeatLeft_iff] at hi
  simp only [cooldownLeft_iff] at hj
  simp only [trackLeft_iff] at hk
  exact ⟨a, b, c, d, e, f, g, h, i, j, k, ha, hb, hc, hd, he, hf, hg,
    fun n clock contend past first => hh.trans (endDwell_passed clock contend past first),
    fun waits => hh.trans (endDwell_waits waits), hi, hj, hk, ends⟩

end Sys2Proof.Machine

namespace Sys2Proof.Machine

/-! ### The agent's operations on the state (R165, R168) -/

/-- The initial writes made one after another change memory alone. -/
theorem writeAll_eq (left : List (Nat × Word)) (s : State) : writeAll left s = s.setMem (left.foldl
    (fun m p => Memory.writeLanes m (baseOf s + p.1) 0xF p.2) s.mem) := by
  induction left generalizing s with
  | nil => rfl
  | cons p ps ih =>
    rw [writeAll, ih]
    rfl

theorem requestTask_eq (k : TaskKind) (s : State) :
    requestTask k s = s.setAgent (requestTask k s).agent := by
  obtain ⟨a, h⟩ := requestTask_sets k s
  rw [h]
  rfl

theorem beginTask_eq (s : State) : beginTask s = s.setAgent (beginTask s).agent := by
  obtain ⟨a, h⟩ := beginTask_sets s
  rw [h]
  rfl

/-- A black box write asked for again while it ran is requested once more. -/
theorem boxWriteDone_rewrite {s : State} (h : s.emerg.boxMark = .rewrite) : boxWriteDone s =
    requestTask .blackBox (s.setEmerg { s.emerg with boxMark := .pending }) := by
  rw [boxWriteDone, h]

theorem boxWriteDone_clear {s : State} (h : s.emerg.boxMark ≠ .rewrite) :
    boxWriteDone s = s.setEmerg { s.emerg with boxMark := .clear } := by
  unfold boxWriteDone
  split
  · rename_i e
    exact absurd e h
  · rfl
  · rfl

/-- The write mark is treated at the end of the initial writes as at the end of a black-box task (R152). -/
theorem initialBoxMark_eq (s : State) : initialBoxMark s = boxWriteDone s := rfl

theorem initialDone_side (s : State) :
    Side (s.setAgent { s.agent with initial := .done }) (initialDone s) := by
  unfold initialDone
  refine Side.before (resumeAccess_side _) (Side.before (initialBoxMark_side _) ?_)
  have begun := beginTask_side (s.setAgent { s.agent with initial := .done })
  exact Side.ite (fun _ => begun.trans (requestTask_side _ _)) (fun _ => begun)

/-! ### A held access is treated as a fresh one (R160, R162 to R164, R167, R168) -/

theorem resumeAccess_none {s : State} (h : s.path.inHand = none) : resumeAccess s = s := by
  rw [resumeAccess, h]

theorem resumeAccess_granted {s : State} {h : InHand} (i : s.path.inHand = some h)
    (k : h.stage ≠ .held) : resumeAccess s = s := by
  rw [resumeAccess, i]
  exact if_neg k

theorem resumeAccess_held {s : State} {a : Access}
    (i : s.path.inHand = some { access := a, stage := .held }) : resumeAccess s = classify a s := by
  rw [resumeAccess, i]
  rfl

/-- Holding an access that is held changes nothing. -/
theorem holdAccess_same {s : State} {a : Access} {st : AccessStage}
    (i : s.path.inHand = some { access := a, stage := st }) : holdAccess a st s = s := by
  rw [holdAccess, ← i]
  rfl

theorem classify_no_base {s : State} (h : s.phase ≠ .running ∨ s.path.base = none) (a : Access) :
    classify a s = holdAccess a .held s := by
  unfold classify
  split
  · rename_i run
    rw [h.resolve_left (not_not.2 run)]
  · rfl

section

variable {s : State} {b : Nat} {a : Access} (run : s.phase = .running) (base : s.path.base = some b)

include run base

theorem classify_outside (h : offsetIn b a = none) : classify a s = holdAccess a .waiting s := by
  simp only [classify, if_pos run, base, h]

theorem classify_before_done {off : Nat} (h : offsetIn b a = some off)
    (k : s.agent.initial ≠ .done) : classify a s = holdAccess a .held s := by
  simp only [classify, if_pos run, base, h, if_neg k]

theorem classify_served {off : Nat} (h : offsetIn b a = some off)
    (k : s.agent.initial = .done) : classify a s = treatAccess off a s := by
  simp only [classify, if_pos run, base, h, if_pos k]

end

theorem treatAccess_port {off : Nat} {a : Access} (h : treatment off = .free ∨
    treatment off = .snoop ∨ treatment off = .guard ∧ a.write = none) (s : State) :
    treatAccess off a s = holdAccess a .waiting s := by
  refine if_pos ?_
  rcases h with h | h | ⟨h, w⟩
  · rw [h]; rfl
  · rw [h]; rfl
  · rw [h, usesPort, w]; rfl

theorem treatAccess_attention_read {off : Nat} {a : Access} (h : treatment off = .attention)
    (w : a.write = none) (s : State) :
    treatAccess off a s = answerWith (s.attn.factors.setWidth 32) (dropAccess s) := by
  simp only [treatAccess, completeInside, h, usesPort, w]
  rfl

theorem treatAccess_attention_write {off : Nat} {a : Access} {v : Word}
    (h : treatment off = .attention) (w : a.write = some v) (s : State) : treatAccess off a s =
      if a.lanes = 0xF then writeAttention v (dropAccess s)
      else raiseFactor .format (dropAccess s) := by
  simp only [treatAccess, completeInside, h, usesPort, w]
  rfl

theorem treatAccess_zone_read {off : Nat} {a : Access} (h : treatment off = .liveZone)
    (w : a.write = none) (s : State) : treatAccess off a s =
      if off = 0x0100 then latchAndAnswer (dropAccess s)
      else answerWith (snapshotWord ((off - 0x0100) / 4) s) (dropAccess s) := by
  simp only [treatAccess, completeInside, h, usesPort, w]
  rfl

theorem treatAccess_guard_write {off : Nat} {a : Access}
    (h : treatment off = .guard ∨ treatment off = .liveZone) (w : a.write ≠ none) (s : State) :
    treatAccess off a s = guardViolation (dropAccess s) := by
  obtain ⟨v, w⟩ := Option.ne_none_iff_exists'.1 w
  rcases h with h | h <;> simp only [treatAccess, completeInside, h, usesPort, w] <;> rfl

/-- An access that the path switch completes itself, u being the state without it (Table 37). -/
theorem treatAccess_inside {s u : State} {a : Access} {off : Nat} (run : s.phase = .running)
    (hu : u = s.setPath { s.path with inHand := none }) :
    (treatment off = .attention → a.write = none → treatAccess off a s =
      u.setPath { u.path with answer := some (s.attn.factors.setWidth 32) }) ∧
    (∀ v, treatment off = .attention → a.write = some v →
      (a.lanes = 0xF → treatAccess off a s = u.setAttn { s.attn with
        factors := s.attn.factors &&& ~~~(v.setWidth 9 &&& ~~~(conditions s)) }) ∧
      (a.lanes ≠ 0xF → treatAccess off a s =
        u.setAttn { s.attn with factors := s.attn.factors ||| 0x004 })) ∧
    (treatment off = .liveZone → a.write = none →
      (off = 0x0100 → treatAccess off a s = u.setPath { u.path with
        snapshot := snapshotWords s, answer := some ((snapshotWords s).getD 0 0) }) ∧
      (off ≠ 0x0100 → treatAccess off a s = u.setPath { u.path with
        answer := some (s.path.snapshot.getD ((off - 0x0100) / 4) 0) })) ∧
    (treatment off = .guard ∨ treatment off = .liveZone → a.write ≠ none →
      treatAccess off a s = (u.setPath { u.path with
        guardCount := min (s.path.guardCount + 1) 65535 }).setAttn
          { s.attn with factors := s.attn.factors ||| 0x008 }) := by
  subst hu
  have drop : (dropAccess s).phase = .running := run
  refine ⟨fun h w => ?_, fun v h w => ⟨fun full => ?_, fun part => ?_⟩,
    fun h w => ⟨fun first => ?_, fun later => ?_⟩, fun h w => ?_⟩
  · rw [treatAccess_attention_read h w]
    rfl
  · rw [treatAccess_attention_write h w, if_pos full]
    rfl
  · rw [treatAccess_attention_write h w, if_neg part, raiseFactor_format drop]
    rfl
  · rw [treatAccess_zone_read h w, if_pos first]
    rfl
  · rw [treatAccess_zone_read h w, if_neg later]
    rfl
  · rw [treatAccess_guard_write h w, guardViolation_running drop]
    rfl

/-! ### INITIAL_WRITES_DONE (R168) -/

theorem exec_initialWritesDone {s : State} {left : List (Nat × Word)}
    (writing : s.agent.initial = .writing left) (quiet : portQuiet s = true) :
    exec .initialWritesDone s =
      .next (arbitrate (freePort (initialDone (writeAll left (grantAgent s))))) := by
  have row : exec .initialWritesDone s = .next (match s.agent.initial with
    | .writing left =>
      if portQuiet s then arbitrate (withPort (fun t => initialDone (writeAll left t)) s) else s
    | _ => s) := rfl
  rw [row, writing]
  exact congrArg Host.Outcome.next (if_pos quiet)

/-- The states between the last initial write and the treatment of a held access. -/
theorem initialDone_chain (s : State) : ∃ a b c : State,
    a = beginTask (s.setAgent { s.agent with initial := .done }) ∧
    (s.trip.logWrite = none → b = a) ∧
    (s.trip.logWrite ≠ none → b = requestTask .tripLog a) ∧
    (s.emerg.boxMark ≠ .rewrite → c = b.setEmerg { b.emerg with boxMark := .clear }) ∧
    (s.emerg.boxMark = .rewrite →
      c = requestTask .blackBox (b.setEmerg { b.emerg with boxMark := .pending })) ∧
    initialDone s = resumeAccess c := by
  obtain ⟨a, ha⟩ : ∃ a, a = beginTask (s.setAgent { s.agent with initial := .done }) := ⟨_, rfl⟩
  obtain ⟨b, hb⟩ : ∃ b, b = if a.trip.logWrite.isSome then requestTask .tripLog a else a :=
    ⟨_, rfl⟩
  have ae : a = (s.setAgent { s.agent with initial := .done }).setAgent a.agent := by
    rw [ha]
    exact beginTask_eq _
  have log : a.trip.logWrite = s.trip.logWrite := by rw [ae]; rfl
  have mark : b.emerg.boxMark = s.emerg.boxMark := by
    rw [hb]
    split
    · rw [requestTask_eq, ae]; rfl
    · rw [ae]; rfl
  rw [log] at hb
  refine ⟨a, b, initialBoxMark b, ha, fun h => ?_, fun h => ?_, fun h => ?_, fun h => ?_, ?_⟩
  · rw [hb, h]
    rfl
  · rw [hb, if_pos (Option.isSome_iff_ne_none.2 h)]
  · exact (initialBoxMark_eq b).trans (boxWriteDone_clear (by rw [mark]; exact h))
  · exact (initialBoxMark_eq b).trans (boxWriteDone_rewrite (by rw [mark]; exact h))
  · rw [hb, ← log, ha]
    rfl

/-- Settles O7: the words left reach memory in order, the end of the writes in its steps, a held access by the zone map. -/
theorem initialWritesReachMemory : Obligations.InitialWritesReachMemory := by
  refine ⟨fun s left writing quiet => ?_, initialDone_chain, fun s =>
    ⟨resumeAccess_none, fun h => resumeAccess_granted, fun a w u i hw hu => ?_⟩⟩
  · obtain ⟨g, hg⟩ : ∃ g, g = writeAll left (grantAgent s) := ⟨_, rfl⟩
    have ge := hg.trans (writeAll_eq left (grantAgent s))
    obtain ⟨t, ht⟩ : ∃ t, t = arbitrate (freePort (initialDone g)) := ⟨_, rfl⟩
    have freed : Side (initialDone g) (freePort (initialDone g)) := Side.setPath rfl
    have side : Side (g.setAgent { g.agent with initial := .done }) t := by
      rw [ht]
      exact (initialDone_side g).trans (freed.trans (arbitrate_side _))
    refine ⟨t, g, ?_, ge, ht, side.initial, side.mem, ?_⟩
    · rw [exec_initialWritesDone writing quiet, ht, hg]
    · subst ge
      exact ⟨side.base, side.meter, side.trip, side.clock, side.link, side.uplink, side.offers,
        side.pool, side.evw, side.settings, side.box⟩
  · have waits : holdAccess a .waiting s = w := hw.symm
    refine ⟨fun h => ?_, fun b run base => ⟨fun out => ?_, fun off area early => ?_,
      fun off area done => ?_⟩⟩
    · rw [resumeAccess_held i, classify_no_base h, holdAccess_same i]
    · rw [resumeAccess_held i, classify_outside run base out, waits]
    · rw [resumeAccess_held i, classify_before_done run base area early, holdAccess_same i]
    · rw [resumeAccess_held i, classify_served run base area done]
      exact ⟨fun h => (treatAccess_port h s).trans waits, treatAccess_inside run hu⟩

end Sys2Proof.Machine

namespace Sys2Proof.Machine

/-! ### AGENT_WORD_END (R165, R166) -/

theorem exec_agentWordEnd_idle {s : State}
    (h : (arbitrate s).path.port ≠ .agent ∨ agentReady (arbitrate s) = false) :
    exec .agentWordEnd s = .next s := by
  refine congrArg Host.Outcome.next (if_neg ?_)
  rintro ⟨port, ready⟩
  rcases h with h | h
  · exact h port
  · rw [ready] at h
    cases h

theorem exec_agentWordEnd {s : State} (port : (arbitrate s).path.port = .agent)
    (ready : agentReady (arbitrate s) = true) :
    exec .agentWordEnd s = .next (arbitrate (agentStep (freePort (arbitrate s)))) :=
  congrArg Host.Outcome.next (if_pos ⟨port, ready⟩)

theorem agentStep_initial {s : State} {off : Nat} {v : Word} {left : List (Nat × Word)}
    (h : s.agent.initial = .writing ((off, v) :: left)) :
    agentStep s = initialWordEnd off v left s := by
  rw [agentStep, h]

theorem initialWordEnd_more {left : List (Nat × Word)} (h : left ≠ []) (off : Nat) (v : Word)
    (s : State) : initialWordEnd off v left s =
      (agentWrite off v s).setAgent { s.agent with initial := .writing left } := by
  refine if_neg ?_
  rw [List.isEmpty_iff]
  exact h

theorem initialWordEnd_last (off : Nat) (v : Word) (s : State) : initialWordEnd off v [] s =
    initialDone ((agentWrite off v s).setAgent { s.agent with initial := .writing [] }) := rfl

theorem agentStep_task {s : State} {t : Task} {ts : List Task} {w : AgentWord}
    {ws : List AgentWord} (done : s.agent.initial = .done) (first : s.agent.tasks = t :: ts)
    (words : t.words = some (w :: ws)) : agentStep s = taskWordEnd w ws s := by
  simp only [agentStep, done, first, words]

/-- The state in which a word of the first task has ended, before a task without words left is completed. -/
def wordEnded (w : AgentWord) (ws : List AgentWord) (s : State) : State :=
  afterWord w (setWords (wordsAfter ws (wordToPart w (wordToMemory w s)))
    (wordToPart w (wordToMemory w s)))

theorem taskWordEnd_eq (w : AgentWord) (ws : List AgentWord) (s : State) : taskWordEnd w ws s =
    if taskFinished (wordEnded w ws s) = true then completeTask (wordEnded w ws s)
    else wordEnded w ws s := rfl

theorem setWords_cons {s : State} {t : Task} {ts : List Task} (h : s.agent.tasks = t :: ts)
    (ws : List AgentWord) : setWords ws s =
      s.setAgent { s.agent with tasks := { t with words := some ws } :: ts } := by
  rw [setWords, h]
  rfl

theorem wordsAfter_passed {ws : List AgentWord} {s : State} (h : ws = [.result])
    (k : s.evw.resultStale = false) : wordsAfter ws s = [] := if_pos ⟨h, k⟩

theorem wordsAfter_stay {ws : List AgentWord} {s : State}
    (h : ws ≠ [.result] ∨ s.evw.resultStale = true) : wordsAfter ws s = ws := by
  refine if_neg ?_
  rintro ⟨only, fresh⟩
  rcases h with h | h
  · exact h only
  · rw [fresh] at h
    cases h

/-- A deposit advances the producer, takes the event out of the queue and sets EVENT (R174). -/
theorem deposit_eq {s : State} {e : Event} {es : List Event} (run : s.phase = .running)
    (queue : s.evw.queue = e :: es) (p : Nat) : deposit p s =
      (s.setEvw { s.evw with producer := p, queue := es, deposited := s.evw.deposited + 1 }).setAttn
        { s.attn with factors := s.attn.factors ||| 0x001 } := by
  rw [deposit, queue]
  exact raiseFactor_running .event run

section

variable {s : State} {t : Task} {ts : List Task} (first : s.agent.tasks = t :: ts)
  (ws : List AgentWord)

include first

/-- A word that neither reads nor deposits leaves the tasks to setWords: x is the state it gives. -/
theorem wordEnded_plain {w : AgentWord} {x : State}
    (hx : wordToPart w (wordToMemory w s) = x) (agent : x.agent = s.agent)
    (stale : wordsAfter ws x = wordsAfter ws s) (after : ∀ y, afterWord w y = y) :
    wordEnded w ws s = x.setAgent { s.agent with
      tasks := { t with words := some (wordsAfter ws s) } :: ts } := by
  rw [wordEnded, hx, after, setWords_cons (by rw [agent]; exact first), stale, agent]

theorem wordEnded_write (off : Nat) (v : Word) : wordEnded (.write off v) ws s = (s.setMem
      (Memory.writeLanes s.mem (s.path.base.getD 0 + off) 0xF v)).setAgent
    { s.agent with tasks := { t with words := some (wordsAfter ws s) } :: ts } :=
  wordEnded_plain first ws rfl rfl rfl fun _ => rfl

theorem wordEnded_generated : wordEnded .generated ws s = (s.setMem
      (Memory.writeLanes s.mem (s.path.base.getD 0 + 0x0050) 0xF s.evw.generated)).setAgent
    { s.agent with tasks := { t with words := some (wordsAfter ws s) } :: ts } :=
  wordEnded_plain first ws rfl rfl rfl fun _ => rfl

theorem wordEnded_lost : wordEnded .lost ws s = ((s.setMem
      (Memory.writeLanes s.mem (s.path.base.getD 0 + 0x0054) 0xF s.evw.lost)).setEvw
        { s.evw with countersStale := false }).setAgent
    { s.agent with tasks := { t with words := some (wordsAfter ws s) } :: ts } :=
  wordEnded_plain first ws rfl rfl rfl fun _ => rfl

theorem wordEnded_result : wordEnded .result [] s = ((s.setMem (Memory.writeLanes s.mem
      (s.path.base.getD 0 + 0x005C) 0xF (resultWord s.settings.result))).setEvw
        { s.evw with resultStale := false }).setAgent
    { s.agent with tasks := { t with words := some [] } :: ts } :=
  wordEnded_plain first [] rfl rfl rfl fun _ => rfl

theorem wordEnded_read (off : Nat) : wordEnded (.read off) ws s = s.setAgent { s.agent with
    tasks := { t with
      words := some (wordsAfter ws s),
      bytes := t.bytes ++ wordBytes (Memory.readWord s.mem (s.path.base.getD 0 + off)) } :: ts } := by
  have part : wordToPart (.read off) s = setTasks ({ t with
      bytes := t.bytes ++ wordBytes (Memory.readWord s.mem (baseOf s + off)) } :: ts) s := by
    rw [wordToPart, first]
  have memory : wordToMemory (.read off) s = s := rfl
  rw [wordEnded, memory, part]
  rfl

theorem wordEnded_producer {e : Event} {es : List Event} (run : s.phase = .running)
    (queue : s.evw.queue = e :: es) (p : Nat) : wordEnded (.producer p) ws s =
      takeWork (placeHeld ((((s.setMem (Memory.writeLanes s.mem
        (s.path.base.getD 0 + 0x0048) 0xF (BitVec.ofNat 32 p))).setEvw { s.evw with
          producer := p, queue := es, deposited := s.evw.deposited + 1 }).setAttn
            { s.attn with factors := s.attn.factors ||| 0x001 }).setAgent
        { s.agent with tasks := { t with words := some (wordsAfter ws s) } :: ts })) := by
  have part := deposit_eq (s := wordToMemory (.producer p) s) run queue p
  have after (y : State) : afterWord (.producer p) y = takeWork (placeHeld y) := rfl
  have deposited : wordToPart (.producer p) (wordToMemory (.producer p) s) =
    deposit p (wordToMemory (.producer p) s) := rfl
  rw [wordEnded, after, deposited, part, setWords_cons (by exact first)]
  rfl

end

/-! ### The end of a task (R165) -/

theorem taskFinished_iff {s : State} {t : Task} {ts : List Task} (h : s.agent.tasks = t :: ts) :
    taskFinished s = true ↔ t.words = some [] := by
  rw [taskFinished, h]
  exact beq_iff_eq

theorem clearPass_eq (s : State) : clearPass s = s.setPath { s.path with
    passCount := if s.agent.tasks = [] then 0 else s.path.passCount } := by
  simp only [clearPass, List.isEmpty_iff]
  split <;> rfl

/-- The first task leaves the list: its report and the next task's beginning follow on w. -/
theorem completeTask_eq {s w : State} {t : Task} {ts : List Task} (h : s.agent.tasks = t :: ts)
    (hw : w = (s.setAgent { s.agent with tasks := ts }).setPath { s.path with
      passCount := if ts = [] then 0 else s.path.passCount }) :
    completeTask s = beginTask (taskReport t w) := by
  have cleared : clearPass (setTasks ts s) = w := (clearPass_eq _).trans hw.symm
  rw [completeTask, h, ← cleared]

theorem taskReport_tripLog {t : Task} {r : TripRecord} {s : State} (k : t.kind = .tripLog)
    (h : s.trip.logWrite = some r) (n : r.number = t.number) : taskReport t s =
      s.setTrip { s.trip with logIndex := t.number, logWrite := none } := by
  simp only [taskReport, k, tripLogDone, h, if_pos n]

theorem taskReport_blackBox {t : Task} (k : t.kind = .blackBox) (s : State) :
    taskReport t s = boxWriteDone s := by
  rw [taskReport, k]

/-- The agent works on the first task already. -/
theorem beginTask_begun {s : State} {t : Task} {ts : List Task} (h : s.agent.tasks = t :: ts)
    (k : t.words ≠ none) : beginTask s = s := by
  obtain ⟨ws, hw⟩ := Option.ne_none_iff_exists'.1 k
  simp only [beginTask, h, hw]
  exact ite_self s

theorem beginTask_first {s : State} {t : Task} {ts : List Task} (run : s.phase = .running)
    (done : s.agent.initial = .done) (h : s.agent.tasks = t :: ts) (k : t.words = none) :
    beginTask s = s.setAgent { s.agent with
      tasks := { t with
        words := some (taskWords t.kind s),
        number := (s.trip.logWrite.map (·.number)).getD 0 } :: ts } := by
  simp only [beginTask, if_pos (And.intro run done), h, k]
  rfl

/-- Settles O55: the row by the port, an initial write, each kind of word, and the report of each kind of task. -/
theorem agentWordsEndOneByOne : Obligations.AgentWordsEndOneByOne := by
  refine ⟨?_, fun s off v left h => ?_, fun s t ts w ws done first words => ?_,
    fun ws s => ⟨wordsAfter_passed, wordsAfter_stay⟩, fun s t ts first => ?_,
    fun s t ts run done first => ⟨beginTask_begun first, beginTask_first run done first⟩⟩
  · rintro s t rfl
    exact ⟨exec_agentWordEnd_idle, exec_agentWordEnd⟩
  · refine ⟨_, rfl, fun more => ?_, ?_⟩
    · rw [agentStep_initial h, initialWordEnd_more more]
      rfl
    · rintro rfl
      rw [agentStep_initial h, initialWordEnd_last]
      rfl
  · refine ⟨wordEnded w ws s, ?_, ?_, ?_, ?_, ?_, ?_, ?_⟩
    · rw [agentStep_task done first words, taskWordEnd_eq]
    · rintro off v rfl
      exact wordEnded_write first ws off v
    · rintro off rfl
      exact wordEnded_read first ws off
    · rintro rfl
      exact wordEnded_generated first ws
    · rintro rfl
      exact wordEnded_lost first ws
    · rintro rfl rfl
      exact wordEnded_result first
    · rintro p e es rfl queue run
      exact ⟨_, rfl, wordEnded_producer first ws run queue p⟩
  · obtain ⟨w, hw⟩ : ∃ w, w = (s.setAgent { s.agent with tasks := ts }).setPath { s.path with
        passCount := if ts = [] then 0 else s.path.passCount } := ⟨_, rfl⟩
    refine ⟨w, hw, taskFinished_iff first, fun n k => ?_, fun k => ?_, fun d k => ?_,
      fun k r h n => ?_, fun k mark => ?_, fun k mark => ?_⟩ <;> rw [completeTask_eq first hw]
    · rw [taskReport, k, hw]
      rfl
    · rw [taskReport, k]
    · rw [taskReport, k]
    · rw [taskReport_tripLog k (by rw [hw]; exact h) n, hw]
      rfl
    · rw [taskReport_blackBox k, boxWriteDone_clear (by rw [hw]; exact mark), hw]
      rfl
    · rw [taskReport_blackBox k, boxWriteDone_rewrite (by rw [hw]; exact mark), hw]
      rfl

end Sys2Proof.Machine

namespace Sys2Proof.Machine

/-! ### The starts of tasks (R165, R170, R173, R174) -/

theorem canFetch_iff (s : State) : canFetch s = true ↔ s.phase = .running ∧
    s.agent.initial = .done ∧ s.reader.consumer ≠ s.reader.producer ∧ s.reader.kept = none ∧
    taskListed .index s = false ∧ s.evw.queue.length ≤ 14 := by
  have room : twoFree s = true ↔ s.evw.queue.length ≤ 14 := by
    rw [twoFree, decide_eq_true_eq, Config.eventQueueSize]
    omega
  simp only [canFetch, Bool.and_eq_true, decide_eq_true_eq, bne_iff_ne, Option.isNone_iff_eq_none,
    Bool.not_eq_true', room, and_assoc]

theorem exec_requestFetchStart (s : State) : exec .requestFetchStart s =
    .next (if canFetch s then requestTask (.fetch s.reader.consumer) s else s) := rfl

theorem not_canFetch {s : State} (h : s.phase ≠ .running ∨ s.agent.initial ≠ .done ∨
    s.reader.consumer = s.reader.producer ∨ s.reader.kept ≠ none ∨
    taskListed .index s = true ∨ 15 ≤ s.evw.queue.length) : ¬ canFetch s = true := by
  rw [canFetch_iff]
  rintro ⟨run, done, differ, empty, listed, room⟩
  rcases h with h | h | h | h | h | h
  · exact h run
  · exact h done
  · exact differ h
  · exact h empty
  · rw [listed] at h
    cases h
  · omega

theorem depositDue_iff (s : State) : depositDue s = true ↔
    s.evw.queue ≠ [] ∧ (s.evw.producer + 64 - s.evw.consumer) % 64 < 63 := by
  rw [depositDue, Bool.and_eq_true, Bool.not_eq_true', List.isEmpty_eq_false_iff,
    decide_eq_true_eq, Config.eventRingMax]

theorem staleDue_iff (s : State) : staleDue s = true ↔
    s.evw.countersStale = true ∨ s.evw.resultStale = true := Bool.or_eq_true_iff

theorem exec_eventTaskStart (s : State) : exec .eventTaskStart s = .next (startEventTask s) := rfl

theorem startEventTask_open {s : State} (run : s.phase = .running)
    (unlisted : taskListed (.event true) s = false) : startEventTask s =
      if depositDue s then requestTask (.event true) s
      else if staleDue s then requestTask (.event false) s else s := if_pos ⟨run, unlisted⟩

theorem startEventTask_shut {s : State}
    (h : s.phase ≠ .running ∨ taskListed (.event true) s = true) : startEventTask s = s := by
  refine if_neg ?_
  rintro ⟨run, unlisted⟩
  rcases h with h | h
  · exact h run
  · rw [unlisted] at h
    cases h

theorem not_depositDue {s : State} (h : s.evw.queue = [] ∨
    63 ≤ (s.evw.producer + 64 - s.evw.consumer) % 64) : ¬ depositDue s = true := by
  rw [depositDue_iff]
  rintro ⟨event, room⟩
  rcases h with h | h
  · exact event h
  · exact Nat.not_lt.2 h room

theorem not_staleDue {s : State} (counters : s.evw.countersStale = false)
    (result : s.evw.resultStale = false) : ¬ staleDue s = true := by
  rw [staleDue_iff, counters, result]
  simp

/-- EVENT_TASK_START with no event task listed: the deposit first, then the stale words. -/
theorem exec_eventTaskStart_open {s : State} (run : s.phase = .running)
    (unlisted : taskListed (.event true) s = false) :
    (s.evw.queue ≠ [] → (s.evw.producer + 64 - s.evw.consumer) % 64 < 63 →
      exec .eventTaskStart s = .next (requestTask (.event true) s)) ∧
    (s.evw.queue = [] ∨ 63 ≤ (s.evw.producer + 64 - s.evw.consumer) % 64 →
      (s.evw.countersStale = true ∨ s.evw.resultStale = true →
        exec .eventTaskStart s = .next (requestTask (.event false) s)) ∧
      (s.evw.countersStale = false → s.evw.resultStale = false →
        exec .eventTaskStart s = .next s)) := by
  rw [exec_eventTaskStart, startEventTask_open run unlisted]
  refine ⟨fun event room => ?_, fun none_due => ⟨fun stale => ?_, fun counters result => ?_⟩⟩
  · rw [if_pos ((depositDue_iff s).2 ⟨event, room⟩)]
  · rw [if_neg (not_depositDue none_due), if_pos ((staleDue_iff s).2 stale)]
  · rw [if_neg (not_depositDue none_due), if_neg (not_staleDue counters result)]

theorem requestTask_listed {k : TaskKind} {s : State} (h : taskListed k s = true) :
    requestTask k s = s := if_pos h

theorem requestTask_unlisted {k : TaskKind} {s : State} (h : taskListed k s = false) :
    requestTask k s = beginTask (s.setAgent { s.agent with
      tasks := s.agent.tasks ++ [{ kind := k, words := none, bytes := [], number := 0 }] }) :=
  if_neg (by rw [h]; exact Bool.false_ne_true)

/-! ### The rows that name a task's end (log entry 20) -/

theorem portQuiet_of_held {s : State} (port : s.path.port ≠ .processor)
    (held : ∀ h, s.path.inHand = some h → h.stage = .held) : portQuiet s = true := by
  rw [portQuiet, Bool.and_eq_true, bne_iff_ne]
  refine ⟨port, ?_⟩
  split
  · rename_i h i
    rw [held h i]
    rfl
  · rfl

theorem headKind_first {s : State} {t : Task} {ts : List Task} (run : s.phase = .running)
    (done : s.agent.initial = .done) (first : s.agent.tasks = t :: ts) :
    headKind s = some t.kind := by
  rw [headKind, if_pos ⟨run, done⟩, first]
  rfl

theorem headKind_none {s : State} (h : s.agent.tasks = []) : headKind s = none := by
  rw [headKind, h]
  exact ite_self _

theorem headIs_iff (k : TaskKind) (s : State) :
    headIs k s = true ↔ portQuiet s = true ∧ headKind s = some k := by
  rw [headIs, Bool.and_eq_true, beq_iff_eq]

theorem headIs_no_task {s : State} (h : s.agent.tasks = []) (k : TaskKind) :
    ¬ headIs k s = true := by
  rw [headIs_iff, headKind_none h]
  exact fun e => nomatch e.2

theorem exec_requestFetchComplete_eq (s : State) : exec .requestFetchComplete s =
    .next (match headKind s with
      | some (.fetch _) => if portQuiet s then withPort (runTask 70) s else s
      | _ => s) := rfl

theorem exec_requestFetchComplete {s : State} {n : Nat} (quiet : portQuiet s = true)
    (first : headKind s = some (.fetch n)) :
    exec .requestFetchComplete s = .next (withPort (runTask 70) s) := by
  rw [exec_requestFetchComplete_eq, first]
  exact congrArg Host.Outcome.next (if_pos quiet)

theorem exec_requestFetchComplete_no_task {s : State} (h : s.agent.tasks = []) :
    exec .requestFetchComplete s = .next s := by
  rw [exec_requestFetchComplete_eq, headKind_none h]

theorem exec_eventTaskComplete_eq (s : State) : exec .eventTaskComplete s =
    .next (match headKind s with
      | some (.event _) => if portQuiet s then withPort (runTask 70) s else s
      | _ => s) := rfl

theorem exec_eventTaskComplete {s : State} {d : Bool} (quiet : portQuiet s = true)
    (first : headKind s = some (.event d)) :
    exec .eventTaskComplete s = .next (withPort (runTask 70) s) := by
  rw [exec_eventTaskComplete_eq, first]
  exact congrArg Host.Outcome.next (if_pos quiet)

theorem exec_eventTaskComplete_no_task {s : State} (h : s.agent.tasks = []) :
    exec .eventTaskComplete s = .next s := by
  rw [exec_eventTaskComplete_eq, headKind_none h]

theorem exec_eventDeposited_eq (s : State) : exec .eventDeposited s =
    .next (if headIs (.event true) s && (headWords s).any AgentWord.isProducer
      then withPort (runToDeposit 70) s else s) := by
  rw [isProducer_eq]
  rfl

theorem exec_requestIndexComplete (s : State) : exec .requestIndexComplete s =
    .next (if headIs .index s then withPort (runTask 70) s else s) := rfl

theorem exec_tripLogWriteComplete (s : State) : exec .tripLogWriteComplete s =
    .next (if headIs .tripLog s then withPort (runTask 70) s else s) := rfl

theorem exec_blackBoxWriteComplete (s : State) : exec .blackBoxWriteComplete s =
    .next (if headIs .blackBox s then withPort (runTask 70) s else s) := rfl

theorem any_isProducer {ws : List AgentWord} {p : Nat} (h : AgentWord.producer p ∈ ws) :
    ws.any AgentWord.isProducer = true := List.any_eq_true.2 ⟨_, h, rfl⟩

/-- The end rows of the first task's kind run the words it has left with the port the agent's. -/
theorem endRows_run {s g : State} {t : Task} {ts : List Task} (run : s.phase = .running)
    (done : s.agent.initial = .done) (first : s.agent.tasks = t :: ts)
    (port : s.path.port ≠ .processor) (held : ∀ h, s.path.inHand = some h → h.stage = .held)
    (hg : g = s.setPath { s.path with port := .agent, passCount := 0 }) :
    (∀ n, t.kind = .fetch n → ∃ v, v = runTask 70 g ∧
      exec .requestFetchComplete s = .next (v.setPath { v.path with port := .free })) ∧
    (t.kind = .index → ∃ v, v = runTask 70 g ∧
      exec .requestIndexComplete s = .next (v.setPath { v.path with port := .free })) ∧
    (∀ d, t.kind = .event d → ∃ v, v = runTask 70 g ∧
      exec .eventTaskComplete s = .next (v.setPath { v.path with port := .free })) ∧
    (∀ p, t.kind = .event true → AgentWord.producer p ∈ t.words.getD [] → ∃ v,
      v = runToDeposit 70 g ∧
      exec .eventDeposited s = .next (v.setPath { v.path with port := .free })) ∧
    (t.kind = .tripLog → ∃ v, v = runTask 70 g ∧
      exec .tripLogWriteComplete s = .next (v.setPath { v.path with port := .free })) ∧
    (t.kind = .blackBox → ∃ v, v = runTask 70 g ∧
      exec .blackBoxWriteComplete s = .next (v.setPath { v.path with port := .free })) := by
  have quiet := portQuiet_of_held port held
  have kind := headKind_first run done first
  have is {k : TaskKind} (h : t.kind = k) : headIs k s = true :=
    (headIs_iff k s).2 ⟨quiet, by rw [kind, h]⟩
  have granted : grantAgent s = g := hg.symm
  have ran (f : State → State) : withPort f s = (f g).setPath { (f g).path with port := .free } := by
    rw [withPort, granted]
    rfl
  refine ⟨fun n h => ⟨_, rfl, ?_⟩, fun h => ⟨_, rfl, ?_⟩, fun d h => ⟨_, rfl, ?_⟩,
    fun p h producer => ⟨_, rfl, ?_⟩, fun h => ⟨_, rfl, ?_⟩, fun h => ⟨_, rfl, ?_⟩⟩
  · rw [exec_requestFetchComplete quiet (by rw [kind, h]), ran]
  · rw [exec_requestIndexComplete, if_pos (is h), ran]
  · rw [exec_eventTaskComplete quiet (by rw [kind, h]), ran]
  · rw [exec_eventDeposited_eq, if_pos, ran]
    rw [is h, headWords_cons first, any_isProducer producer]
    rfl
  · rw [exec_tripLogWriteComplete, if_pos (is h), ran]
  · rw [exec_blackBoxWriteComplete, if_pos (is h), ran]

/-- Without a task the rows of a task's end change nothing. -/
theorem endRows_no_task {s : State} (h : s.agent.tasks = []) :
    exec .requestFetchComplete s = .next s ∧ exec .requestIndexComplete s = .next s ∧
    exec .eventDeposited s = .next s ∧ exec .eventTaskComplete s = .next s ∧
    exec .tripLogWriteComplete s = .next s ∧ exec .blackBoxWriteComplete s = .next s := by
  refine ⟨exec_requestFetchComplete_no_task h, ?_, ?_, exec_eventTaskComplete_no_task h, ?_, ?_⟩
  · rw [exec_requestIndexComplete, if_neg (headIs_no_task h _)]
  · rw [exec_eventDeposited_eq, headWords_nil h, List.any_nil, Bool.and_false]
    rfl
  · rw [exec_tripLogWriteComplete, if_neg (headIs_no_task h _)]
  · rw [exec_blackBoxWriteComplete, if_neg (headIs_no_task h _)]

theorem runTask_last {s : State} (h : lastWord s = true) (n : Nat) :
    runTask (n + 1) s = agentStep s := if_pos h

theorem runTask_more {s : State} (h : lastWord s = false) (n : Nat) :
    runTask (n + 1) s = runTask n (agentStep s) := if_neg (by rw [h]; exact Bool.false_ne_true)

theorem runToDeposit_producer {s : State} (h : nextIsProducer s = true) (n : Nat) :
    runToDeposit (n + 1) s = agentStep s := if_pos h

theorem runToDeposit_more {s : State} (h : nextIsProducer s = false) (n : Nat) :
    runToDeposit (n + 1) s = runToDeposit n (agentStep s) :=
  if_neg (by rw [h]; exact Bool.false_ne_true)

/-! ### The words and the images written (R152, R165, R182, R184, Tables 46 and 47) -/

theorem taskWords_event {s : State} {e : Event} {es : List Event} (h : s.evw.queue = e :: es) :
    taskWords (.event true) s =
      writesFrom (0x1000 + 128 * s.evw.producer) (wordsOf e.bytes) ++
        [.producer ((s.evw.producer + 1) % 64), .generated, .lost, .result] := by
  rw [taskWords, h]
  exact List.append_assoc _ _ _

theorem taskWords_tripLog {s : State} {r : TripRecord} (h : s.trip.logWrite = some r) :
    taskWords .tripLog s = writesFrom (0x3000 + 64 * (r.number % 64)) (wordsOf r.memoryImage) ++
      [.write 0x0058 (BitVec.ofNat 32 r.number)] := by
  rw [taskWords, h]
  rfl

/-- A Bool at bit i of a byte that stands n bits up. -/
theorem bitAt_mul (i n : Nat) (b : Bool) :
    bitAt i b * 2 ^ n = if b then 2 ^ (i + n) else 0 := by
  cases b with
  | false => exact Nat.zero_mul _
  | true => exact (pow_add 2 i n).symm

/-- The flags of a record at their bits of the word at offset 24 (Table 46). -/
theorem flagBits_mul (r : TripRecord) : r.flagBits * 2 ^ 24 =
    (if r.emergency then 2 ^ 24 else 0) + (if r.pulseFault then 2 ^ 25 else 0) +
      (if r.fareCap then 2 ^ 26 else 0) + (if r.unreported then 2 ^ 27 else 0) +
      (if r.truncated then 2 ^ 28 else 0) + if r.offerId.isSome then 2 ^ 29 else 0 := by
  rw [TripRecord.flagBits, Nat.add_mul, Nat.add_mul, Nat.add_mul, Nat.add_mul, Nat.add_mul,
    bitAt_mul, bitAt_mul, bitAt_mul, bitAt_mul, bitAt_mul, bitAt_mul]

/-- The slots of the segments at their bits of the word at offset 28 (Table 46). -/
theorem slotBits_eq (r : TripRecord) : r.slotBits = (r.segment 0).slot * 2 ^ 20 +
    (r.segment 1).slot * 2 ^ 22 + (r.segment 2).slot * 2 ^ 24 + (r.segment 3).slot * 2 ^ 26 +
    (r.segment 4).slot * 2 ^ 28 + (r.segment 5).slot * 2 ^ 30 := by
  have six : List.range 6 = [0, 1, 2, 3, 4, 5] := rfl
  rw [TripRecord.slotBits, six, List.foldl_cons, List.foldl_cons, List.foldl_cons, List.foldl_cons,
    List.foldl_cons, List.foldl_cons, List.foldl_nil, Nat.zero_add]

theorem tripFields_eq (r : TripRecord) (g : Nat → Segment) (hg : ∀ k, g k = r.segment k) :
    r.fields = [ (4, r.number), (4, (r.offerId.getD 0).toNat), (4, r.start.toNat),
      (4, r.finish.toNat), (4, r.hiredPulses), (4, r.holdSecs),
      (4, r.fare + (if r.emergency then 2 ^ 24 else 0) + (if r.pulseFault then 2 ^ 25 else 0) +
        (if r.fareCap then 2 ^ 26 else 0) + (if r.unreported then 2 ^ 27 else 0) +
        (if r.truncated then 2 ^ 28 else 0) + if r.offerId.isSome then 2 ^ 29 else 0),
      (4, r.extras + r.segments.length * 2 ^ 17 + (g 0).slot * 2 ^ 20 + (g 1).slot * 2 ^ 22 +
        (g 2).slot * 2 ^ 24 + (g 3).slot * 2 ^ 26 + (g 4).slot * 2 ^ 28 + (g 5).slot * 2 ^ 30),
      (2, r.peak), (2, (g 0).version), (2, (g 1).version), (2, (g 2).version), (2, (g 3).version),
      (2, (g 4).version), (2, (g 5).version), (3, min (g 0).steps 16777215),
      (3, min (g 1).steps 16777215), (3, min (g 2).steps 16777215), (3, min (g 3).steps 16777215),
      (3, min (g 4).steps 16777215), (3, min (g 5).steps 16777215) ] := by
  obtain rfl : g = r.segment := funext hg
  have six : List.range 6 = [0, 1, 2, 3, 4, 5] := rfl
  simp only [TripRecord.fields, flagBits_mul, slotBits_eq, six, List.map_cons, List.map_nil,
    List.cons_append, List.nil_append, ← Nat.add_assoc]

/-- Table 47: the fields of a captured black box; without a position record its position fields are 0. -/
theorem blackBox_bytes (b : BlackBox) (bs : List Byte) (la lo sp he fv : Nat)
    (absent : b.position = none → la = 0 ∧ lo = 0 ∧ sp = 0 ∧ he = 0 ∧ fv = 0)
    (present : ∀ p, b.position = some p → la = p.latitude.toNat ∧ lo = p.longitude.toNat ∧
      sp = p.speed.toNat ∧ he = p.heading ∧ fv = if p.fixValid then 1 else 0)
    (fields : bs = [0x02, match b.source with | .switch => 0 | .request => 1,
        BitVec.ofNat 8 b.meterState.code, BitVec.ofNat 8 (b.slot.getD 255)] ++
      bytesLE 4 b.time.toNat ++ bytesLE 4 b.tripNumber ++ bytesLE 4 b.fare ++ bytesLE 4 b.extras ++
      bytesLE 4 b.hiredPulses ++ bytesLE 4 la ++ bytesLE 4 lo ++ bytesLE 2 sp ++ bytesLE 2 he ++
      bytesLE 2 b.fixAge ++ [BitVec.ofNat 8 fv, BitVec.ofNat 8 b.link.code] ++
      bytesLE 4 (b.jobId.getD 0).toNat ++
      [if b.jobId.isSome then 1 else 0, BitVec.ofNat 8 b.queueLength] ++ bytesLE 2 b.totalBad ++
      [BitVec.ofNat 8 b.recent.length, 0, 0, 0] ++
      b.recent.flatMap (fun r => [r.cls, r.seq, 0, 0] ++ bytesLE 4 r.doneAt.toNat)) :
    boxBytes (some b) = bs ++ List.replicate (256 - bs.length) 0 := by
  have byte (n : Nat) : b1 n = [BitVec.ofNat 8 n] := rfl
  have source : BitVec.ofNat 8 b.source.code =
      match b.source with | .switch => 0 | .request => 1 := by
    cases b.source <;> rfl
  have job : BitVec.ofNat 8 (bitAt 0 b.jobId.isSome) = if b.jobId.isSome then 1 else 0 := by
    cases b.jobId.isSome <;> rfl
  have position : la = (b.position.map (·.latitude.toNat)).getD 0 ∧
      lo = (b.position.map (·.longitude.toNat)).getD 0 ∧
      sp = (b.position.map (·.speed.toNat)).getD 0 ∧ he = (b.position.map (·.heading)).getD 0 ∧
      fv = bitAt 0 ((b.position.map (·.fixValid)).getD false) := by
    cases p : b.position with
    | none => exact absent p
    | some x => exact present x p
  have recent : (fun r : RecentFrame => [r.cls, r.seq, 0, 0] ++ bytesLE 4 r.doneAt.toNat) =
      RecentFrame.bytes := rfl
  have padded : boxBytes (some b) = b.bytes := rfl
  obtain ⟨rfl, rfl, rfl, rfl, rfl⟩ := position
  rw [padded, BlackBox.bytes, padTo, fields, recent]
  simp only [byte, source, job, slotCode, List.append_assoc, List.cons_append, List.nil_append]

/-- Settles O56: the starts by what is due, the end rows by the first task's kind, the words of each task and the three images. -/
theorem tasksStartWhenDueAndRunToTheirEnd : Obligations.TasksStartWhenDueAndRunToTheirEnd := by
  refine ⟨fun s => ⟨fun run done differ empty unlisted room => ?_, fun h => ?_,
      exec_eventTaskStart_open, fun h => ?_⟩,
    fun k s => ⟨requestTask_listed, requestTask_unlisted⟩,
    fun s g t ts run done first port held hg => endRows_run run done first port held hg,
    fun n s => ⟨fun h => runTask_last h n, fun h => runTask_more h n,
      fun h => runToDeposit_producer h n, fun h => runToDeposit_more h n⟩,
    fun s => endRows_no_task,
    fun s e es r n => ⟨rfl, rfl, taskWords_event, rfl, taskWords_tripLog, rfl⟩,
    fun off w ws => ⟨rfl, rfl⟩, fun x y z u bs => ⟨rfl, rfl⟩, ?_, fun r g fs hg hfs => ?_, rfl,
    blackBox_bytes⟩
  · rw [exec_requestFetchStart,
      if_pos ((canFetch_iff s).2 ⟨run, done, differ, empty, unlisted, room⟩)]
  · rw [exec_requestFetchStart, if_neg (not_canFetch h)]
  · rw [exec_eventTaskStart, startEventTask_shut h]
  · rintro e bs rfl
    rfl
  · rw [hfs, ← tripFields_eq r g hg]
    exact ⟨rfl, rfl⟩

end Sys2Proof.Machine

namespace Sys2Proof.Machine

/-! ### A radio in channel access stays so while the uplink queue changes (R66, R69, R74) -/

/-- A link in channel access is still in it, and the ready and healthy timers are those of s. -/
structure AccessKept (s t : State) : Prop where
  access : channelAccess s.link.state = true → channelAccess t.link.state = true
  ready : t.sup.ready = s.sup.ready
  healthy : t.sup.healthy = s.sup.healthy

namespace AccessKept

theorem refl (s : State) : AccessKept s s := ⟨id, rfl, rfl⟩

theorem trans {s t u : State} (h : AccessKept s t) (k : AccessKept t u) : AccessKept s u :=
  ⟨fun a => k.access (h.access a), k.ready.trans h.ready, k.healthy.trans h.healthy⟩

theorem before {s t u : State} (k : AccessKept t u) (h : AccessKept s t) : AccessKept s u :=
  h.trans k

theorem ite {p : Prop} [Decidable p] {s t u : State} (h : p → AccessKept s t)
    (k : ¬p → AccessKept s u) : AccessKept s (if p then t else u) := by
  by_cases c : p
  · rw [if_pos c]; exact h c
  · rw [if_neg c]; exact k c

theorem of_calm {s t : State} (h : Calm s t) : AccessKept s t :=
  ⟨fun a => by rw [h.link]; exact a, by rw [h.sup], by rw [h.sup]⟩

theorem of_side {s t : State} (h : Side s t) : AccessKept s t :=
  ⟨fun a => by rw [h.link]; exact a, by rw [h.sup], by rw [h.sup]⟩

/-- The link enters a state of channel access. -/
theorem setLink {s : State} {x : Link} (h : channelAccess x.state = true) :
    AccessKept s (s.setLink x) := ⟨fun _ => h, rfl, rfl⟩

theorem raiseFactor (f : Factor) (s : State) : AccessKept s (raiseFactor f s) :=
  of_side (raiseFactor_side f s)

theorem rxIgnored (s : State) : AccessKept s (rxIgnored s) := by
  have bad : AccessKept s (badFrame s) := by
    unfold badFrame
    exact ite (fun _ => before (raiseFactor _ _) ⟨id, rfl, rfl⟩) (fun _ => ⟨id, rfl, rfl⟩)
  unfold Machine.rxIgnored
  split
  · exact bad
  · exact bad
  · exact bad
  all_goals exact ⟨id, rfl, rfl⟩

theorem startKeyup (s : State) : AccessKept s (startKeyup s) :=
  before (setLink rfl) (before (t := Machine.rxIgnored s) ⟨id, rfl, rfl⟩ (rxIgnored s))

theorem applyChannel (s : State) : AccessKept s (applyChannel s) :=
  before (setLink rfl) (before (t := Machine.rxIgnored s) ⟨id, rfl, rfl⟩ (rxIgnored s))

theorem drawFor (e : Entry) (s : State) : AccessKept s (drawFor e s) := by
  have drawn {x : Link} (h : channelAccess x.state = true) :
      AccessKept s (countDrawn (s.setLink x)) := ⟨fun _ => h, rfl, rfl⟩
  exact ite (fun _ => before (startKeyup _) (drawn rfl)) (fun _ => drawn rfl)

theorem contendFor (e : Entry) (s : State) : AccessKept s (contendFor e s) :=
  before (drawFor e _) ⟨id, rfl, rfl⟩

theorem listenReact (s : State) : AccessKept s (listenReact s) := by
  refine ite (fun _ => applyChannel s) (fun _ => ?_)
  split
  · exact contendFor _ s
  · exact refl s

theorem contendReact (s : State) : AccessKept s (contendReact s) := by
  unfold Machine.contendReact
  split
  · split
    · exact contendFor _ s
    · exact before (listenReact _) (setLink rfl)
  · split
    · exact ite (fun _ => drawFor _ s) (fun _ => refl s)
    · exact refl s

theorem linkReact (s : State) : AccessKept s (linkReact s) := by
  unfold Machine.linkReact
  split
  · exact listenReact s
  · exact before (ite (fun _ => raiseFactor _ _) (fun _ => refl _)) (contendReact s)
  · exact refl s

theorem insertNew (cls : UpClass) (body : List Byte) (tr ca : Bool) (ref : OwnerRef) (s : State) :
    AccessKept s (insertNew cls body tr ca ref s).1 := by
  unfold Machine.insertNew
  split
  · exact before (linkReact _) ⟨id, rfl, rfl⟩
  · exact refl s

theorem offerEntry (cls : UpClass) (body : List Byte) (tr ca : Bool) (ref : OwnerRef) (s : State) :
    AccessKept s (offerEntry cls body tr ca ref s).1 := by
  unfold Machine.offerEntry
  split
  · exact refl s
  split
  · exact refl s
  split
  · split
    · split
      · exact before (insertNew _ _ _ _ _ _)
          (of_calm ((removeEntry_calm _ s).trans (tellDisplaced_calm _ _)))
      · exact refl s
    · exact refl s
  · exact insertNew _ _ _ _ _ s

theorem tripTest (s : State) : AccessKept s (tripTest s) := by
  unfold Machine.tripTest
  split
  · exact ite (fun _ => offerEntry _ _ _ _ _ s) (fun _ => refl s)
  · exact refl s

theorem offerAlarm (k : AlarmKind) (s : State) : AccessKept s (offerAlarm k s) := by
  unfold Machine.offerAlarm
  split
  · split <;> exact ⟨id, rfl, rfl⟩
  · have h := offerEntry .alarm (k.body s) k.isTracking k.isCancelled .none s
    exact ⟨h.access, h.ready, h.healthy⟩

theorem resumeCall (s : State) : AccessKept s (resumeCall s) := by
  unfold Machine.resumeCall
  split
  · have h := offerAlarm .call (s.setEmerg { s.emerg with attempt := 1 })
    exact ⟨h.access, h.ready, h.healthy⟩
  · exact ⟨id, rfl, rfl⟩
  · have h := offerAlarm .tracking (s.setEmerg { s.emerg with
      trackCount := satAdd Config.max16 s.emerg.trackCount 1 })
    exact ⟨h.access, h.ready, h.healthy⟩
  · exact refl s
  · exact refl s

end AccessKept

/-- An entry into LISTEN may go on to another state of channel access at once (R66, R74). -/
theorem enterListen_access (s : State) : channelAccess (enterListen s).link.state = true ∧
    (enterListen s).sup.ready = s.sup.ready ∧ (enterListen s).sup.healthy = s.sup.healthy :=
  ⟨(AccessKept.listenReact _).access rfl, (AccessKept.listenReact _).ready,
    (AccessKept.listenReact _).healthy⟩

/-- A radio whose RDY is high enters channel access with its healthy timer started (R91, R96). -/
theorem rdyUp_access (s : State) : channelAccess (rdyUp s).link.state = true ∧
    (rdyUp s).sup.ready = none ∧ (rdyUp s).sup.healthy = some 60 := by
  obtain ⟨access, ready, healthy⟩ := enterListen_access (reportLink .powerOnWait .listen .rdy 0
    (s.setSup { s.sup with ready := none, healthy := some Config.healthySeconds }))
  rw [(reportLink_calm _ _ _ _ _).sup] at ready healthy
  exact ⟨access, ready, healthy⟩

/-! ### RESET_RELEASE (R167; log entry 16) -/

theorem exec_resetRelease {s : State} (h : s.phase ≠ .running) :
    exec .resetRelease s = .next (releaseReset s) := congrArg Host.Outcome.next (if_neg h)

theorem sampleLines_eq (s : State) : sampleLines s =
    ((s.setPath { s.path with base := some (strapBase s.pins) }).setEmerg
      (if s.phase = .fullReset then { s.emerg with armed := s.pins.esw } else s.emerg)).setPhase
        .running := by
  unfold sampleLines
  simp only
  split <;> rfl

/-- Sampling the lines touches the switch's arming alone in the emergency controller. -/
theorem sampleLines_emerg (s : State) : (sampleLines s).emerg.box = s.emerg.box ∧
    (sampleLines s).emerg.state = s.emerg.state := by
  rw [sampleLines_eq]
  simp only [State.setPhase_emerg, State.setEmerg_emerg]
  split <;> exact ⟨rfl, rfl⟩

theorem startSupervisor_offline {s : State} (h : s.settings.accepted.cab = 0) :
    startSupervisor s = produce 0
      (.linkState .offline .offline .release s.sup.cycles s.sup.override)
      (s.setLink { s.link with state := .offline }) := if_pos h

theorem startSupervisor_waits {s : State} (h : s.settings.accepted.cab ≠ 0) :
    startSupervisor s = produce 0
      (.linkState .offline .powerOnWait .release s.sup.cycles s.sup.override)
      ((s.setSup { s.sup with ready := some 5 }).setLink { s.link with state := .powerOnWait }) :=
  if_neg h

theorem checkReady_still (s : State) : Still s (checkReady s) :=
  Still.ite (fun _ => rdyUp_still s) (fun _ => Still.refl s)

theorem checkReady_low {s : State} (h : s.link.state ≠ .powerOnWait ∨ s.pins.rdy = false) :
    checkReady s = s := by
  refine if_neg ?_
  rintro ⟨waits, high⟩
  rcases h with h | h
  · exact h waits
  · rw [h] at high
    cases high

theorem checkReady_high {s : State} (waits : s.link.state = .powerOnWait)
    (high : s.pins.rdy = true) : checkReady s = rdyUp s := if_pos ⟨waits, high⟩

/-- A held access changes the path alone while the initial writes are not done. -/
theorem resumeAccess_path {s : State} (h : s.agent.initial ≠ .done) :
    ∃ p, resumeAccess s = s.setPath p ∧ p.base = s.path.base := by
  have held (a : Access) (st : AccessStage) :
      ∃ p, holdAccess a st s = s.setPath p ∧ p.base = s.path.base := ⟨_, rfl, rfl⟩
  unfold resumeAccess
  split
  · split
    · unfold classify
      split
      · split
        · split <;> exact held _ _
        · exact held _ _
      · exact held _ _
    · exact ⟨_, rfl, rfl⟩
  · exact ⟨_, rfl, rfl⟩

/-! ### What a release leaves alone -/

/-- What the blocks started by a release keep of the state of the sampled lines. -/
structure ReleaseKept (s t : State) : Prop where
  phase : t.phase = s.phase
  base : t.path.base = s.path.base
  meter : t.meter = s.meter
  clock : t.clock = s.clock
  secs : t.secs = s.secs
  mem : t.mem = s.mem
  accepted : t.settings.accepted = s.settings.accepted
  result : t.settings.result = s.settings.result
  openTrip : t.trip.openTrip = s.trip.openTrip
  shift : t.trip.shift = s.trip.shift
  next : t.trip.next = s.trip.next
  logIndex : t.trip.logIndex = s.trip.logIndex
  box : t.emerg.box = s.emerg.box

namespace ReleaseKept

theorem trans {s t u : State} (h : ReleaseKept s t) (k : ReleaseKept t u) : ReleaseKept s u :=
  ⟨k.phase.trans h.phase, k.base.trans h.base, k.meter.trans h.meter, k.clock.trans h.clock,
   k.secs.trans h.secs, k.mem.trans h.mem, k.accepted.trans h.accepted, k.result.trans h.result,
   k.openTrip.trans h.openTrip, k.shift.trans h.shift, k.next.trans h.next,
   k.logIndex.trans h.logIndex, k.box.trans h.box⟩

theorem of_quiet {s t : State} (h : Quiet s t) : ReleaseKept s t :=
  ⟨h.phase, congrArg Path.base h.path, h.meter, h.clock, h.secs, h.mem, h.accepted, h.result,
   h.openTrip, h.shift, h.next, h.logIndex, h.box⟩

theorem setPath {s : State} {p : Path} (h : p.base = s.path.base) :
    ReleaseKept s (s.setPath p) :=
  ⟨rfl, h, rfl, rfl, rfl, rfl, rfl, rfl, rfl, rfl, rfl, rfl, rfl⟩

theorem setAgent (s : State) (a : Agent) : ReleaseKept s (s.setAgent a) :=
  ⟨rfl, rfl, rfl, rfl, rfl, rfl, rfl, rfl, rfl, rfl, rfl, rfl, rfl⟩

end ReleaseKept

/-- A release up to the restarted holdoff: the lines sampled, the supervisor started, the snapshot latched. -/
def releaseStarted (s : State) : State := restartHoldoff (latch (startSupervisor (sampleLines s)))

/-- The release once R34 has been tested, before the present conditions set their factors. -/
def releaseTested (s : State) : State := tripTest (resumeCall (checkReady (releaseStarted s)))

/-- The end of a release: conditions, initial writes, a held access, the held reports and the port. -/
def releaseEnded (u : State) : State :=
  arbitrate (placeHeld (resumeAccess (beginInitial (presentConditions u))))

theorem releaseReset_eq (s : State) : releaseReset s = releaseEnded (releaseTested s) := rfl

theorem releaseStarted_kept (s : State) : ReleaseKept (sampleLines s) (releaseStarted s) :=
  have latched (u : State) : ReleaseKept u (latch u) := ReleaseKept.setPath rfl
  (ReleaseKept.of_quiet (startSupervisor_quiet _)).trans
    ((latched _).trans (ReleaseKept.of_quiet (restartHoldoff_quiet _)))

theorem releaseTested_kept (s : State) : ReleaseKept (sampleLines s) (releaseTested s) :=
  (releaseStarted_kept s).trans (ReleaseKept.of_quiet
    ((checkReady_quiet _).trans ((resumeCall_quiet _).trans (tripTest_quiet _))))

/-- The end of a release changes the path, the agent, the attention unit, the event queue and the holders of reports alone. -/
theorem releaseEnded_kept (u : State) : ReleaseKept u (releaseEnded u) := by
  have begun : ReleaseKept u (beginInitial (presentConditions u)) :=
    (ReleaseKept.of_quiet (presentConditions_quiet u)).trans (ReleaseKept.setAgent _ _)
  obtain ⟨p, hp, pb⟩ := resumeAccess_path (s := beginInitial (presentConditions u))
    (by exact InitialWrites.noConfusion)
  have resumed : ReleaseKept u (resumeAccess (beginInitial (presentConditions u))) := by
    rw [hp]
    exact begun.trans (ReleaseKept.setPath pb)
  obtain ⟨g, hg, gb, -⟩ :=
    arbitrate_path (placeHeld (resumeAccess (beginInitial (presentConditions u))))
  rw [releaseEnded, hg]
  exact resumed.trans ((ReleaseKept.of_quiet (placeHeld_quiet _)).trans (ReleaseKept.setPath gb))

/-- The end of a release leaves the link's state and the supervisor alone. -/
theorem releaseEnded_link (u : State) : (releaseEnded u).link.state = u.link.state ∧
    (releaseEnded u).sup = u.sup := by
  have resumed := resumeAccess_side (beginInitial (presentConditions u))
  have placed := placeHeld_calm (resumeAccess (beginInitial (presentConditions u)))
  have granted := arbitrate_side (placeHeld (resumeAccess (beginInitial (presentConditions u))))
  rw [releaseEnded]
  refine ⟨?_, ?_⟩
  · rw [granted.link, placed.link, resumed.link]
    rfl
  · rw [granted.sup, placed.sup, resumed.sup]
    rfl

/-- The snapshot and the holdoff leave what the supervisor's start gave to link, supervisor and lines. -/
theorem releaseStarted_calm (s : State) :
    Calm (startSupervisor (sampleLines s)) (releaseStarted s) := ⟨rfl, rfl, rfl, rfl⟩

theorem releaseStarted_offline {s : State} (h : s.settings.accepted.cab = 0) :
    (releaseStarted s).link.state = .offline := by
  have started := startSupervisor_offline (s := sampleLines s) (by rw [sampleLines_eq]; exact h)
  rw [(releaseStarted_calm s).link, started, (produce_calm _ _ _).link]
  rfl

theorem releaseStarted_waits {s : State} (h : s.settings.accepted.cab ≠ 0) :
    (releaseStarted s).link.state = .powerOnWait ∧
      (releaseStarted s).sup = { s.sup with ready := some 5 } := by
  have started := startSupervisor_waits (s := sampleLines s) (by rw [sampleLines_eq]; exact h)
  rw [(releaseStarted_calm s).link, (releaseStarted_calm s).sup, started,
    (produce_calm _ _ _).link, (produce_calm _ _ _).sup, sampleLines_eq]
  exact ⟨rfl, rfl⟩

theorem releaseStarted_pins (s : State) : (releaseStarted s).pins = s.pins := by
  have lines : (sampleLines s).pins = s.pins := by rw [sampleLines_eq]; rfl
  rw [(releaseStarted_calm s).pins, ← lines]
  unfold startSupervisor
  split <;> exact (reportLink_calm _ _ _ _ _).pins

theorem checkReady_release_low {s : State}
    (h : s.settings.accepted.cab = 0 ∨ s.pins.rdy = false) :
    checkReady (releaseStarted s) = releaseStarted s := by
  refine checkReady_low ?_
  rcases h with cab | low
  · exact Or.inl (by rw [releaseStarted_offline cab]; exact LinkState.noConfusion)
  · exact Or.inr (by rw [releaseStarted_pins]; exact low)

theorem checkReady_release_rises {s : State} (cab : s.settings.accepted.cab ≠ 0)
    (high : s.pins.rdy = true) : checkReady (releaseStarted s) = rdyUp (releaseStarted s) :=
  checkReady_high (releaseStarted_waits cab).1 (by rw [releaseStarted_pins]; exact high)

/-- With the link down or waiting, what follows the start leaves link state and supervisor alone. -/
theorem releaseReset_link_calm {s : State} (h : receiving (releaseStarted s).link.state = false)
    (low : checkReady (releaseStarted s) = releaseStarted s) :
    (releaseReset s).link.state = (releaseStarted s).link.state ∧
      (releaseReset s).sup = (releaseStarted s).sup := by
  have resumed := resumeCall_calm h
  have tested := resumed.trans (tripTest_calm (resumed.receiving h))
  obtain ⟨link, sup⟩ := releaseEnded_link (releaseTested s)
  rw [releaseReset_eq, link, sup, releaseTested, low]
  exact ⟨tested.link, tested.sup⟩

/-- With RDY high in POWER_ON_WAIT, what follows the rise keeps the channel access it brings. -/
theorem releaseReset_link_access {s : State}
    (high : checkReady (releaseStarted s) = rdyUp (releaseStarted s)) :
    channelAccess (releaseReset s).link.state = true ∧ (releaseReset s).sup.ready = none ∧
      (releaseReset s).sup.healthy = some 60 := by
  obtain ⟨access, ready, healthy⟩ := rdyUp_access (releaseStarted s)
  have kept : AccessKept (rdyUp (releaseStarted s)) (releaseTested s) := by
    rw [releaseTested, high]
    exact (AccessKept.resumeCall _).trans (AccessKept.tripTest _)
  obtain ⟨link, sup⟩ := releaseEnded_link (releaseTested s)
  rw [releaseReset_eq, link, sup]
  exact ⟨kept.access access, kept.ready.trans ready, kept.healthy.trans healthy⟩

/-- The link of a release by the cab number and the level of RDY (R91). -/
theorem releaseReset_link (s : State) :
    (s.settings.accepted.cab = 0 → (releaseReset s).link.state = .offline) ∧
    (s.settings.accepted.cab ≠ 0 → s.pins.rdy = false →
      (releaseReset s).link.state = .powerOnWait ∧ (releaseReset s).sup.ready = some 5) ∧
    (s.settings.accepted.cab ≠ 0 → s.pins.rdy = true →
      channelAccess (releaseReset s).link.state = true ∧ (releaseReset s).sup.ready = none ∧
        (releaseReset s).sup.healthy = some 60) := by
  refine ⟨fun cab => ?_, fun cab low => ?_, fun cab high =>
    releaseReset_link_access (checkReady_release_rises cab high)⟩
  · have offline := releaseStarted_offline cab
    have calm := releaseReset_link_calm (by rw [offline]; rfl) (checkReady_release_low (Or.inl cab))
    exact calm.1.trans offline
  · obtain ⟨waits, sup⟩ := releaseStarted_waits cab
    obtain ⟨link, timers⟩ :=
      releaseReset_link_calm (by rw [waits]; rfl) (checkReady_release_low (Or.inr low))
    rw [link, timers, waits, sup]
    exact ⟨rfl, rfl⟩

/-- The initial writes of a release carry the retained log index, the last commit result and the black box (R168). -/
theorem initialWords_release (s : State) : initialWords (presentConditions (releaseTested s)) =
    [(0x0044, 0), (0x0048, 0), (0x0050, 0), (0x0054, 0),
      (0x005C, resultWord s.settings.result), (0x0058, w32 s.trip.logIndex)] ++
    (wordsOf (boxBytes s.emerg.box)).zipIdx.map (fun p => (0x4000 + 4 * p.2, p.1)) := by
  have kept := (releaseTested_kept s).trans (ReleaseKept.of_quiet (presentConditions_quiet _))
  rw [initialWords, kept.result, kept.logIndex, kept.box, (sampleLines_emerg s).1, sampleLines_eq]
  rfl

/-- The call as a release finds it goes on by its state (R155). -/
theorem resumeCall_chain {s c : State} (state : c.emerg.state = s.emerg.state)
    (accepted : c.settings.accepted = s.settings.accepted) :
    (s.emerg.state = .quiet ∨ s.emerg.state = .exhausted → resumeCall c = c) ∧
    (s.emerg.state = .calling → ∃ v,
      v = offerAlarm .call (c.setEmerg { c.emerg with attempt := 1 }) ∧ resumeCall c =
        v.setEmerg { v.emerg with repeatTimer := some s.settings.accepted.repeatInterval }) ∧
    (s.emerg.state = .cooldown → resumeCall c =
      c.setEmerg { c.emerg with cooldownTimer := some s.settings.accepted.cooldown }) ∧
    (s.emerg.state = .tracking → ∃ v,
      v = offerAlarm .tracking (c.setEmerg { c.emerg with
        trackCount := min (c.emerg.trackCount + 1) 65535 }) ∧ resumeCall c =
          v.setEmerg { v.emerg with trackTimer := some s.settings.accepted.trackInterval }) := by
  rw [← state, ← accepted]
  have alarm (k : AlarmKind) (x : Emergency) : (offerAlarm k (c.setEmerg x)).settings.accepted =
      c.settings.accepted := (offerAlarm_quiet k _).accepted
  refine ⟨fun h => ?_, fun h => ⟨_, rfl, ?_⟩, fun h => ?_, fun h => ⟨_, rfl, ?_⟩⟩
  · rcases h with h | h <;> rw [resumeCall, h]
  · rw [resumeCall, h, ← alarm .call]
  · rw [resumeCall, h]
  · rw [resumeCall, h, trackNow, ← alarm .tracking]
    rfl

theorem startSupervisor_trip (s : State) : (startSupervisor s).trip = s.trip := by
  unfold startSupervisor
  split <;> exact produce_trip _ _ _

/-- A running holdoff restarts as it was found at the release (R37). -/
theorem releaseStarted_eq (s : State) : releaseStarted s =
    (latch (startSupervisor (sampleLines s))).setTrip
      { (latch (startSupervisor (sampleLines s))).trip with
        holdoff := s.trip.holdoff.map (fun _ => 60) } := by
  have trip : (latch (startSupervisor (sampleLines s))).trip = s.trip :=
    (startSupervisor_trip _).trans (by rw [sampleLines_eq]; rfl)
  rw [releaseStarted, restartHoldoff, trip]
  rfl

/-- The call and the settings are still as the release found them when the call resumes. -/
theorem checkReady_release (s : State) :
    (checkReady (releaseStarted s)).emerg.state = s.emerg.state ∧
    (checkReady (releaseStarted s)).settings.accepted = s.settings.accepted := by
  have started : (releaseStarted s).emerg.state = s.emerg.state :=
    (startSupervisor_still (sampleLines s)).em.trans (sampleLines_emerg s).2
  have accepted : (releaseStarted s).settings.accepted = s.settings.accepted :=
    (releaseStarted_kept s).accepted.trans (by rw [sampleLines_eq]; rfl)
  exact ⟨(checkReady_still _).em.trans started, (checkReady_quiet _).accepted.trans accepted⟩

/-- A RDY already high brings its own LINK_STATE (R91; log entry 37). -/
theorem checkReady_release_high {s : State} (cab : s.settings.accepted.cab ≠ 0)
    (high : s.pins.rdy = true) : checkReady (releaseStarted s) = enterListen (produce 0
      (.linkState .powerOnWait .listen .rdy s.sup.cycles s.sup.override)
      ((releaseStarted s).setSup
        { (releaseStarted s).sup with ready := none, healthy := some 60 })) := by
  obtain ⟨-, sup⟩ := releaseStarted_waits cab
  have cycles : (releaseStarted s).sup.cycles = s.sup.cycles := by rw [sup]
  have mark : (releaseStarted s).sup.override = s.sup.override := by rw [sup]
  rw [checkReady_release_rises cab high, ← cycles, ← mark]
  rfl

/-- Settles O5: the states of a release in the model's order, what they keep of the sampled lines, and the link by cab number and RDY. -/
theorem releaseStartsTheBlocks : Obligations.ReleaseStartsTheBlocks := by
  intro s reset
  have z := sampleLines_eq s
  obtain ⟨state, accepted⟩ := checkReady_release s
  obtain ⟨idle, calling, cooldown, tracking⟩ := resumeCall_chain state accepted
  have kept := (releaseTested_kept s).trans (releaseEnded_kept (releaseTested s))
  rw [← releaseReset_eq] at kept
  have box := kept.box.trans (sampleLines_emerg s).1
  refine ⟨sampleLines s, startSupervisor (sampleLines s), latch (startSupervisor (sampleLines s)),
    releaseStarted s, checkReady (releaseStarted s), resumeCall (checkReady (releaseStarted s)),
    releaseReset s, _, rfl, z, fun cab => ?_, fun cab => ?_, rfl, releaseStarted_eq s,
    checkReady_release_low, checkReady_release_high, idle, calling, cooldown, tracking,
    ⟨presentConditions (releaseTested s), rfl, ?_⟩, exec_resetRelease reset, ?_⟩
  · rw [startSupervisor_offline (by rw [z]; exact cab), z]
    rfl
  · rw [startSupervisor_waits (by rw [z]; exact cab), z]
    rfl
  · rw [releaseReset_eq, releaseEnded, beginInitial, initialWords_release]
  · rw [z] at kept
    exact ⟨kept.phase, kept.base, kept.meter, kept.clock, kept.secs, kept.mem, kept.accepted,
      kept.openTrip, kept.shift, kept.next, box, releaseReset_link s⟩

end Sys2Proof.Machine

namespace Sys2Proof.Machine

/-! ### The output lines (R43, R65, R76, R90, R134, R178) -/

theorem channelAccess_iff (l : LinkState) : channelAccess l = true ↔ l = .listen ∨ l = .contend ∨
    l = .keyup ∨ l = .sending ∨ l = .tail ∨ l = .turnaround ∨ l = .settle := by
  cases l <;> decide

theorem ptt_iff (s : State) : ptt s = true ↔
    s.link.state = .keyup ∨ s.link.state = .sending ∨ s.link.state = .tail := by
  simp only [ptt, Bool.or_eq_true, decide_eq_true_eq, or_assoc]

theorem rpwr_iff (s : State) : rpwr s = true ↔
    s.link.state = .powerOnWait ∨ channelAccess s.link.state = true := by
  simp only [rpwr, Bool.or_eq_true, decide_eq_true_eq]

/-- PTT is asserted in powered states only. -/
theorem rpwr_of_ptt {s : State} (h : ptt s = true) : rpwr s = true := by
  rw [rpwr_iff, channelAccess_iff]
  rcases (ptt_iff s).1 h with h | h | h <;> simp [h]

/-- Two bit vectors have a set bit in common exactly where their conjunction is not 0. -/
theorem and_ne_zero_iff {w : Nat} (x y : BitVec w) :
    x &&& y ≠ 0 ↔ ∃ i, i < w ∧ x.getLsbD i = true ∧ y.getLsbD i = true := by
  rw [← not_iff_not]
  simp only [not_exists, not_and, Bool.not_eq_true, ne_eq, not_not]
  constructor
  · intro h i _ hx
    have bit := congrArg (·.getLsbD i) h
    simpa [hx] using bit
  · intro h
    refine BitVec.eq_of_getLsbD_eq fun i hi => ?_
    cases hx : x.getLsbD i <;> simp [hx, h i hi]

theorem attnLine_iff (s : State) : attnLine s = true ↔ ∃ i, i < 9 ∧
    s.attn.factors.getLsbD i = true ∧ s.attn.enables.getLsbD i = true := by
  rw [attnLine, bne_iff_ne]
  exact and_ne_zero_iff _ _

theorem txdLine_idle {s : State} (h : s.link.state ≠ .sending) (n : Nat) : txdLine n s = true :=
  if_neg h

theorem txdLine_sending {s : State} (h : s.link.state = .sending) (n : Nat) : txdLine n s =
    (s.link.tx.flatMap (charBits s.settings.accepted)).getD n true := if_pos h

/-! ### The form of a character (R43) -/

/-- The data bits of a character in the order they are sent. -/
def dataBits (st : Settings) (b : Byte) : List Bool :=
  (List.range 8).map (fun i => (dataByte st b).getLsbD i)

theorem dataBits_getD (st : Settings) (b : Byte) {i : Nat} (h : i < 8) :
    (dataBits st b).getD i false = b.getLsbD (if st.msbFirst = true then 7 - i else i) := by
  have bit : (dataBits st b).getD i false = (dataByte st b).getLsbD i := by
    simp [dataBits, List.getD_eq_getElem?_getD, h]
  rw [bit, dataByte]
  split
  · rw [BitVec.getLsbD_reverse, BitVec.getMsbD_eq_getLsbD, decide_eq_true h, Bool.true_and]
  · rfl

theorem countP_dataBits (st : Settings) (b : Byte) :
    (dataBits st b).countP id = ones (dataByte st b) := by
  rw [dataBits, ones, List.countP_map]
  rfl

/-- The order of the bits leaves the number of 1s as it is. -/
theorem ones_dataByte (st : Settings) (b : Byte) : ones (dataByte st b) = ones b := by
  rw [dataByte]
  split
  · have reversed : (List.range 8).map (fun i => b.reverse.getLsbD i) =
        ((List.range 8).map (fun i => b.getLsbD i)).reverse := by
      simp [List.range_succ, BitVec.getLsbD_reverse, BitVec.getMsbD_eq_getLsbD]
    have counted (x : Byte) : ones x = ((List.range 8).map (fun i => x.getLsbD i)).countP id := by
      rw [ones, List.countP_map]
      rfl
    rw [counted, counted, reversed, List.countP_reverse]
  · rfl

/-- Data and parity bit together hold as many 1s, modulo 2, as the parity asks for. -/
theorem countP_withParity (st : Settings) (b : Byte) :
    (dataBits st b ++ [parityBit st.parity b]).countP id =
      ones b + (parityBit st.parity b).toNat := by
  rw [List.countP_append, countP_dataBits, ones_dataByte]
  cases parityBit st.parity b <;> rfl

theorem parity_even {st : Settings} (h : st.parity = .even) (b : Byte) :
    (dataBits st b ++ [parityBit st.parity b]).countP id % 2 = 0 := by
  rw [countP_withParity, h]
  simp only [parityBit]
  rcases Nat.mod_two_eq_zero_or_one (ones b) with k | k
  · simp [k]
  · simp [k]; omega

theorem parity_odd {st : Settings} (h : st.parity = .odd) (b : Byte) :
    (dataBits st b ++ [parityBit st.parity b]).countP id % 2 = 1 := by
  rw [countP_withParity, h]
  simp only [parityBit]
  rcases Nat.mod_two_eq_zero_or_one (ones b) with k | k
  · simp [k]; omega
  · simp [k]

/-- Settles O6: each line by its states, a character by its data bits and its parity bit, the bases by the straps. -/
theorem theLinesFollowTheState : Obligations.TheLinesFollowTheState := by
  refine ⟨fun s => ⟨ptt_iff s, ?_, fun off => ?_, rfl, attnLine_iff s, Option.isSome_iff_exists,
    fun n h => txdLine_idle h n, fun n h => txdLine_sending h n⟩,
    fun st b => ⟨dataBits st b, parityBit st.parity b, rfl, ?_, fun i h => dataBits_getD st b h,
      fun h => parity_even h b, fun h => parity_odd h b⟩,
    fun _ _ _ => rfl, ?_⟩
  · rw [rpwr_iff, channelAccess_iff]
  · rw [Bool.eq_false_iff] at off ⊢
    exact fun h => off (rpwr_of_ptt h)
  · rw [dataBits, List.length_map, List.length_range]
  · refine ⟨fun p h k => ?_, fun p h k => ?_, fun p h k => ?_, fun p h k => ?_⟩ <;>
      rw [strapBase, h, k]

end Sys2Proof.Machine

namespace Sys2Proof.Machine

/-! ### The link's answer to a change of the queue (R66, R67, R69, R74, R87) -/

theorem linkReact_listen {s : State} (h : s.link.state = .listen) :
    linkReact s = listenReact s := by
  rw [linkReact, h]

theorem linkReact_contend {s : State} (h : s.link.state = .contend) :
    linkReact s = congestFactor (contendReact s) := by
  rw [linkReact, h]

theorem linkReact_other {s : State} (h : s.link.state ≠ .listen) (k : s.link.state ≠ .contend) :
    linkReact s = s :=
  linkReact_of_not_receiving (by rw [Bool.eq_false_iff, Ne, receiving_iff, not_or]; exact ⟨h, k⟩)

/-- A pending channel is applied where no frame is in assembly (R74). -/
theorem listenReact_applies {s : State} (h : s.link.pendingChannel ≠ none)
    (k : noFrameInAssembly s = true) : listenReact s = applyChannel s :=
  if_pos ⟨Option.isSome_iff_ne_none.2 h, k⟩

/-- No pending channel may be applied: the first QUEUED entry is contended for (R66). -/
theorem listenReact_waits {s : State}
    (h : s.link.pendingChannel = none ∨ noFrameInAssembly s = false) : listenReact s =
      match firstQueued s with
      | some e => contendFor e s
      | none => s := by
  refine if_neg ?_
  rintro ⟨pending, free⟩
  rcases h with h | h
  · rw [h] at pending
    cases pending
  · rw [h] at free
    cases free

theorem listenReact_idle {s : State}
    (h : s.link.pendingChannel = none ∨ noFrameInAssembly s = false)
    (q : firstQueued s = none) : listenReact s = s := by
  rw [listenReact_waits h, q]

theorem listenReact_contends {s : State} {e : Entry}
    (h : s.link.pendingChannel = none ∨ noFrameInAssembly s = false)
    (q : firstQueued s = some e) : listenReact s = contendFor e s := by
  rw [listenReact_waits h, q]

/-- An entry of a higher priority than the target's preempts it (R69). -/
theorem contendReact_preempts {s : State} {t e : Entry} (ht : queuedTarget s = some t)
    (he : firstQueued s = some e) (h : e.cls.priority < t.cls.priority) :
    contendReact s = drawFor e s := by
  simp only [contendReact, ht, he, if_pos h]

theorem contendReact_stays {s : State} {t e : Entry} (ht : queuedTarget s = some t)
    (he : firstQueued s = some e) (h : t.cls.priority ≤ e.cls.priority) : contendReact s = s := by
  simp only [contendReact, ht, he, if_neg (Nat.not_lt.2 h)]

/-- The target has left and another entry is QUEUED (R69). -/
theorem contendReact_next {s : State} {e : Entry} (ht : queuedTarget s = none)
    (he : firstQueued s = some e) : contendReact s = contendFor e s := by
  simp only [contendReact, ht, he]

/-- The target has left and no entry is QUEUED: back to LISTEN (R69). -/
theorem contendReact_listens {s : State} (ht : queuedTarget s = none)
    (he : firstQueued s = none) :
    contendReact s = listenReact (s.setLink { s.link.idle with state := .listen }) := by
  simp only [contendReact, ht, he]

/-- CONGEST is a condition of CONTEND alone (R87). -/
theorem congestFactor_elsewhere {s : State} (h : s.link.state ≠ .contend) : congestFactor s = s :=
  if_neg fun active => h ((congestActive_iff s).1 active).1

theorem applyChannel_state (s : State) : (applyChannel s).link.state = .settle := rfl

/-- The draw is below 2 for an ALARM and below the window of R67 for the other classes. -/
theorem drawCount_lt (e : Entry) (s : State) :
    (e.cls = .alarm → drawCount e s < 2) ∧
    (e.cls ≠ .alarm → drawCount e s < 2 ^ min (s.settings.accepted.backoffMin + e.attempts)
      s.settings.accepted.backoffMax) := by
  refine ⟨fun h => ?_, fun h => ?_⟩
  · rw [drawCount, h]
    exact Nat.mod_lt _ Nat.two_pos
  · have other : drawCount e s = Config.backoffDraw s.book.drawn %
        2 ^ min (s.settings.accepted.backoffMin + e.attempts) s.settings.accepted.backoffMax := by
      unfold drawCount
      split
      · rename_i alarm
        exact absurd alarm h
      · rfl
    rw [other]
    exact Nat.mod_lt _ (Nat.two_pow_pos _)

/-- The link in CONTEND for an entry with its draw counted, before CD is asked. -/
def drawn (e : Entry) (s : State) : State := countDrawn (s.setLink { s.link with
  state := .contend, target := some e.seq, backoff := drawCount e s,
  slotTimer := if s.pins.cd then none else some s.settings.accepted.slotTime })

theorem drawFor_keys {e : Entry} {s : State} (cd : s.pins.cd = false) (h : drawCount e s = 0) :
    drawFor e s = startKeyup (drawn e s) := if_pos ⟨cd, h⟩

theorem drawFor_waits {e : Entry} {s : State} (h : s.pins.cd = true ∨ drawCount e s ≠ 0) :
    drawFor e s = drawn e s := by
  refine if_neg ?_
  rintro ⟨cd, zero⟩
  rcases h with h | h
  · rw [h] at cd
    cases cd
  · exact h zero

/-- Settles O24: LISTEN and CONTEND by what is pending and queued, the draw by its class and CD. -/
theorem theLinkContendsForTheFirstQueuedEntry :
    Obligations.TheLinkContendsForTheFirstQueuedEntry := by
  intro s
  refine ⟨linkReact_other, fun st free c pending => ?_,
    fun st waits => ⟨fun q => ?_, fun e q => ?_⟩,
    fun st t ht => ⟨fun e he h => ?_, fun e he h => ?_⟩, fun st ht e he => ?_,
    fun st ht he => ⟨_, rfl, fun waits => ?_, fun pending free => ?_⟩, fun e =>
    ⟨drawCount e s, (drawCount_lt e s).1, (drawCount_lt e s).2, fun cd => ?_, fun cd h => ?_,
      fun cd h => ?_⟩⟩
  · rw [linkReact_listen st, listenReact_applies (by rw [pending]; exact nofun) free]
    exact ⟨rfl, applyChannel_enters pending⟩
  · rw [linkReact_listen st, listenReact_idle waits q]
  · rw [linkReact_listen st, listenReact_contends waits q]
    rfl
  · rw [linkReact_contend st, contendReact_preempts ht he h]
  · rw [linkReact_contend st, contendReact_stays ht he h]
  · rw [linkReact_contend st, contendReact_next ht he]
    rfl
  · rw [linkReact_contend st, contendReact_listens ht he,
      listenReact_idle (by exact waits) (by exact he)]
    exact congestFactor_elsewhere LinkState.noConfusion
  · rw [linkReact_contend st, contendReact_listens ht he,
      listenReact_applies (by exact pending) (by exact free)]
    exact congestFactor_elsewhere (by rw [applyChannel_state]; exact LinkState.noConfusion)
  · rw [drawFor_waits (Or.inl cd), drawn, if_pos cd]
  · rw [drawFor_waits (Or.inr h), drawn, if_neg (by rw [cd]; exact Bool.false_ne_true)]
  · rw [drawFor_keys cd h, drawn, h, if_neg (by rw [cd]; exact Bool.false_ne_true)]
    exact startKeyup_enters _

end Sys2Proof.Machine

namespace Sys2Proof.Machine

/-! ### Frames handed over (R56, R60 to R62) -/

section

variable {s : State} (run : s.phase = .running) (f : DownFrame)

include run

theorem exec_offer : exec (.offer f) s = .next (takeOffer f s) :=
  congrArg Host.Outcome.next (whenRunning_running run)

theorem exec_withdraw : exec (.withdraw f) s = .next (takeWithdraw f s) :=
  congrArg Host.Outcome.next (whenRunning_running run)

theorem exec_award : exec (.award f) s = .next (takeAward f s) :=
  congrArg Host.Outcome.next (whenRunning_running run)

theorem exec_reject : exec (.reject f) s = .next (takeReject f s) :=
  congrArg Host.Outcome.next (whenRunning_running run)

theorem exec_text : exec (.text f) s = .next (takeText f s) :=
  congrArg Host.Outcome.next (whenRunning_running run)

theorem exec_alarmAck : exec (.alarmAck f) s = .next (takeAlarmAck f s) :=
  congrArg Host.Outcome.next (whenRunning_running run)

theorem exec_alarmEnd : exec (.alarmEnd f) s = .next (takeAlarmEnd f s) :=
  congrArg Host.Outcome.next (whenRunning_running run)

theorem exec_ack : exec (.ack f) s = .next (takeAck f s) :=
  congrArg Host.Outcome.next (whenRunning_running run)

theorem exec_poll : exec (.poll f) s = .next (takePoll f s) :=
  congrArg Host.Outcome.next (whenRunning_running run)

theorem exec_channel : exec (.channel f) s = .next (takeChannel f s) :=
  congrArg Host.Outcome.next (whenRunning_running run)

end

/-- A duplicate is acknowledged with the held result and not handed to its owner (R62). -/
theorem handOver_repeated {c : DownClass} {f : DownFrame} {s : State} {r : AckResult}
    (ha : scopeAllowed c (scopeOf f.flags) = true) (hd : ackDuty c (scopeOf f.flags) = true)
    (hr : dedupeFind f.seq s = some r) (owner : State → State) (result : AckResult) :
    handOver c owner result f s = freeBuffer c.code f (offerAck c.code f.seq r s) := by
  rw [handOver, if_pos ha, if_pos hd, hr]

/-- A scope the class does not allow: the frame is discarded and counted (R56, R58). -/
theorem handOver_discarded {c : DownClass} {f : DownFrame}
    (ha : scopeAllowed c (scopeOf f.flags) = false) (owner : State → State) (result : AckResult)
    (s : State) : handOver c owner result f s = freeBuffer c.code f (countUnknown s) :=
  if_neg (by rw [ha]; exact Bool.false_ne_true)

theorem orderOf_eq_some_iff (c : Byte) (f : DownFrame) (n : Nat) (b : Buffer) :
    b.orderOf c f = some n ↔ b = .ready c f n := by
  cases b with
  | free => simp [Buffer.orderOf]
  | filling => simp [Buffer.orderOf]
  | ready d g m => simp [Buffer.orderOf, and_assoc]

theorem orderOf_eq_none_iff (c : Byte) (f : DownFrame) (b : Buffer) :
    b.orderOf c f = none ↔ ∀ n, b ≠ .ready c f n := by
  simp only [Option.eq_none_iff_forall_ne_some, ne_eq, orderOf_eq_some_iff]

theorem freeBuffer_first {c : Byte} {f : DownFrame} {n : Nat} {s : State}
    (a : s.rx.bufA = .ready c f n) (b : ∀ m, s.rx.bufB ≠ .ready c f m) :
    freeBuffer c f s = s.setRx { s.rx with bufA := .free } := by
  rw [freeBuffer, (orderOf_eq_some_iff c f n _).2 a, (orderOf_eq_none_iff c f _).2 b]

theorem freeBuffer_second {c : Byte} {f : DownFrame} {n : Nat} {s : State}
    (b : s.rx.bufB = .ready c f n) (a : ∀ m, s.rx.bufA ≠ .ready c f m) :
    freeBuffer c f s = s.setRx { s.rx with bufB := .free } := by
  rw [freeBuffer, (orderOf_eq_none_iff c f _).2 a, (orderOf_eq_some_iff c f n _).2 b]

theorem freeBuffer_neither {c : Byte} {f : DownFrame} {s : State}
    (a : ∀ n, s.rx.bufA ≠ .ready c f n) (b : ∀ n, s.rx.bufB ≠ .ready c f n) :
    freeBuffer c f s = s := by
  rw [freeBuffer, (orderOf_eq_none_iff c f _).2 a, (orderOf_eq_none_iff c f _).2 b]

theorem offerAck_eq (c q : Byte) (r : AckResult) (s : State) : offerAck c q r s =
    if (offerEntry .ack ([c, q] ++ b1 r.code ++ [0]) false false .none s).2.ok
      then (offerEntry .ack ([c, q] ++ b1 r.code ++ [0]) false false .none s).1
      else countDropped (offerEntry .ack ([c, q] ++ b1 r.code ++ [0]) false false .none s).1 :=
  apply_ite Prod.fst _ _ _

/-- The classes with an ACK duty at CAB scope, on a duplicate (R61, R62). -/
theorem repeatedFrames_acked {f : DownFrame} {s : State} (run : s.phase = .running)
    (cab : scopeOf f.flags = 0) {r : AckResult} (hr : dedupeFind f.seq s = some r) :
    exec (.award f) s = .next (placeHeld (tripTest (freeBuffer 0x13 f
      (offerAck 0x13 f.seq r s)))) ∧
    exec (.withdraw f) s = .next (placeHeld (tripTest (freeBuffer 0x12 f
      (offerAck 0x12 f.seq r s)))) ∧
    exec (.alarmEnd f) s = .next (placeHeld (tripTest (freeBuffer 0x18 f
      (offerAck 0x18 f.seq r s)))) ∧
    exec (.text f) s = .next (freeBuffer 0x15 f (offerAck 0x15 f.seq r s)) ∧
    exec (.tariff f) s = .next (freeBuffer 0x16 f (offerAck 0x16 f.seq r s)) := by
  have acked {c : DownClass} (ha : scopeAllowed c 0 = true) (hd : ackDuty c 0 = true)
      (owner : State → State) (result : AckResult) :
      handOver c owner result f s = freeBuffer c.code f (offerAck c.code f.seq r s) :=
    handOver_repeated (by rw [cab]; exact ha) (by rw [cab]; exact hd) hr owner result
  refine ⟨?_, ?_, ?_, ?_, ?_⟩
  · rw [exec_award run, takeAward, acked rfl rfl]; rfl
  · rw [exec_withdraw run, takeWithdraw, acked rfl rfl]; rfl
  · rw [exec_alarmEnd run, takeAlarmEnd, acked rfl rfl]; rfl
  · rw [exec_text run, takeText, acked rfl rfl]; rfl
  · rw [exec_tariff run, takeTariff, acked rfl rfl]; rfl

/-- Settles O25: duplicates by the classes with an ACK duty, each class with a scope it does not allow, the buffer freed. -/
theorem repeatedFramesAreAckedAndNotHandedOver :
    Obligations.RepeatedFramesAreAckedAndNotHandedOver := by
  intro f s run
  refine ⟨fun cab r hr => repeatedFrames_acked run cab hr, ?_,
    fun c n a b => freeBuffer_first a b, fun c n b a => freeBuffer_second b a,
    fun c a b => freeBuffer_neither a b, fun c q r => offerAck_eq c q r s⟩
  rintro t rfl
  refine ⟨fun h => ?_, fun h => ?_, fun h => ?_, fun h => ?_, fun h => ?_, fun h => ?_, fun h => ?_,
    fun h => ?_, fun h => ?_, fun h => ?_, fun h => ?_⟩
  · rw [exec_offer run, takeOffer, handOver_discarded h]; rfl
  · rw [exec_withdraw run, takeWithdraw, handOver_discarded h]; rfl
  · rw [exec_award run, takeAward, handOver_discarded h]; rfl
  · rw [exec_reject run, takeReject, handOver_discarded h]; rfl
  · rw [exec_text run, takeText, handOver_discarded h]; rfl
  · rw [exec_tariff run, takeTariff, handOver_discarded h]; rfl
  · rw [exec_alarmAck run, takeAlarmAck, handOver_discarded h]; rfl
  · rw [exec_alarmEnd run, takeAlarmEnd, handOver_discarded h]; rfl
  · rw [exec_ack run, takeAck, handOver_discarded h]; rfl
  · rw [exec_poll run, takePoll, handOver_discarded h]; rfl
  · rw [exec_channel run, takeChannel, handOver_discarded h]; rfl

end Sys2Proof.Machine

namespace Sys2Proof.Machine

/-! ### TEXT frames (R131, R132, R134) -/

theorem ownText_bad {f : DownFrame} (h : textBody f.body = none) (s : State) :
    ownText f s = s.setPool { s.pool with malformed := min (s.pool.malformed + 1) 65535 } := by
  rw [ownText, h]
  rfl

theorem ownText_good {f : DownFrame} {canned : Byte} {text : List Byte}
    (h : textBody f.body = some (canned, text)) (s : State) :
    ownText f s = textPulse f (produce 0 (textInPayload f canned text) s) := by
  rw [ownText, h]

theorem textPulse_urgent {f : DownFrame} {s : State} (u : urgentOf f.flags = true)
    (q : s.emerg.state = .quiet) : textPulse f s = pulse 65536 s := if_pos ⟨u, q⟩

theorem textPulse_silent {f : DownFrame} {s : State}
    (h : urgentOf f.flags = false ∨ s.emerg.state ≠ .quiet) : textPulse f s = s := by
  refine if_neg ?_
  rintro ⟨u, q⟩
  rcases h with h | h
  · rw [h] at u
    cases u
  · exact h q

theorem produce_emerg (tag : Half) (p : Payload) (s : State) :
    (produce tag p s).emerg = s.emerg := by
  rw [produce_eq]
  rfl

/-- Table 48: a TEXT body is good where its layout and length agree and it says something (R131). -/
theorem textBody_eq_some_iff (body : List Byte) (canned : Byte) (text : List Byte) :
    textBody body = some (canned, text) ↔
      body.length = 2 + (byteAt body 1).toNat ∧ (byteAt body 1).toNat ≤ 140 ∧
      ((byteAt body 0).toNat ≠ 0 ∨ (byteAt body 1).toNat ≠ 0) ∧ canned = byteAt body 0 ∧
      text = (body.drop 2).map (fun b => b &&& 0x7F) := by
  have zero : byteAt body 0 = 0 ↔ (byteAt body 0).toNat = 0 := BitVec.toNat_eq
  rw [textBody, Option.ite_none_right_eq_some, Option.some.injEq, Prod.mk.injEq, zero,
    not_and_or]
  constructor
  · rintro ⟨⟨-, len, le, speaks⟩, rfl, rfl⟩
    exact ⟨len, le, speaks, rfl, rfl⟩
  · rintro ⟨len, le, speaks, rfl, rfl⟩
    exact ⟨⟨by omega, len, le, speaks⟩, rfl, rfl⟩

/-- Settles O41: the owner by the body, the hand-over by the scope, the body by Table 48. -/
theorem textFramesAreReportedOrCounted : Obligations.TextFramesAreReportedOrCounted := by
  intro f s run
  refine ⟨⟨ownText f s, rfl, fun bad => ownText_bad bad s, fun canned text good =>
    ⟨_, rfl, fun u q => ?_, fun silent => ?_⟩, fun wide => ?_, fun cab new r hr => ?_⟩,
    fun canned text => textBody_eq_some_iff f.body canned text⟩
  · rw [ownText_good good, textPulse_urgent u (by rw [produce_emerg]; exact q)]
    rfl
  · rw [ownText_good good, textPulse_silent (by rw [produce_emerg]; exact silent)]
    rfl
  · have allowed : scopeAllowed .text (scopeOf f.flags) = true ∧
        ackDuty .text (scopeOf f.flags) = false := by
      rcases wide with h | h <;> rw [h] <;> exact ⟨rfl, rfl⟩
    rw [exec_text run, takeText, handOver_without_ack allowed.1 allowed.2]
    rfl
  · rw [exec_text run, takeText, handOver_new (by rw [cab]; rfl) (by rw [cab]; rfl) new, hr]
    rfl

end Sys2Proof.Machine

namespace Sys2Proof.Machine

/-! ### Dispatch's answers to the call (R83, R145, R147) -/

theorem withdrawAlarm_none {s : State} (h : alarmEntry s = none) : withdrawAlarm s = s := by
  rw [withdrawAlarm, h]

theorem withdrawAlarm_some {s : State} {e : Entry} (h : alarmEntry s = some e) :
    withdrawAlarm s = withdrawEntry e.seq s := by
  rw [withdrawAlarm, h]

theorem withdrawEntry_waiting {q : Nat} {e : Entry} {s : State} (h : entryWith q s = some e)
    (k : e.state ≠ .onAir) : withdrawEntry q s = takeOut q s := by
  rw [withdrawEntry, h]
  cases st : e.state with
  | onAir => exact absurd st k
  | queued => simp only [st]
  | awaitAck => simp only [st]

theorem withdrawEntry_onAir {q : Nat} {e : Entry} {s : State} (h : entryWith q s = some e)
    (k : e.state = .onAir) :
    withdrawEntry q s = updateEntry q (fun x => { x with answered := true }) s := by
  rw [withdrawEntry, h]
  simp only [k]

theorem ownAlarmAck_tracks {f : DownFrame} {s : State} (b : f.body = [])
    (h : s.emerg.state = .calling ∨ s.emerg.state = .cooldown ∨ s.emerg.state = .exhausted) :
    ownAlarmAck f s = startTracking s := by
  rw [ownAlarmAck, if_pos b]
  rcases h with h | h | h <;> rw [h]

theorem ownAlarmAck_ignored {f : DownFrame} {s : State}
    (h : f.body ≠ [] ∨ s.emerg.state = .quiet ∨ s.emerg.state = .tracking) :
    ownAlarmAck f s = s := by
  unfold ownAlarmAck
  split
  · rename_i b
    rcases h with h | h | h
    · exact absurd b h
    · rw [h]
    · rw [h]
  · rfl

theorem ownAlarmEnd_ends {f : DownFrame} {s : State} (b : f.body = [])
    (h : s.emerg.state ≠ .quiet) : ownAlarmEnd f s = endCall s := if_pos ⟨b, h⟩

theorem ownAlarmEnd_ignored {f : DownFrame} {s : State}
    (h : f.body ≠ [] ∨ s.emerg.state = .quiet) : ownAlarmEnd f s = s := by
  refine if_neg ?_
  rintro ⟨b, busy⟩
  rcases h with h | h
  · exact h b
  · exact busy h

/-- An ALARM_ACK for this cab has no ACK duty: the owner takes it and R34 is tested. -/
theorem exec_alarmAck_cab {f : DownFrame} {s : State} (run : s.phase = .running)
    (cab : scopeOf f.flags = 0) : exec (.alarmAck f) s =
      .next (placeHeld (tripTest (freeBuffer 0x17 f (ownAlarmAck f s)))) := by
  rw [exec_alarmAck run, takeAlarmAck,
    handOver_without_ack (by rw [cab]; rfl) (by rw [cab]; rfl)]
  rfl

/-- A new ALARM_END for this cab is taken and acknowledged, and R34 is tested. -/
theorem exec_alarmEnd_new {f : DownFrame} {s : State} (run : s.phase = .running)
    (cab : scopeOf f.flags = 0) (new : dedupeFind f.seq s = none) : exec (.alarmEnd f) s =
      .next (placeHeld (tripTest (freeBuffer 0x18 f (dedupeAdd f.seq .taken
        (offerAck 0x18 f.seq .taken (ownAlarmEnd f s)))))) := by
  rw [exec_alarmEnd run, takeAlarmEnd, handOver_new (by rw [cab]; rfl) (by rw [cab]; rfl) new]
  rfl

/-- Settles O47: the owner by the body and the call's state, the withdrawal by the entry's state. -/
theorem dispatchAnswersTheCall : Obligations.DispatchAnswersTheCall := by
  intro f s run cab
  refine ⟨fun b calls => ⟨_, rfl, ?_⟩, fun idle => ?_, fun new => ⟨fun b busy => ⟨_, rfl, ?_⟩,
    fun idle => ?_⟩, withdrawAlarm_none, fun e => withdrawAlarm_some,
    fun q e h k => withdrawEntry_waiting h k, fun q e h k => withdrawEntry_onAir h k,
    fun q r u => rfl⟩
  · rw [exec_alarmAck_cab run cab, ownAlarmAck_tracks b calls]
    rfl
  · rw [exec_alarmAck_cab run cab, ownAlarmAck_ignored idle]
  · rw [exec_alarmEnd_new run cab new, ownAlarmEnd_ends b busy]
    rfl
  · rw [exec_alarmEnd_new run cab new, ownAlarmEnd_ignored idle]

end Sys2Proof.Machine

namespace Sys2Proof.Machine

/-! ### CD, slots and the dwell (R68, R70, R87, R92) -/

theorem exec_cdRise {s : State} (low : s.pins.cd = false) : exec .cdRise s = .next (cdRise s) :=
  congrArg Host.Outcome.next (if_neg (by rw [low]; exact Bool.false_ne_true))

theorem exec_cdFall {s : State} (high : s.pins.cd = true) : exec .cdFall s = .next (cdFall s) :=
  congrArg Host.Outcome.next (if_pos high)

theorem exec_slotEnd {s : State} (contend : s.link.state = .contend)
    (timer : s.link.slotTimer.isSome = true) (low : s.pins.cd = false) :
    exec .slotEnd s = .next (slotEnd s) :=
  congrArg Host.Outcome.next (if_pos ⟨contend, timer, low⟩)

theorem cdRise_receiving {s : State} (h : s.link.state = .listen ∨ s.link.state = .contend) :
    cdRise s = ((s.setPins { s.pins with cd := true }).setSup { s.sup with
      stuckBusy := some s.settings.accepted.busyLimit }).setLink
        { s.link with slotTimer := none } := if_pos ((receiving_iff _).2 h)

theorem cdRise_other {s : State} (h : s.link.state ≠ .listen) (k : s.link.state ≠ .contend) :
    cdRise s = s.setPins { s.pins with cd := true } :=
  if_neg fun r => ((receiving_iff _).1 r).elim h k

/-- CD low and the stuck-busy timer stopped, as a fall of CD leaves them. -/
def quieted (s : State) : State :=
  (s.setPins { s.pins with cd := false }).setSup { s.sup with stuckBusy := none }

theorem cdFall_other {s : State} (h : s.link.state ≠ .contend) : cdFall s = quieted s := if_neg h

theorem cdFall_runs {s : State} (h : s.link.state = .contend) (k : s.link.backoff ≠ 0) :
    cdFall s = (quieted s).setLink { s.link with
      slotTimer := some s.settings.accepted.slotTime } := (if_pos h).trans (if_neg k)

theorem cdFall_keys {s : State} (h : s.link.state = .contend) (k : s.link.backoff = 0) :
    cdFall s = startKeyup (quieted s) := (if_pos h).trans (if_pos k)

theorem slotEnd_runs {s : State} (h : 2 ≤ s.link.backoff) : slotEnd s = s.setLink { s.link with
    backoff := s.link.backoff - 1, slotTimer := some s.settings.accepted.slotTime } :=
  if_neg (Nat.sub_ne_zero_of_lt h)

theorem slotEnd_keys {s : State} (h : s.link.backoff ≤ 1) :
    slotEnd s = startKeyup (s.setLink { s.link with
      backoff := 0, slotTimer := some s.settings.accepted.slotTime }) := by
  have out : s.link.backoff - 1 = 0 := Nat.sub_eq_zero_of_le h
  rw [slotEnd, out]
  exact if_pos rfl

/-- What t shares with s where only lines, receiver, link, supervisor and attention changed. -/
theorem Quiet.restKept {s t : State} (h : Quiet s t) : RestKept s t :=
  ⟨h.phase, h.clock, h.secs, h.meter, h.openTrip, h.next, h.shift, h.logWrite, h.logIndex,
   h.accepted, h.result, h.path, h.agent, h.reader, h.position, h.mem, h.box⟩

/-- Keying changes the link, the stuck-busy timer and what the deframer holds (R45, R70, R92). -/
theorem startKeyup_apart (s : State) :
    (startKeyup s).link = { s.link with
      state := .keyup, slotTimer := none, clock := none, dwellPassed := false,
      keyed := s.link.target, phaseTimer := some s.settings.accepted.keyupDelay } ∧
    (startKeyup s).sup = { s.sup with stuckBusy := none } ∧
    (startKeyup s).uplink = s.uplink ∧ (startKeyup s).offers = s.offers ∧
    (startKeyup s).evw = s.evw := by
  obtain ⟨link, uplink, -, sup, settings⟩ := rxIgnored_apart s
  have side := rxIgnored_radio s
  refine ⟨?_, ?_, uplink, side.offers, side.evw⟩
  · simp only [startKeyup, stopStuckBusy, State.setLink_link, State.setSup_link,
      State.setSup_settings, link, settings]
  · simp only [startKeyup, stopStuckBusy, State.setLink_sup, State.setSup_sup, sup]

theorem exec_congestionDwellEnd {s : State} {n : Nat} (contend : s.link.state = .contend)
    (clock : s.link.clock = some n) (near : s.settings.accepted.dwell ≤ n) :
    exec .congestionDwellEnd s = .next (dwellEnd s) := by
  have passed : dwellNear s = true := by
    rw [dwellNear, clock]
    exact decide_eq_true near
  exact congrArg Host.Outcome.next (if_pos ⟨contend, passed⟩)

theorem exec_congestionDwellEnd_early {s : State} (h : s.link.state ≠ .contend ∨
    s.link.clock = none ∨ ∃ n, s.link.clock = some n ∧ n < s.settings.accepted.dwell) :
    exec .congestionDwellEnd s = .next s := by
  refine congrArg Host.Outcome.next (if_neg ?_)
  rintro ⟨contend, near⟩
  rcases h with h | h | ⟨n, h, early⟩
  · exact h contend
  · rw [dwellNear, h] at near
    cases near
  · rw [dwellNear, h] at near
    exact Nat.not_le.2 early (of_decide_eq_true near)

/-- CONGEST is present once the dwell has passed in CONTEND for a BID or an ALARM (R87). -/
theorem dwellEnd_congest {s : State} {e : Entry} (contend : s.link.state = .contend)
    (target : s.link.target = some e.seq) (entry : entryWith e.seq s = some e) :
    congestActive (s.setLink { s.link with dwellPassed := true }) = true ↔
      e.cls = .bid ∨ e.cls = .alarm := by
  rw [congestActive_iff]
  constructor
  · rintro ⟨-, -, q, x, hq, hx, h⟩
    cases target.symm.trans hq
    cases entry.symm.trans hx
    exact h
  · intro h
    exact ⟨contend, rfl, e.seq, e, target, entry, h⟩

theorem congestFactor_eq (s : State) : congestFactor s = s.setAttn { s.attn with
    factors := if s.phase = .running ∧ congestActive s = true
      then s.attn.factors ||| 0x080#9 else s.attn.factors } := by
  unfold congestFactor
  by_cases active : congestActive s = true
  · rw [if_pos active, raiseFactor_eq]
    simp only [active, and_true]
    rfl
  · rw [if_neg active, if_neg fun h => active h.2]
    rfl

/-- Settles O29: CD and the slot timer by the link's state and its count, the dwell by the clock. -/
theorem backoffRunsWhileTheChannelIsQuiet : Obligations.BackoffRunsWhileTheChannelIsQuiet := by
  intro s
  refine ⟨fun low h => ?_, fun low h k => ?_, fun high h => ?_, fun high h k => ?_,
    fun high h k => ?_, fun h timer low => ⟨fun k => ?_, fun k => ?_⟩,
    fun n h clock near e target entry => ?_, exec_congestionDwellEnd_early⟩
  · rw [exec_cdRise low, cdRise_receiving h]
  · rw [exec_cdRise low, cdRise_other h k]
  · rw [exec_cdFall high, cdFall_other h]
    rfl
  · rw [exec_cdFall high, cdFall_runs h k]
    rfl
  · obtain ⟨link, sup, uplink, offers, evw⟩ := startKeyup_apart (quieted s)
    refine ⟨startKeyup (quieted s), ?_, startKeyup_enters _, link, sup, uplink, offers, evw, ?_⟩
    · rw [exec_cdFall high, cdFall_keys h k]
    · exact (Quiet.trans (Quiet.trans (Quiet.setPins _ _) (Quiet.setSup _ _))
        (startKeyup_quiet _)).restKept
  · rw [exec_slotEnd h timer low, slotEnd_runs k]
  · obtain ⟨link, sup, uplink, offers, evw⟩ := startKeyup_apart (s.setLink { s.link with
      backoff := 0, slotTimer := some s.settings.accepted.slotTime })
    refine ⟨_, by rw [exec_slotEnd h timer low, slotEnd_keys k], startKeyup_enters _, link, sup,
      uplink, offers, evw, ?_⟩
    exact (Quiet.trans (Quiet.setLink _ _) (startKeyup_quiet _)).restKept
  · refine ⟨dwellEnd s, exec_congestionDwellEnd h clock near, ?_, ?_⟩
    · rw [dwellEnd, congestFactor_eq]
      rfl
    · rw [dwellEnd, congestFactor_eq]
      simp only [dwellEnd_congest h target entry, State.setLink_phase, State.setLink_attn,
        State.setAttn_attn]

end Sys2Proof.Machine

namespace Sys2Proof.Machine

/-! ### The end of the keyup delay (R70, R102, R113, R142) -/

theorem exec_keyupDelayEnd {s : State} (h : s.link.state = .keyup) :
    exec .keyupDelayEnd s = .next (keyupEnd s) := congrArg Host.Outcome.next (if_pos h)

theorem keyupEnd_keys {s : State} {e : Entry} (h : entryToKey s = some e) :
    keyupEnd s = keyEntry e s := by
  rw [keyupEnd, h]

theorem keyupEnd_idle {s : State} (h : entryToKey s = none) :
    keyupEnd s = s.setLink { s.link.idle with
      state := .turnaround, phaseTimer := some s.settings.accepted.turnaround } := by
  rw [keyupEnd, h]

/-- Telling the owner that its entry is on air changes the emergency controller or the offer table alone. -/
theorem tellKeyed_sets (e : Entry) (s : State) :
    ∃ m o, tellKeyed e s = (s.setEmerg m).setOffers o ∧ m.box = s.emerg.box := by
  unfold tellKeyed
  split
  · unfold withBidOffer setProgress setOffer
    split
    · split
      · split <;> exact ⟨s.emerg, _, rfl, rfl⟩
      · exact ⟨s.emerg, s.offers, rfl, rfl⟩
    · exact ⟨s.emerg, s.offers, rfl, rfl⟩
  · exact ⟨{ s.emerg with keyedCount := satAdd Config.max16 s.emerg.keyedCount 1 }, s.offers, rfl,
      rfl⟩
  · exact ⟨s.emerg, s.offers, rfl, rfl⟩

theorem tellKeyed_alarm {e : Entry} (h : e.cls = .alarm) (s : State) : tellKeyed e s =
    s.setEmerg { s.emerg with keyedCount := min (s.emerg.keyedCount + 1) 65535 } := by
  rw [tellKeyed, h]
  rfl

theorem withBidOffer_some {e : Entry} {i : Nat} {o : Offer} {s : State} (hr : e.ref = .offer i)
    (ho : s.offers.entries.getD i none = some o) (f : Nat → Offer → State → State) :
    withBidOffer e f s = f i o s := by
  rw [withBidOffer, hr]
  simp only [ho]

theorem tellKeyed_bid {e : Entry} {i : Nat} {o : Offer} {s : State} (h : e.cls = .bid)
    (hr : e.ref = .offer i) (ho : s.offers.entries.getD i none = some o) (hd : o.deferred = none) :
    tellKeyed e s = setOffer i (some { o with progress := some .onAir }) s := by
  rw [tellKeyed, h]
  simp only [withBidOffer_some hr ho, setProgress, hd]
  rfl

theorem tellKeyed_other {e : Entry} (h : e.cls ≠ .alarm) (k : e.cls ≠ .bid) (s : State) :
    tellKeyed e s = s := by
  unfold tellKeyed
  split
  · rename_i c
    exact absurd c k
  · rename_i c
    exact absurd c h
  · rfl

/-- The state in which the owner of a keyed entry is told: the entry is ON_AIR, its attempt counted. -/
def onAir (e : Entry) (s : State) : State := updateEntry e.seq (fun x => x.keyed s) s

theorem keyEntry_eq (e : Entry) (s : State) : keyEntry e s =
    (tellKeyed e (onAir e s)).setLink { s.link with
      state := .sending, target := none, backoff := 0, keyed := some e.seq, phaseTimer := none,
      tx := uplinkChars s.settings.accepted.cab (e.keyed s) } := by
  obtain ⟨m, o, h, -⟩ := tellKeyed_sets e (onAir e s)
  have told : keyEntry e s = (tellKeyed e (onAir e s)).setLink
      { (tellKeyed e (onAir e s)).link with
        state := .sending, target := none, backoff := 0, keyed := some e.seq, phaseTimer := none,
        tx := uplinkChars (tellKeyed e (onAir e s)).settings.accepted.cab (e.keyed s) } := rfl
  rw [told, h]
  rfl

/-- A keyed entry: its queue, its frame on TXD, its owner told, all else as it was. -/
theorem keyEntry_spec (e : Entry) {s t : State} (ht : t = keyEntry e s) :
    t.uplink = { s.uplink with
      entries := s.uplink.entries.map (fun x => if x.seq = e.seq
        then { x with state := .onAir, attempts := x.attempts + 1,
                      body := if x.cls = .status then statusBody s else x.body } else x) } ∧
    t.link = { s.link with
      state := .sending, target := none, backoff := 0, keyed := some e.seq, phaseTimer := none,
      tx := uplinkChars s.settings.accepted.cab
        { e with state := .onAir, attempts := e.attempts + 1,
                 body := if e.cls = .status then statusBody s else e.body } } ∧
    (e.cls = .alarm → t.emerg = { s.emerg with
      keyedCount := min (s.emerg.keyedCount + 1) 65535 } ∧ t.offers = s.offers) ∧
    (∀ i o, e.cls = .bid → e.ref = .offer i → s.offers.entries.getD i none = some o →
      o.deferred = none → t.emerg = s.emerg ∧ t.offers = { s.offers with
        entries := s.offers.entries.set i (some { o with progress := some .onAir }) }) ∧
    (e.cls ≠ .alarm → e.cls ≠ .bid → t.emerg = s.emerg ∧ t.offers = s.offers) ∧
    t.rx = s.rx ∧ t.sup = s.sup ∧ t.pool = s.pool ∧ t.evw = s.evw ∧ t.attn = s.attn ∧
    t.pins = s.pins ∧ RestKept s t := by
  subst ht
  have kept := (keyEntry_quiet e s).restKept
  obtain ⟨m, o, told, -⟩ := tellKeyed_sets e (onAir e s)
  refine ⟨?_, ?_, fun alarm => ?_, fun i b bid ref offer clear => ?_, fun na nb => ?_, ?_⟩
  · rw [keyEntry_eq, told]
    rfl
  · rw [keyEntry_eq]
    rfl
  · rw [keyEntry_eq, tellKeyed_alarm alarm]
    exact ⟨rfl, rfl⟩
  · rw [keyEntry_eq, tellKeyed_bid bid ref (by exact offer) clear]
    exact ⟨rfl, rfl⟩
  · rw [keyEntry_eq, tellKeyed_other na nb]
    exact ⟨rfl, rfl⟩
  · rw [keyEntry_eq, told] at kept ⊢
    exact ⟨rfl, rfl, rfl, rfl, rfl, rfl, kept⟩

/-! ### Frames and bodies on air (R46, R47, R185, Table 48) -/

theorem bytesBE_succ (n v : Nat) : bytesBE (n + 1) v = bytesBE n (v / 256) ++ [BitVec.ofNat 8 v] :=
  List.reverse_cons

theorem b1_bitAt_zero (b : Bool) : b1 (bitAt 0 b) = [if b then 1 else 0] := by
  cases b <;> rfl

/-- The CRC takes its bytes one after another. -/
theorem crc16_append (m : List Byte) (b : Byte) : crc16 (m ++ [b]) = crcByte (crc16 m) b := by
  rw [crc16, crc16, List.foldl_append, List.foldl_cons, List.foldl_nil]

theorem uplinkHeader_eq (cab : Nat) (e : Entry) : uplinkHeader cab e =
    [e.cls.code, BitVec.ofNat 8 (bitAt 3 e.tracking + bitAt 4 e.cancelled),
      BitVec.ofNat 8 (cab / 256), BitVec.ofNat 8 cab, BitVec.ofNat 8 e.seq,
      BitVec.ofNat 8 e.body.length] := rfl

theorem positionBlock_some {s : State} {p : Position} (h : s.position.record = some p) :
    positionBlock s = bytesBE 4 p.latitude.toNat ++ bytesBE 4 p.longitude.toNat ++
      bytesBE 2 p.speed.toNat ++ bytesBE 2 p.heading ++ [if p.fixValid then 1 else 0] ++
      bytesBE 2 s.position.fixAge := by
  rw [positionBlock, h, ← b1_bitAt_zero]

theorem positionBlock_none {s : State} (h : s.position.record = none) :
    positionBlock s = List.replicate 15 0 := by
  rw [positionBlock, h]

theorem alarmBody_eq (st : EmState) (r n : Nat) (s : State) : alarmBody st r n s =
    bytesBE 1 st.code ++ bytesBE 1 r ++ bytesBE 2 n ++ positionBlock s ++
      bytesBE 1 s.meter.state.code ++ bytesBE 4 s.meter.fare ++
      [if (jobId s).isSome then 1 else 0] ++ bytesBE 4 ((jobId s).getD 0).toNat := by
  rw [alarmBody, b1_bitAt_zero]
  rfl

/-- Settles O30: the entry to key by what is queued, the frame and the bodies field by field. -/
theorem keyupKeysTheTargetOrTheFirstQueued : Obligations.KeyupKeysTheTargetOrTheFirstQueued := by
  refine ⟨fun s keyup => ⟨fun e he => ⟨keyEntry e s, ?_, keyEntry_spec e rfl⟩, fun idle => ?_, rfl⟩,
    ?_, rfl, fun m b => ?_, fun n v => ⟨rfl, bytesBE_succ n v⟩, fun s =>
    ⟨fun p => positionBlock_some, positionBlock_none, rfl, fun st r n k h => ?_,
      fun id => ⟨rfl, rfl⟩, fun cls seq r => rfl, fun canned x => rfl⟩⟩
  · rw [exec_keyupDelayEnd keyup, keyupEnd_keys he]
  · rw [exec_keyupDelayEnd keyup, keyupEnd_idle idle]
    rfl
  · rintro cab e m c hm rfl
    have message : uplinkHeader cab e ++ e.body = m := by
      rw [hm, uplinkHeader_eq]
      cases e.cls <;> rfl
    rw [uplinkChars, List.append_assoc _ _ e.body, message]
    rfl
  · refine ⟨fun i => crcBit^[i] (crc16 m ^^^ (b.setWidth 16 <<< 8)), rfl,
      fun i => Function.iterate_succ_apply' _ _ _, ?_⟩
    rw [crc16_append]
    rfl
  · rcases h with ⟨rfl, rfl, rfl, rfl⟩ | ⟨rfl, rfl, rfl, rfl⟩ | ⟨rfl, rfl⟩ <;>
      exact alarmBody_eq _ _ _ s

end Sys2Proof.Machine

namespace Sys2Proof.Machine

/-! ### A character on RXD (R44, R45, R48) -/

/-- The deframer is neither searching for a sync pair nor within one. -/
def inFrame (st : Deframing) : Prop := st ≠ .hunt ∧ st ≠ .syncHalf

theorem exec_rxdCharacter_ignored {s : State} (h : s.link.state ≠ .listen)
    (k : s.link.state ≠ .contend) (bits : DataBits) (parity stop1 stop2 : Bool) :
    exec (.rxdCharacter bits parity stop1 stop2) s = .next s :=
  congrArg Host.Outcome.next (if_neg fun c => ((receiving_iff _).1 c.1).elim h k)

theorem exec_rxdCharacter_unheard (bits : Byte) (parity stop1 stop2 : Bool) (s : State) :
    exec (.rxdCharacter ⟨false, bits⟩ parity stop1 stop2) s = .next s :=
  congrArg Host.Outcome.next (if_neg fun c => Bool.false_ne_true c.2)

section

variable {bits : Byte} {parity stop1 stop2 : Bool} {s : State} {d : Byte} {bad : Bool}
  (hd : d = dataByte s.settings.accepted bits)
  (hb : bad = charIsBad s.settings.accepted d parity stop1 stop2)
  (l : s.link.state = .listen ∨ s.link.state = .contend)

include hd hb l

/-- A character that ends no frame leaves what the deframer makes of it. -/
theorem exec_rxdCharacter_within (h : (deframe d bad s).rx.deframer ≠ .hunt ∨
    s.rx.deframer = .hunt ∨ s.rx.deframer = .syncHalf) :
    exec (.rxdCharacter ⟨true, bits⟩ parity stop1 stop2) s = .next (deframe d bad s) := by
  subst hb hd
  refine congrArg Host.Outcome.next ((if_pos ⟨(receiving_iff _).2 l, rfl⟩).trans (if_neg ?_))
  rintro ⟨ended, noHunt, noHalf⟩
  rcases h with h | h | h
  · exact h ended
  · exact noHunt h
  · exact noHalf h

/-- At a frame's end the link acts, then waiting work is taken (R60, R74; log entry 22). -/
theorem exec_rxdCharacter_ends {t : State} (ht : deframe d bad s = t) (h : t.rx.deframer = .hunt)
    (k : inFrame s.rx.deframer) :
    exec (.rxdCharacter ⟨true, bits⟩ parity stop1 stop2) s = .next (takeWork (linkReact t)) := by
  subst ht hb hd
  exact congrArg Host.Outcome.next
    ((if_pos ⟨(receiving_iff _).2 l, rfl⟩).trans (if_pos ⟨h, k⟩))

end

/-! ### The search for a sync pair and the claim of a buffer (R48, R52) -/

theorem deframe_hunt_sync {s : State} (h : s.rx.deframer = .hunt) {d : Byte} {bad : Bool}
    (hb : bad = false) (hd : d = 0xC3) :
    deframe d bad s = s.setRx { s.rx with deframer := .syncHalf } := by
  rw [deframe, h]
  exact if_pos ⟨hb, hd⟩

theorem deframe_hunt_other {s : State} (h : s.rx.deframer = .hunt) {d : Byte} {bad : Bool}
    (k : bad = true ∨ d ≠ 0xC3) : deframe d bad s = s := by
  rw [deframe, h]
  refine if_neg ?_
  rintro ⟨rfl, rfl⟩
  exact k.elim Bool.false_ne_true fun ne => ne rfl

theorem deframe_syncHalf_claims {s : State} (h : s.rx.deframer = .syncHalf) {d : Byte}
    {bad : Bool} (hb : bad = false) (hd : d = 0x3C) : deframe d bad s = s.setRx (claim s.rx) := by
  rw [deframe, h]
  exact if_pos ⟨hb, hd⟩

theorem deframe_syncHalf_again {s : State} (h : s.rx.deframer = .syncHalf) {d : Byte}
    {bad : Bool} (hb : bad = false) (hd : d = 0xC3) : deframe d bad s = s := by
  rw [deframe, h]
  subst hd
  exact (if_neg fun c => absurd c.2 (by decide)).trans (if_pos ⟨hb, rfl⟩)

theorem deframe_syncHalf_drops {s : State} (h : s.rx.deframer = .syncHalf) {d : Byte}
    {bad : Bool} (k : bad = true ∨ d ≠ 0xC3 ∧ d ≠ 0x3C) :
    deframe d bad s = s.setRx { s.rx with deframer := .hunt } := by
  rw [deframe, h]
  refine (if_neg ?_).trans (if_neg ?_)
  · rintro ⟨rfl, rfl⟩
    exact k.elim Bool.false_ne_true fun ne => ne.2 rfl
  · rintro ⟨rfl, rfl⟩
    exact k.elim Bool.false_ne_true fun ne => ne.1 rfl

theorem claim_first {r : Receiver} (a : r.bufA = .free) : claim r = { r with
    deframer := .header, bufA := .filling, stored := [], charBad := false,
    skipped := 0, skipLength := 0 } := if_pos a

theorem claim_second {r : Receiver} (a : r.bufA ≠ .free) (b : r.bufB = .free) :
    claim r = { r with
      deframer := .header, bufB := .filling, stored := [], charBad := false,
      skipped := 0, skipLength := 0 } := (if_neg a).trans (if_pos b)

theorem claim_neither {r : Receiver} (a : r.bufA ≠ .free) (b : r.bufB ≠ .free) :
    claim r = { r with
      deframer := .skip, stored := [], charBad := false, skipped := 0, skipLength := 0 } :=
  (if_neg a).trans (if_neg b)

/-! ### The skip (R53) -/

theorem deframe_skip {s : State} (h : s.rx.deframer = .skip) (d : Byte) (bad : Bool) :
    deframe d bad s = skipChar d s := by
  rw [deframe, h]

theorem skipChar_eq {d : Byte} {s : State} {k n : Nat} (hk : k = s.rx.skipped + 1)
    (h6 : k = 6 → n = d.toNat) (hn : k ≠ 6 → n = s.rx.skipLength) : skipChar d s =
      if k = 6 ∧ 150 < n ∨ 6 < k ∧ 8 + n ≤ k then skipEnd s
      else s.setRx { s.rx with skipped := k, skipLength := n } := by
  have length : n = if k = 6 then d.toNat else s.rx.skipLength := by
    split
    · exact h6 ‹_›
    · exact hn ‹_›
  rw [length, hk]
  rfl

/-- A release of a claimed buffer frees it and leaves any other as it is. -/
theorem release_filling {b : Buffer} (h : b = .filling) : b.release = .free := by
  rw [h, Buffer.release]

theorem release_other {b : Buffer} (h : b ≠ .filling) : b.release = b := by
  cases b with
  | filling => exact absurd rfl h
  | free => rfl
  | ready => rfl

theorem exec_syncHalfPauseEnd {s : State} (h : s.rx.deframer = .syncHalf) :
    exec .syncHalfPauseEnd s = .next (s.setRx { s.rx with deframer := .hunt }) :=
  congrArg Host.Outcome.next (if_pos h)

theorem exec_syncHalfPauseEnd_elsewhere {s : State} (h : s.rx.deframer ≠ .syncHalf) :
    exec .syncHalfPauseEnd s = .next s := congrArg Host.Outcome.next (if_neg h)

/-- Settles O48: a character by the deframer's state, what it is and how far the skip has come. -/
theorem theDeframerHuntsClaimsAndSkips : Obligations.TheDeframerHuntsClaimsAndSkips := by
  intro bits parity stop1 stop2 s d bad hd hb
  refine ⟨fun h k => exec_rxdCharacter_ignored h k _ _ _ _, fun l => ⟨fun st => ⟨fun good c3 => ?_,
      fun other => ?_⟩, fun st => ⟨fun other => ?_, fun good c3 => ?_, fun good c => ?_⟩,
      fun st k n hk h6 hn => ⟨fun ends => ⟨_, rfl, ?_⟩, fun short long => ?_⟩⟩,
    exec_rxdCharacter_unheard _ _ _ _ s, exec_syncHalfPauseEnd, exec_syncHalfPauseEnd_elsewhere,
    rfl, release_filling, release_other, release_filling, release_other⟩
  · rw [exec_rxdCharacter_within hd hb l (Or.inr (Or.inl st)), deframe_hunt_sync st good c3]
  · rw [exec_rxdCharacter_within hd hb l (Or.inr (Or.inl st)), deframe_hunt_other st other]
  · rw [exec_rxdCharacter_within hd hb l (Or.inr (Or.inr st)), deframe_syncHalf_drops st other]
  · rw [exec_rxdCharacter_within hd hb l (Or.inr (Or.inr st)), deframe_syncHalf_again st good c3]
  · refine ⟨claim s.rx, ?_, claim_first, claim_second, claim_neither⟩
    rw [exec_rxdCharacter_within hd hb l (Or.inr (Or.inr st)), deframe_syncHalf_claims st good c]
  · refine exec_rxdCharacter_ends hd hb l (t := skipEnd s) ?_ rfl (by rw [st]; exact ⟨nofun, nofun⟩)
    rw [deframe_skip st, skipChar_eq hk h6 hn, if_pos ends]
  · have counts : deframe d bad s = s.setRx { s.rx with skipped := k, skipLength := n } := by
      rw [deframe_skip st, skipChar_eq hk h6 hn, if_neg (by omega)]
    rw [exec_rxdCharacter_within hd hb l (Or.inl ?_), counts]
    rw [counts]
    exact fun hunting => Deframing.noConfusion (st.symm.trans hunting)

end Sys2Proof.Machine

namespace Sys2Proof.Machine

/-! ### The characters of a frame (R44, R47, R49 to R51) -/

/-- A character of a frame is kept, and the deframer stands in a state of the frame. -/
def keepChar (st : Deframing) (bs : List Byte) (b : Bool) (s : State) : State :=
  s.setRx { s.rx with deframer := st, stored := bs, charBad := b }

theorem keepChar_same {st : Deframing} {s : State} (h : s.rx.deframer = st) (bs : List Byte)
    (b : Bool) : keepChar st bs b s = s.setRx { s.rx with stored := bs, charBad := b } := by
  rw [keepChar, ← h]

theorem crcPasses_iff {bs : List Byte} {n : Nat} (hn : n = (byteAt bs 5).toNat) :
    crcPasses bs = true ↔
      crc16 (bs.take (6 + n)) = BitVec.ofNat 16 (natBE (slice bs (6 + n) 2)) := by
  rw [hn, crcPasses, beq_iff_eq]

/-- A bad character or a failed CRC makes the frame bad (R51). -/
theorem judge_bad {bs : List Byte} {b : Bool} {n : Nat} (hn : n = (byteAt bs 5).toNat)
    (h : b = true ∨
      crc16 (bs.take (6 + n)) ≠ BitVec.ofNat 16 (natBE (slice bs (6 + n) 2))) (s : State) :
    judge bs b s = badFrame s := by
  refine if_pos ?_
  rw [Bool.or_eq_true, Bool.not_eq_true', Bool.eq_false_iff, Ne, crcPasses_iff hn]
  exact h

theorem judge_good {bs : List Byte} {b : Bool} {n : Nat} (hn : n = (byteAt bs 5).toNat)
    (h : b = false)
    (k : crc16 (bs.take (6 + n)) = BitVec.ofNat 16 (natBE (slice bs (6 + n) 2))) (s : State) :
    judge bs b s = goodFrame (byteAt bs 0)
      { flags := byteAt bs 1, addr := BitVec.ofNat 16 (natBE (slice bs 2 2)), seq := byteAt bs 4,
        body := slice bs 6 n, doneAt := s.clock } s := by
  rw [judge, h, (crcPasses_iff hn).2 k, hn]
  rfl

section

variable {d : Byte} {bad : Bool} {s : State} {bs : List Byte} {b : Bool} {n : Nat}
  (hbs : bs = s.rx.stored ++ [d]) (hb : b = (s.rx.charBad || bad))
  (hn : n = (byteAt bs 5).toNat)

include hbs hb hn

/-- In HEADER the sixth character is the body length, which is checked at once (R49). -/
theorem deframe_header (h : s.rx.deframer = .header) : deframe d bad s =
    if bs.length < 6 then keepChar .header bs b s
    else if 150 < n then badFrame s
    else if n = 0 then keepChar .check bs b s
    else keepChar .body bs b s := by
  subst hn hb hbs
  rw [deframe, h]
  simp only [storeChar, h]
  rfl

theorem deframe_body (h : s.rx.deframer = .body) : deframe d bad s =
    if bs.length < 6 + n then keepChar .body bs b s else keepChar .check bs b s := by
  subst hn hb hbs
  rw [deframe, h]
  simp only [storeChar, h]
  rfl

/-- In CHECK the second CRC character completes the frame (R51). -/
theorem deframe_check (h : s.rx.deframer = .check) : deframe d bad s =
    if bs.length < 8 + n then keepChar .check bs b s else judge bs b s := by
  subst hn hb hbs
  rw [deframe, h]
  simp only [storeChar, h]
  rfl

end

/-- A bad frame leaves the deframer in HUNT (R51). -/
theorem badFrame_hunts (s : State) : (badFrame s).rx.deframer = .hunt := by
  unfold badFrame
  simp only [raiseFactor_eq]
  split <;> rfl

theorem goodFrame_hunts (cls : Byte) (f : DownFrame) (s : State) :
    (goodFrame cls f s).rx.deframer = .hunt := by
  unfold goodFrame
  simp only
  split
  · split <;> rfl
  · rfl

theorem exec_gapLimitEnd (s : State) : exec .gapLimitEnd s = .next (gapEnd s) := rfl

theorem gapEnd_frame {s : State} (h : s.rx.deframer = .header ∨ s.rx.deframer = .body ∨
    s.rx.deframer = .check) : gapEnd s = linkReact (badFrame s) := by
  rcases h with h | h | h <;> rw [gapEnd, h]

theorem gapEnd_skip {s : State} (h : s.rx.deframer = .skip) :
    gapEnd s = linkReact (skipEnd s) := by
  rw [gapEnd, h]

theorem gapEnd_outside {s : State} (h : s.rx.deframer = .hunt ∨ s.rx.deframer = .syncHalf) :
    gapEnd s = s := by
  rcases h with h | h <;> rw [gapEnd, h]

/-- Settles O49: each character by the deframer's state and its place in the frame, the gap limit by the state. -/
theorem frameCharactersAreStoredAndJudged : Obligations.FrameCharactersAreStoredAndJudged := by
  refine ⟨fun bits parity stop1 stop2 s d bs b n l hd hbs hb hn => ?_, fun s => ⟨fun h => ?_,
    fun h => ⟨_, rfl, ?_⟩, fun h => ?_⟩⟩
  · obtain ⟨bad, hbad⟩ : ∃ bad, bad = charIsBad s.settings.accepted d parity stop1 stop2 :=
      ⟨_, rfl⟩
    rw [← hbad] at hb
    have keeps {st : Deframing} (t : deframe d bad s = keepChar st bs b s) (h : st ≠ .hunt) :
        exec (.rxdCharacter ⟨true, bits⟩ parity stop1 stop2) s = .next (keepChar st bs b s) := by
      rw [exec_rxdCharacter_within hd hbad l (Or.inl (by rw [t]; exact h)), t]
    have ends {t : State} (ht : deframe d bad s = t) (h : t.rx.deframer = .hunt) :=
      exec_rxdCharacter_ends hd hbad l ht h
    refine ⟨fun st => ?_, fun st => ?_, fun st => ?_⟩
    · have header := deframe_header hbs hb hn st
      have inside : inFrame s.rx.deframer := by rw [st]; exact ⟨nofun, nofun⟩
      refine ⟨fun h => ?_, fun h k => ?_, fun h k => ?_, fun h k m => ?_⟩
      · rw [if_pos h] at header
        rw [keeps header nofun, keepChar_same st]
      · rw [if_neg (Nat.not_lt.2 h), if_pos k] at header
        exact ends header (badFrame_hunts s) inside
      · rw [if_neg (Nat.not_lt.2 h), if_neg (by omega), if_pos k] at header
        exact keeps header nofun
      · rw [if_neg (Nat.not_lt.2 h), if_neg (by omega), if_neg (by omega)] at header
        exact keeps header nofun
    · have body := deframe_body hbs hb hn st
      refine ⟨fun h => ?_, fun h => ?_⟩
      · rw [if_pos h] at body
        rw [keeps body nofun, keepChar_same st]
      · rw [if_neg (Nat.not_lt.2 h)] at body
        exact keeps body nofun
    · have check := deframe_check hbs hb hn st
      have inside : inFrame s.rx.deframer := by rw [st]; exact ⟨nofun, nofun⟩
      refine ⟨fun h => ?_, fun h => ⟨fun k => ?_, fun k m => ?_⟩⟩
      · rw [if_pos h] at check
        rw [keeps check nofun, keepChar_same st]
      · rw [if_neg (Nat.not_lt.2 h), judge_bad hn k] at check
        exact ends check (badFrame_hunts s) inside
      · rw [if_neg (Nat.not_lt.2 h), judge_good hn k m] at check
        exact ends check (goodFrame_hunts _ _ s) inside
  · rw [exec_gapLimitEnd, gapEnd_frame h]
  · rw [exec_gapLimitEnd, gapEnd_skip h]
    rfl
  · rw [exec_gapLimitEnd, gapEnd_outside h]

end Sys2Proof.Machine

namespace Sys2Proof.Machine

/-! ### The judging of a frame (R51, R52, R55 to R59) -/

/-- A bad frame with its counts, before LINK_POOR is asked for. -/
def badCounted (s : State) : State :=
  s.setRx { s.rx.hunt with
    badRun := min (s.rx.badRun + 1) 255,
    linkPoor := s.settings.accepted.badThreshold != 255 &&
      decide (s.settings.accepted.badThreshold ≤ min (s.rx.badRun + 1) 255),
    totalBad := min (s.rx.totalBad + 1) 65535 }

theorem badFrame_eq (s : State) : badFrame s =
    if (badCounted s).rx.linkPoor = true then raiseFactor .linkPoor (badCounted s)
    else badCounted s := rfl

theorem badFrame_poor {s : State} (run : s.phase = .running)
    (poor : (badCounted s).rx.linkPoor = true) : badFrame s =
      (badCounted s).setAttn { s.attn with factors := s.attn.factors ||| 0x020#9 } := by
  rw [badFrame_eq, if_pos poor]
  exact raiseFactor_running .linkPoor (s := badCounted s) run

theorem badFrame_plain {s : State}
    (h : s.phase ≠ .running ∨ (badCounted s).rx.linkPoor = false) :
    badFrame s = badCounted s := by
  rw [badFrame_eq]
  split
  · rename_i poor
    rcases h with h | h
    · exact raiseFactor_in_reset .linkPoor (s := badCounted s) h
    · rw [h] at poor
      cases poor
  · rfl

theorem goodFrame_filtered {f : DownFrame} {s : State}
    (h : forThisCab s.settings.accepted f.flags f.addr = false) (cls : Byte) :
    goodFrame cls f s = s.setRx { s.rx.hunt with badRun := 0, linkPoor := false } :=
  if_neg (by rw [h]; exact Bool.false_ne_true)

theorem goodFrame_unknown {cls : Byte} {f : DownFrame} {s : State}
    (h : forThisCab s.settings.accepted f.flags f.addr = true)
    (k : classPasses cls f.flags = false) : goodFrame cls f s = s.setRx { s.rx.hunt with
      badRun := 0, linkPoor := false, unknown := min (s.rx.unknown + 1) 65535 } :=
  (if_pos h).trans (if_neg (by rw [k]; exact Bool.false_ne_true))

theorem goodFrame_accepted {cls : Byte} {f : DownFrame} {s : State}
    (h : forThisCab s.settings.accepted f.flags f.addr = true)
    (k : classPasses cls f.flags = true) :
    goodFrame cls f s = s.setRx (acceptFrame cls f { s.rx with badRun := 0, linkPoor := false }) :=
  (if_pos h).trans (if_pos k)

/-- A class passes the class check with the scopes Table 16 allows it (R56). -/
theorem classPasses_known {cls : Byte} {c : DownClass} (h : DownClass.ofCode cls = some c)
    (flags : Byte) : classPasses cls flags = scopeAllowed c (scopeOf flags) := by
  rw [classPasses, h]

theorem classPasses_unknown {cls : Byte} (h : DownClass.ofCode cls = none) (flags : Byte) :
    classPasses cls flags = false := by
  rw [classPasses, h]

theorem fill_filling {b : Buffer} (h : b = .filling) (cls : Byte) (f : DownFrame) (n : Nat) :
    b.fill cls f n = .ready cls f n := by
  rw [h, Buffer.fill]

theorem fill_other {b : Buffer} (h : b ≠ .filling) (cls : Byte) (f : DownFrame) (n : Nat) :
    b.fill cls f n = b := by
  cases b with
  | filling => exact absurd rfl h
  | free => rfl
  | ready => rfl

/-- A buffer just filled is not released with the deframer's return to HUNT. -/
theorem release_fill (b : Buffer) (cls : Byte) (f : DownFrame) (n : Nat) :
    (b.fill cls f n).release = b.fill cls f n := by
  cases b <;> rfl

/-- An accepted frame fills the claimed buffer and joins the recent list (R52, R56, R59). -/
theorem acceptFrame_eq (cls : Byte) (f : DownFrame) (r : Receiver) : acceptFrame cls f r = { r with
    deframer := .hunt, stored := [], charBad := false, skipped := 0, skipLength := 0,
    bufA := r.bufA.fill cls f r.nextOrder, bufB := r.bufB.fill cls f r.nextOrder,
    nextOrder := r.nextOrder + 1,
    recent := (if r.recent.length < 4 then r.recent else r.recent.drop 1) ++
      [{ cls := cls, seq := f.seq, doneAt := f.doneAt }] } := by
  simp only [acceptFrame, Receiver.hunt, release_fill]
  rfl

/-- R55: the address filter by the scope of the flags. -/
theorem forThisCab_iff (st : Settings) (flags : Byte) (addr : Half) :
    (flags.toNat % 4 = 0 → forThisCab st flags addr = (addr.toNat == st.cab)) ∧
    (flags.toNat % 4 = 1 → forThisCab st flags addr = st.zones.contains addr) ∧
    (2 ≤ flags.toNat % 4 → forThisCab st flags addr = true) := by
  refine ⟨fun h => ?_, fun h => ?_, fun h => ?_⟩
  · rw [forThisCab, scopeOf, h]
    rfl
  · rw [forThisCab, scopeOf, h]
    rfl
  · unfold forThisCab scopeOf
    split
    · omega
    · omega
    · rfl

/-- Table 16: the scopes of each class. -/
theorem scopeAllowed_table (c : DownClass) : scopeAllowed c 3 = false ∧
    DownClass.ofCode c.code = some c ∧ scopeAllowed c 0 = true ∧
    (scopeAllowed c 1 = true ↔ c ≠ .award ∧ c ≠ .tariff ∧ c ≠ .alarmAck ∧ c ≠ .alarmEnd ∧
      c ≠ .ack ∧ c ≠ .poll) ∧
    (scopeAllowed c 2 = true ↔ c = .offer ∨ c = .withdraw ∨ c = .text ∨ c = .tariff ∨
      c = .channel) := by
  cases c <;> decide

/-- Settles O50: a bad frame by its run and the phase, a good one by the filter and the class check. -/
theorem badFramesAreCountedAndGoodOnesFiltered :
    Obligations.BadFramesAreCountedAndGoodOnesFiltered := by
  refine ⟨?_, fun cls f s => ⟨fun h => goodFrame_filtered h cls, fun h => ⟨fun k => ?_,
    fun c hc k => ?_, fun c hc k => ?_⟩⟩, forThisCab_iff, fun c => scopeAllowed_table c⟩
  · rintro s run rfl
    exact ⟨badCounted s, rfl, badFrame_poor, badFrame_plain⟩
  · exact goodFrame_unknown h (classPasses_unknown k _)
  · exact goodFrame_unknown h ((classPasses_known hc _).trans k)
  · refine ⟨{ s.rx with
        bufA := s.rx.bufA.fill cls f s.rx.nextOrder, bufB := s.rx.bufB.fill cls f s.rx.nextOrder },
      ?_, rfl, fun a => fill_filling a _ _ _, fun a => fill_other a _ _ _,
      fun b => fill_filling b _ _ _, fun b => fill_other b _ _ _⟩
    rw [goodFrame_accepted h ((classPasses_known hc _).trans k), acceptFrame_eq]

end Sys2Proof.Machine

namespace Sys2Proof.Machine

/-! ### Waiting reports take the free places first (R172) -/

/-- The reports that wait in a table's places from index `i` on, whatever the table holds. -/
def heldFrom {α : Type} (held : α → Option HeldReport) (src : Nat → HeldSource) :
    Nat → List (Option α) → List (Nat × HeldSource)
  | _, [] => []
  | i, x :: xs => ((x.bind held).map fun r => (r.order, src i)).toList ++ heldFrom held src (i + 1) xs

theorem heldByOffers_eq (i : Nat) (es : List (Option Offer)) :
    heldByOffers i es = heldFrom (·.held) .offer i es := by
  induction es generalizing i with
  | nil => rfl
  | cons o es ih =>
    rw [heldByOffers, heldFrom, ih]
    cases o.bind (·.held) <;> rfl

theorem heldBySlots_eq (i : Nat) (xs : List (Option Slot)) :
    heldBySlots i xs = heldFrom (·.held) .slot i xs := by
  induction xs generalizing i with
  | nil => rfl
  | cons o xs ih =>
    rw [heldBySlots, heldFrom, ih]
    cases o.bind (·.held) <;> rfl

theorem heldFrom_mem {α : Type} {held : α → Option HeldReport} {src : Nat → HeldSource}
    {x : Nat × HeldSource} {i : Nat} {xs : List (Option α)} (h : x ∈ heldFrom held src i xs) :
    ∃ j, x.2 = src (i + j) ∧ ((xs.getD j none).bind held).isSome = true := by
  induction xs generalizing i with
  | nil => cases h
  | cons o xs ih =>
    rcases List.mem_append.1 h with here | later
    · obtain ⟨r, hr, rfl⟩ := Option.map_eq_some_iff.1 (Option.mem_toList.1 here)
      exact ⟨0, rfl, by rw [List.getD_cons_zero, hr]; rfl⟩
    · obtain ⟨j, hj, waits⟩ := ih later
      exact ⟨j + 1, by rw [hj, Nat.add_right_comm, Nat.add_assoc], waits⟩

/-- Every report that waits has an event its holder would place now. -/
theorem heldEvent_of_mem {x : Nat × HeldSource} {s : State} (h : x ∈ heldReports s) :
    (heldEvent s x.2).isSome = true := by
  unfold heldReports at h
  simp only [List.mem_append] at h
  rcases h with (((h | h) | h) | h) | h
  · obtain ⟨j, hj, held⟩ := heldFrom_mem (heldByOffers_eq _ _ ▸ h)
    rw [hj, Nat.zero_add, heldEvent, Option.isSome_map]
    exact held
  · obtain ⟨j, hj, held⟩ := heldFrom_mem (heldBySlots_eq _ _ ▸ h)
    rw [hj, Nat.zero_add, heldEvent, Option.isSome_map]
    exact held
  · split at h
    · rename_i r rs hr
      rw [List.mem_singleton.1 h, heldEvent, hr]
      rfl
    · cases h
  · split at h
    · rename_i r hr
      rw [List.mem_singleton.1 h, heldEvent, hr]
      rfl
    · cases h
  · split at h
    · rename_i r hr
      rw [List.mem_singleton.1 h, heldEvent, hr]
      rfl
    · cases h

/-- A holder whose report waits puts its event at the end of the queue. -/
theorem placeFrom_queue {src : HeldSource} {s : State} {e : Event} (h : heldEvent s src = some e) :
    (placeFrom src s).evw.queue = s.evw.queue ++ [e] := by
  cases src with
  | offer i =>
    obtain ⟨r, hr, rfl⟩ := Option.map_eq_some_iff.1 h
    obtain ⟨o, ho, held⟩ := Option.bind_eq_some_iff.1 hr
    simp only [placeFrom, ho, held]
    rfl
  | slot i =>
    obtain ⟨r, hr, rfl⟩ := Option.map_eq_some_iff.1 h
    obtain ⟨x, hx, held⟩ := Option.bind_eq_some_iff.1 hr
    simp only [placeFrom, hx, held]
    rfl
  | trip =>
    obtain ⟨r, hr, rfl⟩ := Option.map_eq_some_iff.1 h
    obtain ⟨rs, hrs⟩ := List.head?_eq_some_iff.1 hr
    simp only [placeFrom, hrs]
    rfl
  | emergency =>
    obtain ⟨r, hr, rfl⟩ := Option.map_eq_some_iff.1 h
    simp only [placeFrom, hr]
    rfl
  | settings =>
    obtain ⟨r, hr, rfl⟩ := Option.map_eq_some_iff.1 h
    simp only [placeFrom, hr]
    rfl

theorem earliest_mem {l : List (Nat × HeldSource)} (h : l ≠ []) :
    ∃ x, earliest l = some x ∧ x ∈ l := by
  induction l with
  | nil => exact absurd rfl h
  | cons y ys ih =>
    unfold earliest
    split
    · exact ⟨y, rfl, List.mem_cons_self⟩
    · rename_i z hz
      have mem : z ∈ ys := by
        obtain ⟨w, hw, k⟩ := ih (by rintro rfl; cases hz)
        rw [hz] at hw
        cases hw
        exact k
      split
      · exact ⟨z, rfl, List.mem_cons_of_mem _ mem⟩
      · exact ⟨y, rfl, List.mem_cons_self⟩

/-- A free place goes to a report as long as one waits. -/
theorem placeOne_places {s : State} (run : s.phase = .running) (room : s.evw.queue.length < 16)
    (h : heldReports s ≠ []) :
    (placeOne s).evw.queue.length = s.evw.queue.length + 1 := by
  obtain ⟨x, hx, mem⟩ := earliest_mem h
  obtain ⟨e, he⟩ := Option.isSome_iff_exists.1 (heldEvent_of_mem mem)
  rw [placeOne, if_pos ⟨run, room⟩, hx]
  simp only [placeFrom_queue he, List.length_append, List.length_singleton]

/-- After n tries no report waits, or n places have gone to reports, or the queue is full. -/
theorem placeMany_places (n : Nat) {s : State} (run : s.phase = .running) :
    heldReports (placeMany n s) = [] ∨
      min 16 (s.evw.queue.length + n) ≤ (placeMany n s).evw.queue.length := by
  induction n generalizing s with
  | zero => exact Or.inr (Nat.min_le_right _ _)
  | succ n ih =>
    by_cases none : heldReports s = []
    · exact Or.inl (by rw [placeMany_idle _ none, none])
    by_cases room : s.evw.queue.length < 16
    · have run' : (placeOne s).phase = .running := (placeOne_quiet s).phase.trans run
      have count := placeOne_places run room none
      rcases ih run' with h | h
      · exact Or.inl h
      · refine Or.inr (Nat.le_trans ?_ h)
        rw [count]
        omega
    · have full : placeOne s = s := if_neg fun c => room c.2
      rw [placeMany, full]
      rcases ih run with h | h
      · exact Or.inl h
      · exact Or.inr (by omega)

/-- With a place left free after the placing, no report waits (R172). -/
theorem placeHeld_all {s : State} (run : s.phase = .running)
    (h : (placeHeld s).evw.queue.length < 16) : heldReports (placeHeld s) = [] := by
  have size : Config.eventQueueSize = 16 := rfl
  rw [placeHeld, size] at h ⊢
  rcases placeMany_places 16 run with k | k
  · exact k
  · omega

/-! ### The first READY frame and the kept request (R52, R60, R170) -/

theorem waiting_eq_some_iff (c : Byte) (f : DownFrame) (n : Nat) (b : Buffer) :
    b.waiting = some (c, f, n) ↔ b = .ready c f n := by
  cases b with
  | free => simp [Buffer.waiting]
  | filling => simp [Buffer.waiting]
  | ready d g m => simp [Buffer.waiting]

theorem firstReady_first {s : State} {c : Byte} {f : DownFrame} {n : Nat}
    (a : s.rx.bufA = .ready c f n) (b : ∀ d g m, s.rx.bufB = .ready d g m → n < m) :
    firstReady s = some (c, f) := by
  rw [firstReady, (waiting_eq_some_iff c f n _).2 a]
  cases h : s.rx.bufB.waiting with
  | none => rfl
  | some x =>
    obtain ⟨d, g, m⟩ := x
    exact if_pos (b d g m ((waiting_eq_some_iff d g m _).1 h))

theorem firstReady_second {s : State} {d : Byte} {g : DownFrame} {m : Nat}
    (b : s.rx.bufB = .ready d g m) (a : ∀ c f n, s.rx.bufA = .ready c f n → m ≤ n) :
    firstReady s = some (d, g) := by
  rw [firstReady, (waiting_eq_some_iff d g m _).2 b]
  cases h : s.rx.bufA.waiting with
  | none => rfl
  | some x =>
    obtain ⟨c, f, n⟩ := x
    exact if_neg (Nat.not_lt.2 (a c f n ((waiting_eq_some_iff c f n _).1 h)))

theorem takeNext_waits {s : State} (h : s.phase ≠ .running ∨ 15 ≤ s.evw.queue.length) :
    takeNext s = s := by
  refine if_neg ?_
  rintro ⟨run, free⟩
  rcases h with h | h
  · exact h run
  · have room : s.evw.queue.length + 2 ≤ 16 := of_decide_eq_true free
    omega

/-- With two places free the waiting work is taken, by what waits. -/
theorem takeNext_takes {s : State} (run : s.phase = .running) (free : s.evw.queue.length ≤ 14) :
    takeNext s =
      match s.reader.kept, firstReady s with
      | some b, some x =>
        if Config.readerFirst s.book.drawn then takeRequest b (countDrawn s)
        else takeFrame x.1 x.2 (countDrawn s)
      | some b, none => takeRequest b s
      | none, some x => takeFrame x.1 x.2 s
      | none, none => s :=
  if_pos ⟨run, decide_eq_true (Nat.add_le_add_right free 2)⟩

/-- One piece of work is taken from what the placing of the reports left (R172; log entry 7). -/
theorem takeOneWork_cases {s u : State} (hu : u = placeHeld s) :
    (s.phase ≠ .running ∨ 15 ≤ u.evw.queue.length → takeOneWork s = u) ∧
    (s.reader.kept = none → firstReady s = none → takeOneWork s = u) ∧
    (s.phase = .running → u.evw.queue.length ≤ 14 → heldReports u = [] ∧
      (∀ b, s.reader.kept = some b → firstReady s = none → takeOneWork s = takeRequest b u) ∧
      (∀ x, s.reader.kept = none → firstReady s = some x →
        takeOneWork s = takeFrame x.1 x.2 u) ∧
      (∀ b x, s.reader.kept = some b → firstReady s = some x →
        takeOneWork s = takeRequest b (countDrawn u) ∨
          takeOneWork s = takeFrame x.1 x.2 (countDrawn u))) := by
  have quiet : Quiet s u := hu ▸ placeHeld_quiet s
  have reader : u.reader.kept = s.reader.kept := by rw [quiet.reader]
  have ready : firstReady u = firstReady s := by
    rw [firstReady, firstReady, hu, (placeHeld_calm s).rx]
  have taken : takeOneWork s = takeNext u := by rw [takeOneWork, hu]
  rw [taken, ← reader, ← ready]
  refine ⟨fun h => ?_, fun kept frame => ?_, fun run free => ⟨?_, ?_⟩⟩
  · rw [← quiet.phase] at h
    exact takeNext_waits h
  · unfold takeNext
    rw [kept, frame]
    exact ite_self _
  · rw [hu] at free ⊢
    exact placeHeld_all run (Nat.lt_of_le_of_lt free (by decide))
  · rw [takeNext_takes (quiet.phase.trans run) free]
    refine ⟨fun b kept frame => ?_, fun x kept frame => ?_, fun b x kept frame => ?_⟩
    · rw [kept, frame]
    · rw [kept, frame]
    · rw [kept, frame]
      simp only
      split
      · exact Or.inl rfl
      · exact Or.inr rfl

/-! ### Requests as Table 44 lays them out (R170, R171, R181) -/

theorem takeRequest_eq (slot : List Byte) (s : State) : takeRequest slot s =
    placeHeld (advanceConsumer (checkRequest (requestOf slot) s)) := rfl

theorem checkRequest_unknown {r : RequestRecord} (h : requestKnown r.code = false) (s : State) :
    checkRequest r s = produce r.tag (.refused r.code .unknown) s := if_pos h

theorem lengthOk_iff (r : RequestRecord) : lengthOk r = true ↔
    r.length ≤ 124 ∧ r.params.length = r.length ∧ lengthAgrees r.code r.params = true := by
  rw [lengthOk, Bool.and_eq_true, Bool.and_eq_true, decide_eq_true_eq, beq_iff_eq, and_assoc]

theorem checkRequest_malformed {r : RequestRecord} (known : requestKnown r.code = true)
    (h : 124 < r.length ∨ r.params.length ≠ r.length ∨ lengthAgrees r.code r.params = false)
    (s : State) : checkRequest r s = produce r.tag (.refused r.code .malformed) s := by
  have bad : lengthOk r = false := by
    rw [Bool.eq_false_iff, Ne, lengthOk_iff]
    rintro ⟨le, len, agrees⟩
    rcases h with h | h | h
    · exact Nat.not_lt.2 le h
    · exact h len
    · rw [agrees] at h
      cases h
  rw [checkRequest, if_neg (by rw [known]; exact nofun), if_pos bad, refuse]

theorem checkRequest_given {r : RequestRecord} (known : requestKnown r.code = true)
    (le : r.length ≤ 124) (len : r.params.length = r.length)
    (agrees : lengthAgrees r.code r.params = true) (s : State) :
    checkRequest r s = giveRequest r s := by
  have good : lengthOk r = true := (lengthOk_iff r).2 ⟨le, len, agrees⟩
  rw [checkRequest, if_neg (by rw [known]; exact nofun),
    if_neg (by rw [good]; exact nofun)]

theorem requestKnown_iff (code : Byte) :
    requestKnown code = true ↔ 1 ≤ code.toNat ∧ code.toNat ≤ 0x0F := by
  rw [requestKnown, Bool.and_eq_true, decide_eq_true_eq, decide_eq_true_eq]

/-- A request without parameters. -/
theorem length_beq_zero_iff (ps : List Byte) : (ps.length == 0) = true ↔ ps = [] := by
  rw [beq_iff_eq, List.length_eq_zero_iff]

theorem lengthAgrees_sendText (ps : List Byte) : lengthAgrees 0x04 ps =
    (decide (2 ≤ ps.length) && ps.length == 2 + (byteAt ps 1).toNat &&
      decide ((byteAt ps 1).toNat ≤ 120)) := rfl

/-- Table 44: the parameter lengths of the requests, code by code. -/
theorem lengthAgrees_table (code : Byte) (ps : List Byte) :
    (code = 0x01 ∨ code = 0x02 → (lengthAgrees code ps = true ↔ ps.length = 4)) ∧
    (code = 0x03 ∨ code = 0x05 ∨ code = 0x0A → (lengthAgrees code ps = true ↔ ps.length = 1)) ∧
    (code = 0x04 → (lengthAgrees code ps = true ↔ 2 ≤ ps.length ∧
      ps.length = 2 + (byteAt ps 1).toNat ∧ (byteAt ps 1).toNat ≤ 120)) ∧
    (code = 0x08 → (lengthAgrees code ps = true ↔ ps.length = 3)) ∧
    (code = 0x06 ∨ code = 0x07 ∨ code = 0x09 ∨ code = 0x0B ∨ code = 0x0C ∨ code = 0x0D ∨
      code = 0x0E ∨ code = 0x0F → (lengthAgrees code ps = true ↔ ps = [])) := by
  refine ⟨?_, ?_, ?_, ?_, ?_⟩
  · rintro (rfl | rfl) <;> exact beq_iff_eq
  · rintro (rfl | rfl | rfl) <;> exact beq_iff_eq
  · rintro rfl
    rw [lengthAgrees_sendText, Bool.and_eq_true, Bool.and_eq_true, decide_eq_true_eq, beq_iff_eq,
      decide_eq_true_eq, and_assoc]
  · rintro rfl
    exact beq_iff_eq
  · rintro (rfl | rfl | rfl | rfl | rfl | rfl | rfl | rfl) <;> exact length_beq_zero_iff ps

/-- The row of a request is the owner's taking of the record it names. -/
theorem exec_request {c : Instr} {f : State → State} {r : RequestRecord} {s : State}
    (run : s.phase = .running) (h : exec c s = .next (whenRunning f s))
    (k : giveRequest r s = f s) : exec c s = .next (giveRequest r s) := by
  rw [h, whenRunning_running run, k]

/-- Settles O51: the work by what waits, a request by its checks and its code, a frame by its class. -/
theorem keptRequestsAndReadyFramesAreTaken : Obligations.KeptRequestsAndReadyFramesAreTaken := by
  refine ⟨fun s u hu => ?_, ?_, fun code ps => ⟨requestKnown_iff code, lengthAgrees_table code ps⟩,
    fun r s run => ⟨fun h => exec_request run rfl ?_, fun h => exec_request run rfl ?_,
      fun h => exec_request run rfl ?_, fun h => exec_request run rfl ?_,
      fun h => exec_request run rfl ?_, fun h => exec_request run rfl ?_,
      fun h => exec_request run rfl ?_, fun h => exec_request run rfl ?_,
      fun h => exec_request run rfl ?_, fun h => exec_request run rfl ?_,
      fun h => exec_request run rfl ?_, fun h => exec_request run rfl ?_,
      fun h => exec_request run rfl ?_, fun h => exec_request run rfl ?_,
      fun h => exec_request run rfl ?_⟩,
    fun f s run => ⟨exec_offer run f, exec_withdraw run f, exec_award run f, exec_reject run f,
      exec_text run f, exec_tariff run f, exec_alarmAck run f, exec_alarmEnd run f,
      exec_ack run f, exec_poll run f, exec_channel run f⟩⟩
  · obtain ⟨waits, none, takes⟩ := takeOneWork_cases hu
    refine ⟨rfl, waits, none, fun run free => ?_, fun c f n a b => firstReady_first a b,
      fun d g m b a => firstReady_second b a⟩
    obtain ⟨placed, request, frame, either⟩ := takes run free
    exact ⟨placed, request, frame, fun b x kept ready => ⟨countDrawn u, rfl, either b x kept ready⟩⟩
  · rintro slot r s rfl
    exact ⟨⟨checkRequest (requestOf slot) s, takeRequest_eq slot s,
      fun h => checkRequest_unknown h s, fun h k => checkRequest_malformed h k s,
      fun h le len agrees => checkRequest_given h le len agrees s⟩, rfl, rfl, rfl, rfl⟩
  all_goals
    rw [giveRequest, h]
    rfl

end Sys2Proof.Machine

namespace Sys2Proof.Machine

/-! ### A settings commit is judged (R175) -/

theorem snoopTake_commit (v : Word) (s : State) :
    snoopTake 0x003C v s = placeHeld (judgeCommit (v.setWidth 16) s) := by
  rw [snoopTake, if_neg (by decide), if_pos rfl, takeCommit]

theorem exec_settingsCommit {s t : State} {b : Nat} {v : Word} (run : s.phase = .running)
    (base : s.path.base = some b) (done : s.agent.initial = .done)
    (ht : t = s.setMem (Memory.writeLanes s.mem (b + 0x003C) 0xF v)) :
    exec (.settingsCommit v) s = .next (placeHeld (judgeCommit (v.setWidth 16) t)) := by
  rw [exec_fullWord run base done (c := .settingsCommit v) (fun _ => rfl) rfl, ht,
    snoopTake_commit]

theorem commitBusy_iff (s : State) : commitBusy s = true ↔ s.settings.firstCommit = false ∧
    (s.meter.state ≠ .vacant ∨ s.emerg.state ≠ .quiet ∨ s.uplink.entries ≠ [] ∨
      (findJob s).isSome = true) := by
  simp only [commitBusy, Bool.and_eq_true, Bool.not_eq_true', Bool.or_eq_true, bne_iff_ne,
    List.isEmpty_eq_false_iff, or_assoc]

theorem judgeCommit_busy {s : State} (h : commitBusy s = true) (tag : Half) :
    judgeCommit tag s = recordCommit tag .busy 0 s := if_pos h

theorem judgeCommit_range {s : State} (h : commitBusy s = false) {k : Nat}
    (hk : firstBadField s.settings.firstCommit s.settings.staging = some k) (tag : Half) :
    judgeCommit tag s = recordCommit tag .range k s := by
  rw [judgeCommit, h, hk]
  rfl

theorem judgeCommit_accepted {s : State} (h : commitBusy s = false)
    (ok : firstBadField s.settings.firstCommit s.settings.staging = none) (tag : Half) :
    judgeCommit tag s = recordCommit tag .accepted 0 (acceptCommit tag s) := by
  rw [judgeCommit, h, ok]
  rfl

/-- What makes a commit BUSY is absent. -/
theorem commitBusy_false {s : State} (h : s.settings.firstCommit = true ∨
    s.meter.state = .vacant ∧ s.emerg.state = .quiet ∧ s.uplink.entries = [] ∧
      findJob s = none) : commitBusy s = false := by
  rw [Bool.eq_false_iff, Ne, commitBusy_iff]
  rintro ⟨later, busy⟩
  rcases h with h | ⟨vacant, quiet, empty, free⟩
  · rw [h] at later
    cases later
  · rcases busy with k | k | k | k
    · exact k vacant
    · exact k quiet
    · exact k empty
    · rw [free] at k
      cases k

/-! ### An accepted commit is applied (R63, R89, R99, R176) -/

/-- The settings are accepted and the clock set where the record sets it (R176). -/
theorem adoptSettings_eq {s : State} {n : Settings} (hn : n = settingsOf s.settings.staging) :
    adoptSettings s = (s.setSettings { s.settings with
      accepted := n, firstCommit := s.settings.firstCommit && n.cab == 0 }).setClock
        (if n.clockSet = 0 then s.clock else n.clockSet) := by
  subst hn
  unfold adoptSettings
  simp only
  split <;> rfl

theorem acceptCommit_eq {s : State} {n : Settings} (hn : n = settingsOf s.settings.staging)
    (tag : Half) : acceptCommit tag s = tripTest (closeOpen .settings (restartLink tag
      ((((s.setSettings { s.settings with
          accepted := n, firstCommit := s.settings.firstCommit && n.cab == 0 }).setClock
            (if n.clockSet = 0 then s.clock else n.clockSet)).setRx s.rx.commit).setLink
              { s.link.idle with seqCounter := 0 }))) := by
  rw [acceptCommit, adoptSettings_eq hn]
  rfl

/-- The pending SETTINGS_TAKEN keeps the place of the report it replaces (R176). -/
def takenReport (tag : Half) (o : CommitOutcome) (k : Nat) (s : State) : HeldReport :=
  { order := (s.settings.report.map (·.order)).getD s.book.produced,
    event := { tag := tag, time := s.clock, payload := .settingsTaken o k } }

theorem recordCommit_eq (tag : Half) (o : CommitOutcome) (k : Nat) (s : State) :
    recordCommit tag o k s = ((s.setSettings { s.settings with
      result := { tag := tag, outcome := o, field := k },
      report := some (takenReport tag o k s) }).setEvw
        { s.evw with resultStale := true }).setBook
          { s.book with produced := s.book.produced + 1 } := rfl

theorem restartLink_offline_unnumbered {s : State} (h : s.link.state = .offline)
    (cab : s.settings.accepted.cab = 0) (tag : Half) : restartLink tag s = s := by
  rw [restartLink, h]
  exact if_pos cab

theorem restartLink_offline_numbered {s : State} (h : s.link.state = .offline)
    (cab : s.settings.accepted.cab ≠ 0) (tag : Half) :
    restartLink tag s = enterPowerOn .commit tag s := by
  rw [restartLink, h]
  exact if_neg cab

theorem restartLink_waits {s : State} (h : s.link.state = .powerOnWait) (tag : Half) :
    restartLink tag s = enterPowerOn .commit tag s := by
  rw [restartLink, h]

theorem restartLink_stays {s : State} (h : s.link.state = .powerOff ∨ s.link.state = .failed)
    (tag : Half) : restartLink tag s = s := by
  rcases h with h | h <;> rw [restartLink, h]

theorem restartLink_access {s : State} (h : channelAccess s.link.state = true) (tag : Half) :
    restartLink tag s = enterListen s := by
  rcases (channelAccess_iff _).1 h with k | k | k | k | k | k | k <;> rw [restartLink, k]

/-! ### The fields of Table 40 -/

theorem firstBadField_none_iff (first : Bool) (ws : List Word) :
    firstBadField first ws = none ↔ ∀ x ∈ settingsChecks first ws, x = true := by
  simp only [firstBadField, Option.map_eq_none_iff, List.findIdx?_eq_none_iff, Bool.not_eq_false']

theorem firstBadField_some_iff (first : Bool) (ws : List Word) (k : Nat) :
    firstBadField first ws = some k ↔ 1 ≤ k ∧ (settingsChecks first ws)[k - 1]? = some false ∧
      ∀ j, j < k - 1 → (settingsChecks first ws)[j]? = some true := by
  rw [firstBadField, Option.map_eq_some_iff]
  constructor
  · rintro ⟨i, hi, rfl⟩
    obtain ⟨lt, bad, good⟩ := List.findIdx?_eq_some_iff_getElem.1 hi
    refine ⟨Nat.le_add_left 1 i, ?_, fun j hj => ?_⟩
    · rw [Nat.add_sub_cancel, List.getElem?_eq_getElem lt]
      exact congrArg some (by simpa using bad)
    · rw [Nat.add_sub_cancel] at hj
      rw [List.getElem?_eq_getElem (Nat.lt_trans hj lt)]
      simpa using good j hj
  · rintro ⟨pos, bad, good⟩
    obtain ⟨lt, hk⟩ := List.getElem?_eq_some_iff.1 bad
    refine ⟨k - 1, List.findIdx?_eq_some_iff_getElem.2 ⟨lt, by rw [hk]; rfl, fun j hj => ?_⟩,
      Nat.sub_add_cancel pos⟩
    obtain ⟨_, ok⟩ := List.getElem?_eq_some_iff.1 (good j hj)
    simpa using ok

/-- Settles O53: the commit by what makes it BUSY and the first bad field, its effects in order, the record by Table 42. -/
theorem commitsAreJudgedAndApplied : Obligations.CommitsAreJudgedAndApplied := by
  refine ⟨?_, fun tag o k s => ⟨takenReport tag o k s, recordCommit_eq tag o k s, rfl,
      fun r hr => ?_, fun hr => ?_⟩,
    fun tag s => ⟨fun h cab => restartLink_offline_unnumbered h cab tag,
      fun h cab => restartLink_offline_numbered h cab tag, fun h => restartLink_waits h tag,
      fun h => restartLink_stays h tag, fun h => restartLink_access h tag⟩, ?_, fun ws => rfl⟩
  · rintro s t v b tag ws n run base done ht rfl rfl hn
    have commit := exec_settingsCommit run base done ht
    have idle (h : s.settings.firstCommit = true ∨ s.meter.state = .vacant ∧
        s.emerg.state = .quiet ∧ s.uplink.entries = [] ∧ findJob s = none) :
        commitBusy t = false := commitBusy_false (by rw [ht]; exact h)
    have field : firstBadField t.settings.firstCommit t.settings.staging =
        firstBadField s.settings.firstCommit s.settings.staging := by rw [ht]; rfl
    refine ⟨fun later busy => ?_, fun free => ⟨fun k hk => ?_, fun ok => ⟨_, rfl, ?_⟩⟩⟩
    · have taken : commitBusy t = true := (commitBusy_iff t).2 (by rw [ht]; exact ⟨later, busy⟩)
      rw [commit, judgeCommit_busy taken]
    · rw [commit, judgeCommit_range (idle free) (field.trans hk)]
    · rw [commit, judgeCommit_accepted (idle free) (field.trans ok),
        acceptCommit_eq (n := n) (by rw [ht]; exact hn), ht]
      rfl
  · rw [takenReport, hr]
    rfl
  · rw [takenReport, hr]
    rfl
  · rintro first ws n rfl
    exact ⟨settingsChecks first ws, rfl, firstBadField_none_iff first ws,
      firstBadField_some_iff first ws⟩

end Sys2Proof.Machine

namespace Sys2Proof.Machine

/-! ### What a flush leaves alone (R86) -/

/-- The queue's entries and the link are those of s. -/
structure QueueSame (s t : State) : Prop where
  entries : t.uplink.entries = s.uplink.entries
  link : t.link = s.link

theorem QueueSame.trans {s t u : State} (h : QueueSame s t) (k : QueueSame t u) : QueueSame s u :=
  ⟨k.entries.trans h.entries, k.link.trans h.link⟩

theorem textOutcome_same (e : Entry) (p : Nat → Payload) (stays : Bool) (s : State) :
    QueueSame s (textOutcome e p stays s) := by
  unfold textOutcome
  split
  · split <;> exact ⟨rfl, rfl⟩
  · exact ⟨rfl, rfl⟩

theorem clearSlotRef_same (e : Entry) (s : State) : QueueSame s (clearSlotRef e s) := by
  unfold clearSlotRef
  split
  · split <;> exact ⟨rfl, rfl⟩
  · exact ⟨rfl, rfl⟩

theorem withBidOffer_same {f : Nat → Offer → State → State} (h : ∀ i o s, QueueSame s (f i o s))
    (e : Entry) (s : State) : QueueSame s (withBidOffer e f s) := by
  unfold withBidOffer
  split
  · split
    · exact h _ _ s
    · exact ⟨rfl, rfl⟩
  · exact ⟨rfl, rfl⟩

theorem flushOutcome_same (e : Entry) (s : State) : QueueSame s (flushOutcome e s) := by
  unfold flushOutcome
  split
  · split
    · exact ⟨rfl, rfl⟩
    · exact clearSlotRef_same e s
    · exact withBidOffer_same (f := bidGone) (fun _ _ _ => ⟨rfl, rfl⟩) e s
    · exact ⟨rfl, rfl⟩
  · split
    · exact textOutcome_same e _ _ s
    · exact withBidOffer_same (f := bidLost) (fun _ _ _ => ⟨rfl, rfl⟩) e s
    all_goals exact ⟨rfl, rfl⟩

theorem flushOutcomes_same (es : List Entry) (s : State) : QueueSame s (flushOutcomes es s) := by
  induction es generalizing s with
  | nil => exact ⟨rfl, rfl⟩
  | cons e es ih => exact (flushOutcome_same e s).trans (ih _)

/-- A flush leaves the ALARM alone in the queue, and the link as it was. -/
theorem flushQueue_same (s : State) :
    (flushQueue s).uplink.entries = s.uplink.entries.filter (fun e => e.cls == .alarm) ∧
      (flushQueue s).link = s.link := by
  obtain ⟨entries, link⟩ := flushOutcomes_same (s.uplink.entries.filter (fun e => e.cls != .alarm))
    (s.setUplink { s.uplink with entries := s.uplink.entries.filter (fun e => e.cls == .alarm) })
  exact ⟨entries, link⟩

theorem placeFrom_same (src : HeldSource) (s : State) : QueueSame s (placeFrom src s) := by
  unfold placeFrom
  cases src <;> simp only
  case offer | slot =>
    split
    · split <;> exact ⟨rfl, rfl⟩
    · exact ⟨rfl, rfl⟩
  all_goals split <;> exact ⟨rfl, rfl⟩

theorem placeMany_same (n : Nat) (s : State) : QueueSame s (placeMany n s) := by
  induction n generalizing s with
  | zero => exact ⟨rfl, rfl⟩
  | succ n ih =>
    have one : QueueSame s (placeOne s) := by
      unfold placeOne
      split
      · split
        · exact placeFrom_same _ s
        · exact ⟨rfl, rfl⟩
      · exact ⟨rfl, rfl⟩
    exact one.trans (ih _)

theorem placeHeld_same (s : State) : QueueSame s (placeHeld s) := placeMany_same _ s

/-! ### The outcomes of a flush (R86) -/

theorem textOutcome_slot {e : Entry} {i : Nat} {x : Slot} {s : State} (hr : e.ref = .slot i)
    (hx : s.pool.slots.getD i none = some x) (p : Nat → Payload) : textOutcome e p false s =
      (s.setPool { s.pool with slots := s.pool.slots.set i (some { x with
        ref := none, attempts := some e.attempts,
        held := some { order := s.book.produced, event :=
          { tag := x.tag, time := s.clock, payload := p i } } }) }).setBook
        { s.book with produced := s.book.produced + 1 } := by
  rw [textOutcome, hr]
  simp only [hx]
  rfl

theorem clearSlotRef_slot {e : Entry} {i : Nat} {x : Slot} {s : State} (hr : e.ref = .slot i)
    (hx : s.pool.slots.getD i none = some x) : clearSlotRef e s = s.setPool { s.pool with
      slots := s.pool.slots.set i
        (if x.held = none then none else some { x with ref := none }) } := by
  rw [clearSlotRef, hr]
  simp only [hx, setSlot, Option.isNone_iff_eq_none]

/-- The owner of a flushed entry that no ACK has answered is told by its class (R86). -/
theorem flushOutcome_unanswered {e : Entry} (h : e.answered = false) (s : State) :
    (e.cls = .release ∨ e.cls = .ack ∨ e.cls = .status → flushOutcome e s = countDropped s) ∧
    (e.cls = .trip → flushOutcome e s = s) ∧
    (e.cls = .bid → flushOutcome e s = withBidOffer e bidLost s) ∧
    (e.cls = .text → flushOutcome e s = textFailed .linkDown e s) := by
  rw [flushOutcome, h]
  refine ⟨?_, fun c => ?_, fun c => ?_, fun c => ?_⟩
  · rintro (c | c | c) <;> rw [c] <;> rfl
  all_goals
    rw [c]
    rfl

/-- An answered entry's owner was told at the ACK: what is left of the entry goes (R35, R86, R126). -/
theorem flushOutcome_answered {e : Entry} (h : e.answered = true) (s : State) :
    (e.cls = .release → flushOutcome e s = s) ∧
    (e.cls = .trip → flushOutcome e s = tripLeaves s) ∧
    (e.cls = .bid → flushOutcome e s = withBidOffer e bidGone s) ∧
    (e.cls = .text → flushOutcome e s = clearSlotRef e s) := by
  rw [flushOutcome, h]
  refine ⟨fun c => ?_, fun c => ?_, fun c => ?_, fun c => ?_⟩
  all_goals
    rw [c]
    rfl

/-! ### The work given up at a fault (R75) -/

/-- The supervisor's cycles and override mark are those of s. -/
structure SupKept (s t : State) : Prop where
  cycles : t.sup.cycles = s.sup.cycles
  override : t.sup.override = s.sup.override

namespace SupKept

theorem refl (s : State) : SupKept s s := ⟨rfl, rfl⟩

theorem trans {s t u : State} (h : SupKept s t) (k : SupKept t u) : SupKept s u :=
  ⟨k.cycles.trans h.cycles, k.override.trans h.override⟩

theorem before {s t u : State} (k : SupKept t u) (h : SupKept s t) : SupKept s u := h.trans k

theorem of_radio {s t : State} (h : RadioSide s t) : SupKept s t := ⟨h.cycles, h.override⟩

theorem of_calm {s t : State} (h : Calm s t) : SupKept s t := by
  constructor <;> rw [h.sup]

theorem closeAll (reason : ClosingReason) (l : List (Nat × Offer)) (s : State) :
    SupKept s (closeAll reason l s) := by
  induction l generalizing s with
  | nil => exact refl s
  | cons x xs ih =>
    have one : SupKept s (closeOffer x.1 x.2 reason .noneOffered s) := ⟨rfl, rfl⟩
    exact one.trans (ih _)

theorem dutyAfter (before : Duty) (tag : Half) (cause : DutyCause) (s : State) :
    SupKept s (dutyAfter before tag cause s) := by
  have told (p : Payload) : SupKept s (produce tag p s) := of_calm (produce_calm tag p s)
  unfold Machine.dutyAfter
  simp only
  split <;> split
  · exact refl s
  · exact told _
  · exact closeAll _ _ s
  · exact (told _).trans (closeAll _ _ _)

theorem awardEntry (i : Nat) (o : Offer) (direct : Bool) (tag : Half) (s : State) :
    SupKept s (awardEntry i o direct tag s) := by
  have placed (t : State) : SupKept t (placeHeld t) := of_calm (placeHeld_calm t)
  have held (x : Option Offer) : SupKept s (countHeld (setOffer i x s)) := ⟨rfl, rfl⟩
  unfold Machine.awardEntry
  exact before (dutyAfter _ _ _ _) (before (placed _) (held _))

theorem applyDeferred (i : Nat) (o : Offer) (s : State) : SupKept s (applyDeferred i o s) := by
  have released : SupKept s (offerRelease o.id s).1 := of_radio (offerRelease_radio o.id s)
  unfold Machine.applyDeferred
  split
  · exact awardEntry i o false o.tag s
  · exact ⟨released.cycles, released.override⟩
  · exact ⟨released.cycles, released.override⟩
  all_goals exact ⟨rfl, rfl⟩

theorem withBidOffer {f : Nat → Offer → State → State} (h : ∀ i o s, SupKept s (f i o s))
    (e : Entry) (s : State) : SupKept s (withBidOffer e f s) := by
  unfold Machine.withBidOffer
  split
  · split
    · exact h _ _ s
    · exact refl s
  · exact refl s

theorem setProgress (p : BidProgress) (i : Nat) (o : Offer) (s : State) :
    SupKept s (setProgress p i o s) := by
  unfold Machine.setProgress
  split <;> exact ⟨rfl, rfl⟩

theorem clearSlotRef (e : Entry) (s : State) : SupKept s (clearSlotRef e s) := by
  unfold Machine.clearSlotRef
  split
  · split <;> exact ⟨rfl, rfl⟩
  · exact refl s

theorem alarmLeft (s : State) : SupKept s (alarmLeft s) := by
  unfold Machine.alarmLeft offerAlarm
  split
  · split
    · split <;> exact ⟨rfl, rfl⟩
    · have offered (k : AlarmKind) : SupKept s
          (offerEntry .alarm (k.body s) k.isTracking k.isCancelled .none s).1 :=
        of_radio (offerEntry_radio _ _ _ _ _ s)
      exact ⟨(offered _).cycles, (offered _).override⟩
  · exact refl s

theorem closeAnswered (e : Entry) (s : State) : SupKept s (closeAnswered e s) := by
  have removed : SupKept s (removeEntry e.seq s) := ⟨rfl, rfl⟩
  unfold Machine.closeAnswered
  simp only
  split
  · exact ⟨rfl, rfl⟩
  · exact removed.trans (clearSlotRef e _)
  · exact removed.trans (withBidOffer (f := bidGone) (fun _ _ _ => ⟨rfl, rfl⟩) e _)
  · exact removed.trans (alarmLeft _)
  · exact removed

theorem closeSent (e : Entry) (s : State) : SupKept s (closeSent e s) := by
  unfold Machine.closeSent
  split
  · have removed (x : Emergency) : SupKept s ((removeEntry e.seq s).setEmerg x) := ⟨rfl, rfl⟩
    exact (removed _).trans (alarmLeft _)
  · exact ⟨rfl, rfl⟩
  · exact ⟨rfl, rfl⟩
  · have waits (f : Entry → Entry) : SupKept s (updateEntry e.seq f s) := ⟨rfl, rfl⟩
    exact (waits _).trans (withBidOffer (setProgress _) e _)
  · exact ⟨rfl, rfl⟩

theorem closeTransmission (s : State) : SupKept s (closeTransmission s) := by
  have cleared : SupKept s (clearKeyed s) := ⟨rfl, rfl⟩
  unfold Machine.closeTransmission
  split
  · split
    · have removed (q : Nat) : SupKept s (removeEntry q (clearKeyed s)) := ⟨rfl, rfl⟩
      exact (removed _).trans (withBidOffer applyDeferred _ _)
    · split
      · exact cleared.trans (closeAnswered _ _)
      · exact cleared.trans (closeSent _ _)
  · exact cleared

end SupKept

theorem linkGiveUp_uplink (s : State) : (linkGiveUp s).uplink = s.uplink := by
  have ignored : (rxIgnored s).uplink = s.uplink := (rxIgnored_apart s).2.1
  unfold linkGiveUp
  simp only
  split
  · exact ignored
  · rfl

theorem giveUpWork_transmitting {s : State} (h : s.link.state = .sending ∨ s.link.state = .tail) :
    giveUpWork s = linkGiveUp (closeTransmission s) := by
  rcases h with h | h <;> rw [giveUpWork, h]

theorem giveUpWork_other {s : State} (h : s.link.state ≠ .sending) (k : s.link.state ≠ .tail) :
    giveUpWork s = linkGiveUp s := by
  unfold giveUpWork
  split
  · exact absurd ‹_› h
  · exact absurd ‹_› k
  · rfl

theorem giveUpWork_sup (s : State) : SupKept s (giveUpWork s) := by
  have given (t : State) : SupKept t (linkGiveUp t) := SupKept.of_radio (linkGiveUp_radio t)
  unfold giveUpWork
  split
  · exact (SupKept.closeTransmission s).trans (given _)
  · exact (SupKept.closeTransmission s).trans (given _)
  · exact given s

/-! ### Power cycle or FAILED (R94, R95, R100) -/

/-- The state of a fault's power cycle, before its report (R94). -/
def cycled (g : State) : State := (g.setSup { g.sup with
    cycles := g.sup.cycles + 1, ready := none, stuckBusy := none, healthy := none,
    powerOff := some g.settings.accepted.powerOffTime }).setLink { g.link with state := .powerOff }

/-- The state of a fault's entry into FAILED, before its factor and its report (R95). -/
def failed (g : State) : State := (g.setSup { g.sup with
    override := false, ready := none, stuckBusy := none, healthy := none,
    powerOff := none }).setLink { g.link with state := .failed }

theorem takeFault_cycles {s g : State} (hg : g = giveUpWork s) (few : g.sup.cycles < 3)
    (clear : g.sup.override = false) (cause : LinkCause) : takeFault cause s =
      tripTest (produce 0 (.linkState (supView s.link.state) .powerOff cause (g.sup.cycles + 1)
        false) (cycled g)) := by
  subst hg
  rw [← clear]
  exact if_pos ⟨few, clear⟩

/-- The entry into FAILED: its LINK_STATE carries the override mark cleared (R95; log entry 36). -/
theorem enterFailed_eq (left : LinkState) (cause : LinkCause) (g : State) :
    enterFailed left cause g =
      flushQueue (produce 0 (.linkState (supView left) .failed cause g.sup.cycles false)
        (raiseFactor .linkFailed (failed g))) := by
  have entered : enterFailed left cause g =
      flushQueue (reportLink left .failed cause 0 (raiseFactor .linkFailed (failed g))) := rfl
  have sup : (raiseFactor .linkFailed (failed g)).sup = (failed g).sup := by
    rw [raiseFactor_eq]
    rfl
  rw [entered, reportLink, sup]
  rfl

theorem takeFault_fails {s g : State} (hg : g = giveUpWork s)
    (h : 3 ≤ g.sup.cycles ∨ g.sup.override = true) (cause : LinkCause) : takeFault cause s =
      flushQueue (produce 0 (.linkState (supView s.link.state) .failed cause g.sup.cycles false)
        (raiseFactor .linkFailed (failed g))) := by
  have out : ¬ (g.sup.cycles < Config.cyclesMax ∧ g.sup.override = false) := by
    rintro ⟨few, clear⟩
    rcases h with h | h
    · exact Nat.not_lt.2 h few
    · rw [h] at clear
      cases clear
  subst hg
  exact (if_neg out).trans (enterFailed_eq _ _ _)

/-- The placing and the flush leave the ALARM alone in the queue and the link in FAILED. -/
theorem fail_flushed {p : Payload} {g t : State} (ht : t = placeHeld (flushQueue (produce 0 p
    (raiseFactor .linkFailed (failed g))))) :
    t.uplink.entries = g.uplink.entries.filter (fun e => e.cls == .alarm) ∧
      t.link.state = .failed := by
  obtain ⟨placed, placedLink⟩ := placeHeld_same (flushQueue (produce 0 p
    (raiseFactor .linkFailed (failed g))))
  obtain ⟨flushed, flushedLink⟩ := flushQueue_same (produce 0 p
    (raiseFactor .linkFailed (failed g)))
  rw [ht, placed, placedLink, flushed, flushedLink, produce_eq, raiseFactor_eq]
  exact ⟨rfl, rfl⟩

/-! ### The three faults (R91 to R93) -/

theorem exec_rdyFall {s : State} (high : s.pins.rdy = true) :
    exec .rdyFall s = .next (rdyFall s) := congrArg Host.Outcome.next (if_pos high)

theorem rdyFall_faults {s : State} (h : channelAccess s.link.state = true) :
    rdyFall s = placeHeld (takeFault .rdyLoss (s.setPins { s.pins with rdy := false })) := if_pos h

theorem rdyFall_elsewhere {s : State} (h : channelAccess s.link.state = false) :
    rdyFall s = s.setPins { s.pins with rdy := false } :=
  if_neg (by exact fun k => Bool.false_ne_true (h.symm.trans k))

/-- What the line or the tick at hand leaves as it was when a fault is taken. -/
structure FaultKept (s v : State) : Prop where
  link : v.link.state = s.link.state
  uplink : v.uplink = s.uplink
  sup : SupKept s v
  quiet : Quiet s v

theorem openTick_fault (s : State) : FaultKept s (openTick s) := by
  obtain ⟨cycles, override, -, link⟩ := openTick_states s
  obtain ⟨-, -, -, -, -, -, -, -, -, -, uplink, -⟩ := openTick_same s
  exact ⟨link, uplink, ⟨cycles, override⟩, openTick_quiet s⟩

/-- A command that finds a fault of the radio, the fault's cause, and the state in which it is taken. -/
def FaultRow (c : Instr) (k : LinkCause) (s v : State) : Prop :=
  (c = .rdyFall ∧ k = .rdyLoss ∧ s.pins.rdy = true ∧ channelAccess s.link.state = true ∧
    v = s.setPins { s.pins with rdy := false }) ∨
  (c = .readyTimerEnd ∧ k = .readyTimeout ∧ s.link.state = .powerOnWait ∧
    s.pins.rdy = false ∧ v = openTick s ∧ v.sup.ready = some 0) ∨
  (c = .stuckBusyTimerEnd ∧ k = .stuckBusy ∧
    (s.link.state = .listen ∨ s.link.state = .contend) ∧
    s.pins.cd = true ∧ v = openTick s ∧ v.sup.stuckBusy = some 0)

theorem FaultRow.exec_eq {c : Instr} {k : LinkCause} {s v : State} (h : FaultRow c k s v) :
    exec c s = .next (placeHeld (takeFault k v)) := by
  rcases h with ⟨rfl, rfl, high, access, rfl⟩ | ⟨rfl, rfl, waits, low, rfl, due⟩ |
    ⟨rfl, rfl, listens, high, rfl, due⟩
  · rw [exec_rdyFall high, rdyFall_faults access]
  · have left : readyLeft (openTick s) = some 0 := (readyLeft_iff _).2
      ⟨⟨(openTick_fault s).link.trans waits, (openTick_pins s).symm ▸ low⟩, due⟩
    rw [exec_readyTimerEnd, atTickOr_due left, readyEnd]
  · have left : stuckBusyLeft (openTick s) = some 0 := (stuckBusyLeft_iff _).2
      ⟨⟨by rw [(openTick_fault s).link, receiving_iff]; exact listens,
        (openTick_pins s).symm ▸ high⟩, due⟩
    rw [exec_stuckBusyTimerEnd, atTickOr_due left, stuckBusyEnd]

theorem FaultRow.kept {c : Instr} {k : LinkCause} {s v : State} (h : FaultRow c k s v) :
    FaultKept s v := by
  rcases h with ⟨-, -, -, -, rfl⟩ | ⟨-, -, -, -, rfl, -⟩ | ⟨-, -, -, -, rfl, -⟩
  · exact ⟨rfl, rfl, ⟨rfl, rfl⟩, Quiet.setPins s _⟩
  · exact openTick_fault s
  · exact openTick_fault s

/-- LINK_STATE shows a fault in channel access as left from LISTEN (R100). -/
theorem FaultRow.view {c : Instr} {k : LinkCause} {s v : State} (h : FaultRow c k s v) :
    supView s.link.state = if s.link.state = .powerOnWait then .powerOnWait else .listen := by
  rcases h with ⟨-, -, -, access, -⟩ | ⟨-, -, waits, -⟩ | ⟨-, -, listens, -⟩
  · rw [supView, if_pos access, if_neg]
    intro waits
    rw [waits] at access
    cases access
  · rw [waits]
    rfl
  · rcases listens with l | l <;> rw [l] <;> rfl

/-- A fault's outcome by the cycles used and the override mark, in the terms of the state that gave up its work. -/
theorem FaultRow.outcome {c : Instr} {k : LinkCause} {s v g : State} (h : FaultRow c k s v)
    (hg : g = giveUpWork v) {l : LinkState}
    (hl : l = if s.link.state = .powerOnWait then .powerOnWait else .listen) :
    (s.sup.cycles < 3 → s.sup.override = false → exec c s = .next (placeHeld (tripTest (produce 0
      (.linkState l .powerOff k (s.sup.cycles + 1) false)
      ((g.setSup { g.sup with
        cycles := s.sup.cycles + 1, ready := none, stuckBusy := none, healthy := none,
        powerOff := some s.settings.accepted.powerOffTime }).setLink
          { g.link with state := .powerOff }))))) ∧
    (3 ≤ s.sup.cycles ∨ s.sup.override = true → exec c s = .next (placeHeld (flushQueue
      (produce 0 (.linkState l .failed k s.sup.cycles false)
        (raiseFactor .linkFailed (failed g)))))) := by
  obtain ⟨link, -, sup, quiet⟩ := h.kept
  have given : SupKept s g := sup.trans (hg ▸ giveUpWork_sup v)
  have accepted : g.settings.accepted = s.settings.accepted := by
    rw [hg, (giveUpWork_quiet v).accepted, quiet.accepted]
  rw [h.exec_eq, hl, ← h.view, ← link, ← given.cycles, ← given.override, ← accepted]
  refine ⟨fun few clear => ?_, fun out => ?_⟩
  · rw [takeFault_cycles hg few clear]
    rfl
  · rw [takeFault_fails hg out]

theorem readyLeft_not_due {s : State} (h : s.link.state ≠ .powerOnWait ∨ s.pins.rdy = true ∨
    (openTick s).sup.ready ≠ some 0) : readyLeft (openTick s) ≠ some 0 := by
  rw [Ne, readyLeft_iff, (openTick_fault s).link, openTick_pins]
  rintro ⟨⟨waits, low⟩, due⟩
  rcases h with h | h | h
  · exact h waits
  · rw [h] at low
    cases low
  · exact h due

theorem stuckBusyLeft_not_due {s : State} (h : s.pins.cd = false ∨
    s.link.state ≠ .listen ∧ s.link.state ≠ .contend ∨
    (openTick s).sup.stuckBusy ≠ some 0) : stuckBusyLeft (openTick s) ≠ some 0 := by
  rw [Ne, stuckBusyLeft_iff, (openTick_fault s).link, openTick_pins, receiving_iff]
  rintro ⟨⟨listens, high⟩, due⟩
  rcases h with h | ⟨h, k⟩ | h
  · rw [h] at high
    cases high
  · exact listens.elim h k
  · exact h due

/-- Settles O32: the fault by its row, the work given up by the state left, the outcome by cycles and mark, the flush entry by entry. -/
theorem radioFaultsCyclePowerOrFail : Obligations.RadioFaultsCyclePowerOrFail := by
  refine ⟨fun c k s v row => ?_, fun s high other => ?_, fun s => ⟨fun h => ⟨fun early => ?_,
    fun taken => ?_⟩, fun h => ⟨fun early => ?_, fun taken => ?_⟩⟩,
    fun s => ⟨rfl, rfl, fun _ _ => rfl⟩, fun e s => ⟨fun untold => ?_, fun told => ?_⟩⟩
  · replace row : FaultRow c k s v := row
    obtain ⟨link, uplink, sup, quiet⟩ := row.kept
    have given : SupKept s (giveUpWork v) := sup.trans (giveUpWork_sup v)
    obtain ⟨cycles, fails⟩ := row.outcome (g := giveUpWork v) rfl rfl
    refine ⟨_, giveUpWork v, rfl, fun sends => ?_, fun quietly still => ?_, given.cycles,
      given.override, cycles, fun out => ⟨_, fails out, rfl, ?_⟩⟩
    · rw [giveUpWork_transmitting (by rw [link]; exact sends)]
      exact linkGiveUp_givesUp _
    · rw [giveUpWork_other (by rw [link]; exact quietly) (by rw [link]; exact still)]
      exact ⟨linkGiveUp_givesUp v, (linkGiveUp_uplink v).trans uplink⟩
    · obtain ⟨entries, state⟩ := fail_flushed (g := giveUpWork v) rfl
      refine ⟨entries, state, ?_⟩
      have taken := quiet.trans ((takeFault_quiet k v).trans (placeHeld_quiet _))
      have answer := row.exec_eq.symm.trans (fails out)
      rw [Host.Outcome.next.injEq] at answer
      rw [answer] at taken
      exact taken.restKept
  · rw [exec_rdyFall high, rdyFall_elsewhere other]
  · rw [exec_readyTimerEnd, atTickOr_early (readyLeft_not_due h) early]
  · rw [exec_readyTimerEnd, atTickOr_taken (readyLeft_not_due h) taken]
  · rw [exec_stuckBusyTimerEnd, atTickOr_early (stuckBusyLeft_not_due h) early]
  · rw [exec_stuckBusyTimerEnd, atTickOr_taken (stuckBusyLeft_not_due h) taken]
  · obtain ⟨dropped, trip, bid, text⟩ := flushOutcome_unanswered untold s
    refine ⟨dropped, trip, fun i o hc hr ho => ?_, fun i x hc hr hx => ?_⟩
    · rw [bid hc, withBidOffer_some hr ho, bidLost]
    · rw [text hc, textFailed, textOutcome_slot hr hx]
  · obtain ⟨release, trip, bid, text⟩ := flushOutcome_answered told s
    refine ⟨release, trip, fun i o hc hr ho => ?_, fun i x hc hr hx => ?_⟩
    · rw [bid hc, withBidOffer_some hr ho]
      rfl
    · rw [text hc, clearSlotRef_slot hr hx]

end Sys2Proof.Machine

namespace Sys2Proof.Machine

/-! ### The ends of ACK timers (R36, R85, R113, R130) -/

theorem exec_ackTimerEnd_waiting {q : Byte} {e : Entry} {s : State}
    (h : entryWith q.toNat s = some e) (k : e.state = .awaitAck) :
    exec (.ackTimerEnd q) s = .next (ackTimeout e s) := by
  have row : exec (.ackTimerEnd q) s = execAckTimerEnd q s := rfl
  rw [row, execAckTimerEnd, h]
  exact congrArg Host.Outcome.next (if_pos k)

theorem exec_ackTimerEnd_other {q : Byte} {e : Entry} {s : State}
    (h : entryWith q.toNat s = some e) (k : e.state ≠ .awaitAck) :
    exec (.ackTimerEnd q) s = .next s := by
  have row : exec (.ackTimerEnd q) s = execAckTimerEnd q s := rfl
  rw [row, execAckTimerEnd, h]
  exact congrArg Host.Outcome.next (if_neg k)

/-- The entry is QUEUED again, its ACK timer stopped (R85). -/
def requeued (q : Nat) (s : State) : State :=
  updateEntry q (fun x => { x with state := .queued, ackTimer := none }) s

theorem ackTimeout_retries {e : Entry} {s : State} (h : e.attempts < s.settings.accepted.attempts)
    (k : e.cls ≠ .bid) : ackTimeout e s = linkReact (requeued e.seq s) :=
  (if_pos h).trans (congrArg linkReact (if_neg k))

theorem ackTimeout_retries_bid {e : Entry} {s : State}
    (h : e.attempts < s.settings.accepted.attempts) (k : e.cls = .bid) :
    ackTimeout e s = linkReact (withBidOffer e (setProgress .queued) (requeued e.seq s)) :=
  (if_pos h).trans (congrArg linkReact (if_pos k))

theorem ackTimeout_exhausts {e : Entry} {s : State}
    (h : s.settings.accepted.attempts ≤ e.attempts) :
    ackTimeout e s = placeHeld (leaveQueue e.seq (tellExhausted e s)) :=
  if_neg (Nat.not_lt.2 h)

/-- The bid progress of an entry with no deferred outcome follows its BID (R113). -/
theorem setProgress_clear {o : Offer} (h : o.deferred = none) (p : BidProgress) (i : Nat)
    (s : State) : setProgress p i o s = setOffer i (some { o with progress := some p }) s :=
  if_pos (Option.isNone_iff_eq_none.2 h)

/-- An exhausted RELEASE has no owner to tell; a TRIP starts the holdoff (R36, R85). -/
theorem tellExhausted_release {e : Entry} (h : e.cls = .release) (s : State) :
    tellExhausted e s = s := by
  rw [tellExhausted, h]

theorem tellExhausted_trip {e : Entry} (h : e.cls = .trip) (s : State) :
    tellExhausted e s = s.setTrip { s.trip with holdoff := some 60 } := by
  rw [tellExhausted, h]
  rfl

theorem tellExhausted_text {e : Entry} {i : Nat} {x : Slot} {s : State} (h : e.cls = .text)
    (hr : e.ref = .slot i) (hx : s.pool.slots.getD i none = some x) : tellExhausted e s =
      (s.setPool { s.pool with slots := s.pool.slots.set i (some { x with
        ref := none, attempts := some e.attempts,
        held := some { order := s.book.produced, event :=
          { tag := x.tag, time := s.clock,
            payload := .textFailed .link i e.seq e.attempts } } }) }).setBook
        { s.book with produced := s.book.produced + 1 } := by
  rw [tellExhausted, h]
  exact textOutcome_slot hr hx _

theorem tellExhausted_bid {e : Entry} {i : Nat} {o : Offer} {s : State} (h : e.cls = .bid)
    (hr : e.ref = .offer i) (ho : s.offers.entries.getD i none = some o) :
    tellExhausted e s = closeOffer i o .link .noneOffered s := by
  rw [tellExhausted, h]
  exact withBidOffer_some hr ho bidLost

/-- Settles O27: below the attempts per frame by whether the owner follows its entry, else by the entry's class. -/
theorem ackTimerEndsRetryOrExhaustTheEntry : Obligations.AckTimerEndsRetryOrExhaustTheEntry := by
  intro q e s h
  have seq : e.seq = q.toNat := (entryWith_mem h).2
  refine ⟨exec_ackTimerEnd_other h, fun waits few other => ?_,
    fun i o waits few bid ref offer clear => ?_, fun waits spent =>
    ⟨fun release => ?_, fun trip => ?_, fun i x text ref slot => ?_, fun i o bid ref offer => ?_⟩,
    rfl, rfl⟩
  · rw [exec_ackTimerEnd_waiting h waits, ackTimeout_retries few other, seq]
    rfl
  · rw [exec_ackTimerEnd_waiting h waits, ackTimeout_retries_bid few bid,
      withBidOffer_some ref (by exact offer), setProgress_clear clear, seq]
    rfl
  all_goals rw [exec_ackTimerEnd_waiting h waits, ackTimeout_exhausts spent, seq]
  · rw [tellExhausted_release release]
  · rw [tellExhausted_trip trip]
  · rw [tellExhausted_text text ref slot, seq]
  · rw [tellExhausted_bid bid ref offer]

end Sys2Proof.Machine

namespace Sys2Proof.Machine

/-! ### POLL, CHANNEL and the application of a channel (R74, R101) -/

theorem noFrameInAssembly_iff (s : State) :
    noFrameInAssembly s = true ↔ s.rx.deframer = .hunt ∨ s.rx.deframer = .syncHalf := by
  simp only [noFrameInAssembly, Bool.or_eq_true, decide_eq_true_eq]

/-- With no frame in assembly nothing is counted when RXD becomes ignored (R45). -/
theorem rxIgnored_free {s : State} (h : noFrameInAssembly s = true) :
    rxIgnored s = s.setRx s.rx.hunt := by
  rcases (noFrameInAssembly_iff s).1 h with h | h <;> rw [rxIgnored, h]

theorem applyChannel_free {s : State} {c : Nat} (h : noFrameInAssembly s = true)
    (pending : s.link.pendingChannel = some c) :
    applyChannel s = ((s.setRx s.rx.hunt).setSup { s.sup with stuckBusy := none }).setLink
      { s.link with
        state := .settle, channel := c, pendingChannel := none, target := none, backoff := 0,
        slotTimer := none, clock := none, dwellPassed := false, keyed := none,
        phaseTimer := some 250, tx := [] } := by
  have channel : s.link.pendingChannel.getD s.link.channel = c := by rw [pending]; rfl
  rw [applyChannel, rxIgnored_free h, ← channel]
  rfl

theorem exec_channelChangeApply {s : State} (listens : s.link.state = .listen)
    (pending : s.link.pendingChannel ≠ none) (free : noFrameInAssembly s = true) :
    exec .channelChangeApply s = .next (applyChannel s) :=
  congrArg Host.Outcome.next (if_pos ⟨listens, Option.isSome_iff_ne_none.2 pending, free⟩)

theorem exec_channelChangeApply_waits {s : State} (h : s.link.state ≠ .listen ∨
    s.link.pendingChannel = none ∨ noFrameInAssembly s = false) :
    exec .channelChangeApply s = .next s := by
  refine congrArg Host.Outcome.next (if_neg ?_)
  rintro ⟨listens, pending, free⟩
  rcases h with h | h | h
  · exact h listens
  · rw [h] at pending
    cases pending
  · rw [h] at free
    cases free

theorem offerOrDrop_admitted {cls : UpClass} {body : List Byte} {ref : OwnerRef} {s : State}
    (h : (offerEntry cls body false false ref s).2.ok = true) :
    offerOrDrop cls body ref s = offerEntry cls body false false ref s := if_pos h

/-- An entry that is not admitted is dropped and counted (R79). -/
theorem offerOrDrop_dropped {cls : UpClass} {body : List Byte} {ref : OwnerRef} {s : State}
    (h : (offerEntry cls body false false ref s).2.ok = false) :
    offerOrDrop cls body ref s = (countDropped (offerEntry cls body false false ref s).1,
      (offerEntry cls body false false ref s).2) :=
  if_neg (by rw [h]; exact Bool.false_ne_true)

/-- A CHANNEL body is one byte, the channel's number (Table 48). -/
theorem channelBody_one {body : List Byte} {c : Byte} (h : body = [c]) (k : c.toNat ≤ 3) :
    channelBody body = some c.toNat := by
  rw [h]
  exact if_pos k

theorem channelBody_bad {body : List Byte}
    (h : body.length ≠ 1 ∨ ∃ c : Byte, body = [c] ∧ 3 < c.toNat) : channelBody body = none := by
  unfold channelBody
  split
  · rename_i c
    refine if_neg (Nat.not_le.2 ?_)
    rcases h with h | ⟨d, hd, k⟩
    · exact absurd rfl h
    · cases hd
      exact k
  · rfl

theorem ownChannel_good {f : DownFrame} {c : Nat} (h : channelBody f.body = some c) (s : State) :
    ownChannel f s = linkReact (s.setLink { s.link with
      pendingChannel := if c = s.link.channel then none else some c }) := by
  rw [ownChannel, h]

theorem ownChannel_bad {f : DownFrame} (h : channelBody f.body = none) (s : State) :
    ownChannel f s = s := by
  rw [ownChannel, h]

/-- POLL has no ACK duty: the supervisor takes it (R101). -/
theorem exec_poll_cab {f : DownFrame} {s : State} (run : s.phase = .running)
    (cab : scopeOf f.flags = 0) : exec (.poll f) s = .next (freeBuffer 0x1A f (ownPoll s)) := by
  rw [exec_poll run, takePoll, handOver_without_ack (by rw [cab]; rfl) rfl]
  rfl

/-- CHANNEL has no ACK duty: the link takes it (R74). -/
theorem exec_channel_allowed {f : DownFrame} {s : State} (run : s.phase = .running)
    (allowed : scopeOf f.flags ≤ 2) :
    exec (.channel f) s = .next (freeBuffer 0x1B f (ownChannel f s)) := by
  rw [exec_channel run, takeChannel, handOver_without_ack (c := .channel) (decide_eq_true allowed) rfl]
  rfl

/-- Settles O28: POLL by whether its STATUS is admitted, CHANNEL by its body, the application by what the link may. -/
theorem pollAndChannelFramesReachTheLink : Obligations.PollAndChannelFramesReachTheLink := by
  intro f s run
  refine ⟨fun cab => ⟨fun admitted => ?_, fun dropped => ⟨_, rfl, ?_⟩⟩,
    fun allowed => ⟨fun c body small => ?_, fun bad => ?_⟩,
    fun listens free c pending => ⟨applyChannel s, ?_, ?_⟩, exec_channelChangeApply_waits⟩
  · rw [exec_poll_cab run cab, ownPoll, offerOrDrop_admitted admitted]
  · rw [exec_poll_cab run cab, ownPoll, offerOrDrop_dropped dropped]
    rfl
  · rw [exec_channel_allowed run allowed, ownChannel_good (channelBody_one body small)]
  · rw [exec_channel_allowed run allowed, ownChannel_bad (channelBody_bad bad)]
  · rw [exec_channelChangeApply listens (by rw [pending]; exact nofun) free]
  · have enters := applyChannel_enters pending
    have kept := (applyChannel_quiet s).restKept
    rw [applyChannel_free free pending] at enters kept ⊢
    exact ⟨rfl, rfl, rfl, enters, rfl, rfl, rfl, rfl, rfl, kept⟩

end Sys2Proof.Machine

namespace Sys2Proof.Machine

/-! ### The close of transmission (R35, R72, R113, R119, R126, R142) -/

theorem keyedEntry_iff {s : State} {e : Entry} : keyedEntry s = some e ↔
    ∃ q, s.link.keyed = some q ∧ entryWith q s = some e ∧ e.state = .onAir := by
  unfold keyedEntry
  constructor
  · intro h
    split at h
    · rename_i x hx
      rw [Option.ite_none_right_eq_some] at h
      obtain ⟨air, same⟩ := h
      cases same
      obtain ⟨q, keyed, entry⟩ := Option.bind_eq_some_iff.1 hx
      exact ⟨q, keyed, entry, air⟩
    · cases h
  · rintro ⟨q, keyed, entry, air⟩
    have found : s.link.keyed.bind (fun q => entryWith q s) = some e := by
      rw [keyed]
      exact entry
    rw [found]
    exact if_pos air

theorem closeTransmission_none {s : State} (h : keyedEntry s = none) :
    closeTransmission s = clearKeyed s := by
  rw [closeTransmission, h]

/-- An abandoned BID: its deferred outcome is applied (R119). -/
theorem closeTransmission_abandoned {s : State} {e : Entry} (h : keyedEntry s = some e)
    (bid : e.cls = .bid) (mark : e.abandon = true) : closeTransmission s =
      withBidOffer e applyDeferred (removeEntry e.seq (clearKeyed s)) := by
  rw [closeTransmission, h]
  exact if_pos ⟨bid, mark⟩

theorem applyDeferred_award {o : Offer} (h : o.deferred = some .award) (i : Nat) (s : State) :
    applyDeferred i o s = awardEntry i o false o.tag s := by
  simp only [applyDeferred, h]

theorem applyDeferred_taken {o : Offer} (h : o.deferred = some .taken) (i : Nat) (s : State) :
    applyDeferred i o s = closeOffer i o .taken .noneOffered s := by
  simp only [applyDeferred, h]

/-- An abandoned job or a late award offers its RELEASE before the entry closes (R119). -/
theorem applyDeferred_abandon {o : Offer} (h : o.deferred = some .abandon) (i : Nat) (s : State) :
    applyDeferred i o s =
      closeOffer i o .abandoned (offerRelease o.id s).2 (offerRelease o.id s).1 := by
  simp only [applyDeferred, h]

theorem applyDeferred_late {o : Offer} (h : o.deferred = some .late) (i : Nat) (s : State) :
    applyDeferred i o s = closeWith i o none 0
      (.lateAward o.id .abandoned (offerRelease o.id s).2) (offerRelease o.id s).1 := by
  simp only [applyDeferred, h]

/-- The close of an abandoned BID by the outcome deferred (R119). -/
theorem closeTransmission_deferred {s : State} {e : Entry} {i : Nat} {o : Offer}
    (h : keyedEntry s = some e) (mark : e.abandon = true) (bid : e.cls = .bid)
    (ref : e.ref = .offer i) (offer : s.offers.entries.getD i none = some o) :
    closeTransmission s = applyDeferred i o (removeEntry e.seq (clearKeyed s)) := by
  rw [closeTransmission_abandoned h bid mark]
  exact withBidOffer_some ref (by exact offer) applyDeferred

/-- Only a BID that is marked abandoned is closed with a deferred outcome (R72). -/
theorem not_abandonedBid {e : Entry} (h : e.cls ≠ .bid ∨ e.abandon = false) :
    ¬(e.cls = .bid ∧ e.abandon = true) := by
  rintro ⟨bid, mark⟩
  rcases h with h | h
  · exact h bid
  · rw [h] at mark
    cases mark

/-- An entry answered while ON_AIR (R72). -/
theorem closeTransmission_answered {s : State} {e : Entry} (h : keyedEntry s = some e)
    (answered : e.answered = true) (kept : e.cls ≠ .bid ∨ e.abandon = false) :
    closeTransmission s = closeAnswered e (clearKeyed s) := by
  rw [closeTransmission, h]
  exact (if_neg (not_abandonedBid kept)).trans (if_pos answered)

/-- An entry that was sent and has no answer yet (R72). -/
theorem closeTransmission_sent {s : State} {e : Entry} (h : keyedEntry s = some e)
    (waiting : e.answered = false) (kept : e.cls ≠ .bid ∨ e.abandon = false) :
    closeTransmission s = closeSent e (clearKeyed s) := by
  rw [closeTransmission, h]
  exact (if_neg (not_abandonedBid kept)).trans
    (if_neg (by rw [waiting]; exact Bool.false_ne_true))

/-- A RELEASE, TRIP or TEXT waits for its ACK from its close on (R72). -/
theorem closeSent_waits {e : Entry} (h : e.cls = .release ∨ e.cls = .trip ∨ e.cls = .text)
    (s : State) : closeSent e s = updateEntry e.seq (fun x => { x with
      state := .awaitAck, ackTimer := some s.settings.accepted.ackTimeout }) s := by
  rcases h with h | h | h <;> rw [closeSent, h]

/-- A BID waits for its ACK too, and its offer entry follows it (R72, R113). -/
theorem closeSent_bid {e : Entry} {i : Nat} {o : Offer} {s : State} (h : e.cls = .bid)
    (hr : e.ref = .offer i) (ho : s.offers.entries.getD i none = some o)
    (clear : o.deferred = none) :
    closeSent e s = setOffer i (some { o with progress := some .awaitAck })
      (updateEntry e.seq (fun x => { x with
        state := .awaitAck, ackTimer := some s.settings.accepted.ackTimeout }) s) := by
  rw [closeSent, h]
  exact (withBidOffer_some hr (by exact ho) _).trans (setProgress_clear clear _ i _)

theorem closeSent_leaves {e : Entry} (h : e.cls = .ack ∨ e.cls = .status) (s : State) :
    closeSent e s = removeEntry e.seq s := by
  rcases h with h | h <;> rw [closeSent, h]

theorem closeSent_alarm {e : Entry} (h : e.cls = .alarm) (s : State) : closeSent e s =
    alarmLeft ((removeEntry e.seq s).setEmerg { s.emerg with lastSent := s.clock }) := by
  rw [closeSent, h]

theorem closeAnswered_bid {e : Entry} {i : Nat} {o : Offer} {s : State} (h : e.cls = .bid)
    (hr : e.ref = .offer i) (ho : s.offers.entries.getD i none = some o) :
    closeAnswered e s = bidGone i o (removeEntry e.seq s) := by
  rw [closeAnswered, h]
  exact withBidOffer_some hr (by exact ho) bidGone

theorem closeAnswered_text {e : Entry} {i : Nat} {x : Slot} {s : State} (h : e.cls = .text)
    (hr : e.ref = .slot i) (hx : s.pool.slots.getD i none = some x) :
    closeAnswered e s = (removeEntry e.seq s).setPool { s.pool with
      slots := s.pool.slots.set i
        (if x.held = none then none else some { x with ref := none }) } := by
  rw [closeAnswered, h]
  exact clearSlotRef_slot hr hx

theorem closeAnswered_trip {e : Entry} (h : e.cls = .trip) (s : State) :
    closeAnswered e s = tripLeaves (removeEntry e.seq s) := by
  rw [closeAnswered, h]

theorem closeAnswered_release {e : Entry} (h : e.cls = .release) (s : State) :
    closeAnswered e s = removeEntry e.seq s := by
  rw [closeAnswered, h]

theorem closeAnswered_alarm {e : Entry} (h : e.cls = .alarm) (s : State) :
    closeAnswered e s = alarmLeft (removeEntry e.seq s) := by
  rw [closeAnswered, h]

/-- The ALARM has left the queue; one that was sent without an answer has its time kept (R72, R142). -/
def alarmClosed (e : Entry) (s : State) : State :=
  if e.answered then removeEntry e.seq (clearKeyed s)
  else (removeEntry e.seq (clearKeyed s)).setEmerg { s.emerg with lastSent := s.clock }

theorem alarmClosed_owed (e : Entry) (s : State) :
    (alarmClosed e s).emerg.owed = s.emerg.owed := by
  unfold alarmClosed
  split <;> rfl

/-- At the close of an ALARM the offer owed is made (R142). -/
theorem closeTransmission_alarm {s : State} {e : Entry} (h : keyedEntry s = some e)
    (alarm : e.cls = .alarm) : closeTransmission s = alarmLeft (alarmClosed e s) := by
  have kept : e.cls ≠ .bid ∨ e.abandon = false := Or.inl (by rw [alarm]; exact UpClass.noConfusion)
  cases answered : e.answered with
  | true =>
    rw [closeTransmission_answered h answered kept, closeAnswered_alarm alarm, alarmClosed,
      if_pos answered]
  | false =>
    rw [closeTransmission_sent h answered kept, closeSent_alarm alarm, alarmClosed,
      if_neg (by rw [answered]; exact Bool.false_ne_true)]
    rfl

theorem alarmLeft_none {s : State} (h : s.emerg.owed = none) : alarmLeft s = s := by
  rw [alarmLeft, h]

theorem alarmLeft_some {s : State} {o : OwedAlarm} (h : s.emerg.owed = some o) :
    alarmLeft s = offerAlarm o.kind s := by
  rw [alarmLeft, h]

theorem closeTransmission_alarm_owes {s : State} {e : Entry} {o : OwedAlarm}
    (h : keyedEntry s = some e) (alarm : e.cls = .alarm) (owed : s.emerg.owed = some o) :
    closeTransmission s = offerAlarm o.kind (alarmClosed e s) := by
  rw [closeTransmission_alarm h alarm, alarmLeft_some ((alarmClosed_owed e s).trans owed)]

/-! ### TAIL, TURNAROUND and SETTLE (R45, R71 to R74, R92) -/

theorem exec_transmissionEnd {s : State} (h : s.link.state = .sending) :
    exec .transmissionEnd s = .next (transmissionEnd s) :=
  congrArg Host.Outcome.next (if_pos h)

theorem transmissionEnd_waits {s : State} (h : s.settings.accepted.tail ≠ 0) :
    transmissionEnd s = s.setLink { s.link with
      state := .tail, phaseTimer := some s.settings.accepted.tail, tx := [] } := if_neg h

/-- A tail time of 0 ends TAIL at once (R71). -/
theorem transmissionEnd_closes {s : State} (h : s.settings.accepted.tail = 0) :
    transmissionEnd s = tailEnd (s.setLink { s.link with
      state := .tail, phaseTimer := some 0, tx := [] }) := by
  rw [← h]
  exact if_pos h

theorem exec_tailEnd {s : State} (h : s.link.state = .tail) :
    exec .tailEnd s = .next (tailEnd s) := congrArg Host.Outcome.next (if_pos h)

theorem exec_turnaroundEnd {s : State} (h : s.link.state = .turnaround) :
    exec .turnaroundEnd s =
      .next (if s.link.pendingChannel.isSome then applyChannel s else enterListen s) :=
  congrArg Host.Outcome.next (if_pos h)

theorem exec_settleEnd {s : State} (h : s.link.state = .settle) :
    exec .settleEnd s = .next (enterListen s) := congrArg Host.Outcome.next (if_pos h)

/-- The link in LISTEN as it comes from a state that ignored RXD, before it acts on what waits (R45, R92). -/
def listening (s : State) : State := ((s.setSup { s.sup with
    stuckBusy := if s.pins.cd then some s.settings.accepted.busyLimit else none }).setRx
      s.rx.hunt).setLink { s.link.idle with state := .listen }

theorem enterListen_eq (s : State) : enterListen s = linkReact (listening s) :=
  (linkReact_listen (s := listening s) rfl).symm

/-- A pending channel that is applied takes the link into SETTLE, whatever state it leaves (R74). -/
theorem applyChannel_spec {c : Nat} {s t : State} (ht : t = applyChannel s)
    (pending : s.link.pendingChannel = some c) :
    t.link.state = .settle ∧ t.link.channel = c ∧ t.link.pendingChannel = none ∧
      t.link.phaseTimer = some 250 ∧ t.uplink = s.uplink ∧ EntersSettle c s t ∧ RestKept s t := by
  subst ht
  have channel : (applyChannel s).link.channel = c := by
    obtain ⟨v, -, entered⟩ := applyChannel_enters pending
    rw [entered]
    rfl
  exact ⟨rfl, channel, rfl, rfl, (rxIgnored_apart s).2.1, applyChannel_enters pending,
    (applyChannel_quiet s).restKept⟩

/-- Settles O31: the rows by the link's state, the close of transmission by the entry's class and marks. -/
theorem transmissionsCloseAndTheLinkListensAgain :
    Obligations.TransmissionsCloseAndTheLinkListensAgain := by
  intro s
  have other {e : Entry} {c : UpClass} (h : e.cls = c) (k : c ≠ .bid) :
      e.cls ≠ .bid ∨ e.abandon = false := Or.inl (by rw [h]; exact k)
  refine ⟨fun sends tail => ?_, fun sends tail => ?_, fun st => exec_tailEnd st,
    fun e h waiting cls => ?_, fun e i o h waiting unmarked bid ref offer clear => ?_,
    fun e i o h mark bid ref offer => ⟨_, rfl, fun d => ?_, fun d => ?_, fun d => ?_, fun d => ?_⟩,
    fun e i o h answered unmarked bid ref offer => ?_, fun e i x h answered text ref slot => ?_,
    fun e h waiting cls => ?_, fun e h answered trip => ?_, fun e h answered release => ?_,
    fun e h alarm => ⟨alarmClosed e s, fun waiting => ?_, fun answered => if_pos answered,
      fun owed => ?_, closeTransmission_alarm_owes h alarm, closeTransmission_alarm_owes h alarm,
      fun r a owed => closeTransmission_alarm_owes h alarm owed⟩,
    closeTransmission_none, fun e => keyedEntry_iff, fun st c pending => ⟨_, ?_,
      applyChannel_spec rfl pending⟩, ⟨enterListen s, enterListen_eq s, fun st idle => ?_,
      exec_settleEnd⟩⟩
  · rw [exec_transmissionEnd sends, transmissionEnd_waits tail]
  · rw [exec_transmissionEnd sends, transmissionEnd_closes tail, exec_tailEnd rfl]
  · have kept : e.cls ≠ .bid ∨ e.abandon = false := by
      rcases cls with c | c | c <;> exact other c UpClass.noConfusion
    rw [closeTransmission_sent h waiting kept, closeSent_waits cls]
    rfl
  · rw [closeTransmission_sent h waiting (Or.inr unmarked),
      closeSent_bid bid ref (by exact offer) clear]
    rfl
  · rw [closeTransmission_deferred h mark bid ref offer, applyDeferred_award d]
    rfl
  · rw [closeTransmission_deferred h mark bid ref offer, applyDeferred_taken d]
    rfl
  · rw [closeTransmission_deferred h mark bid ref offer, applyDeferred_abandon d]
    exact ⟨_, _, rfl, rfl⟩
  · rw [closeTransmission_deferred h mark bid ref offer, applyDeferred_late d]
    exact ⟨_, _, rfl, rfl⟩
  · rw [closeTransmission_answered h answered (Or.inr unmarked),
      closeAnswered_bid bid ref (by exact offer)]
    rfl
  · rw [closeTransmission_answered h answered (other text UpClass.noConfusion),
      closeAnswered_text text ref (by exact slot)]
    rfl
  · have kept : e.cls ≠ .bid ∨ e.abandon = false := by
      rcases cls with c | c <;> exact other c UpClass.noConfusion
    rw [closeTransmission_sent h waiting kept, closeSent_leaves cls]
    rfl
  · rw [closeTransmission_answered h answered (other trip UpClass.noConfusion),
      closeAnswered_trip trip]
    rfl
  · rw [closeTransmission_answered h answered (other release UpClass.noConfusion),
      closeAnswered_release release]
    rfl
  · exact if_neg (by rw [waiting]; exact Bool.false_ne_true)
  · rw [closeTransmission_alarm h alarm, alarmLeft_none ((alarmClosed_owed e s).trans owed)]
  · rw [exec_turnaroundEnd st, pending]
    rfl
  · rw [exec_turnaroundEnd st, idle]
    rfl

end Sys2Proof.Machine

namespace Sys2Proof.Machine

/-! ### Downlink ACKs (R35, R84, R113, R129, R180, R185) -/

theorem needsAck_iff (c : UpClass) :
    c.needsAck = true ↔ c = .bid ∨ c = .release ∨ c = .trip ∨ c = .text := by
  cases c <;> simp [UpClass.needsAck]

theorem needsAck_false_iff (c : UpClass) :
    c.needsAck = false ↔ c = .alarm ∨ c = .ack ∨ c = .status := by
  cases c <;> simp [UpClass.needsAck]

/-- What an ACK looks for: the class and the sequence, an entry that needs an ACK and has none (R84). -/
theorem acks_iff (c : Byte) (q : Nat) (e : Entry) :
    (e.cls.code == c && e.seq == q && e.cls.needsAck && !e.answered) = true ↔
      e.cls.code = c ∧ e.seq = q ∧ e.cls.needsAck = true ∧ e.answered = false := by
  simp only [Bool.and_eq_true, beq_iff_eq, Bool.not_eq_true', and_assoc]

theorem ackMatch_some {c : Byte} {q : Nat} {s : State} {e : Entry} (h : ackMatch c q s = some e) :
    e.cls.code = c ∧ e.seq = q ∧ e.cls.needsAck = true ∧ e.answered = false := by
  rw [ackMatch] at h
  have acks := List.find?_some h
  exact (acks_iff c q e).1 acks

theorem ackMatch_none_iff (c : Byte) (q : Nat) (s : State) : ackMatch c q s = none ↔
    ∀ e ∈ s.uplink.entries, e.cls.code = c → e.seq = q → e.answered = false →
      e.cls = .alarm ∨ e.cls = .ack ∨ e.cls = .status := by
  rw [ackMatch, List.find?_eq_none]
  refine forall₂_congr fun e _ => ?_
  rw [acks_iff]
  constructor
  · intro h code seq waiting
    exact (needsAck_false_iff _).1 (Bool.eq_false_iff.2 fun needs => h ⟨code, seq, needs, waiting⟩)
  · rintro h ⟨code, seq, needs, waiting⟩
    exact Bool.eq_false_iff.1 ((needsAck_false_iff _).2 (h code seq waiting)) needs

/-- Table 48: an ACK body is class, sequence, result and a reserved byte, of which the result is a code (R180, R185). -/
theorem ackBody_eq_some_iff (body : List Byte) (c : Byte) (q : Nat) (r : AckResult) :
    ackBody body = some (c, q, r) ↔ ∃ p x y : Byte, body = [c, p, x, y] ∧ q = p.toNat ∧
      (x = 0 ∧ r = .taken ∨ x = 1 ∧ r = .refused) := by
  constructor
  · intro h
    unfold ackBody at h
    split at h
    · rename_i d p x y
      split at h
      · cases h
        exact ⟨p, x, y, rfl, rfl, Or.inl ⟨‹_›, rfl⟩⟩
      · split at h
        · cases h
          exact ⟨p, x, y, rfl, rfl, Or.inr ⟨‹_›, rfl⟩⟩
        · cases h
    · cases h
  · rintro ⟨p, x, y, rfl, rfl, ⟨rfl, rfl⟩ | ⟨rfl, rfl⟩⟩ <;> rfl

theorem ownAck_unmatched {f : DownFrame} {s : State}
    (h : (ackBody f.body).bind (fun x => ackMatch x.1 x.2.1 s) = none) :
    ownAck f s = countUnmatched s := by
  unfold ownAck
  split
  · rename_i c q r body
    rw [body, Option.bind_some] at h
    rw [h]
  · rfl

theorem ownAck_matched {f : DownFrame} {c : Byte} {q : Nat} {r : AckResult} {e : Entry} {s : State}
    (body : ackBody f.body = some (c, q, r)) (h : ackMatch c q s = some e) :
    ownAck f s = ackEntry e r s := by
  rw [ownAck, body]
  simp only [h]

/-- ACK has no ACK duty of its own: the uplink queue takes it (R60, R84). -/
theorem exec_ack_cab {f : DownFrame} {s : State} (run : s.phase = .running)
    (cab : scopeOf f.flags = 0) :
    exec (.ack f) s = .next (placeHeld (freeBuffer 0x19 f (ownAck f s))) := by
  rw [exec_ack run, takeAck, handOver_without_ack (by rw [cab]; rfl) rfl]
  rfl

/-- The entry is marked answered and stays until its close of transmission (R84). -/
def answeredOnAir (q : Nat) (s : State) : State :=
  updateEntry q (fun x => { x with answered := true }) s

theorem ackEntry_onAir {e : Entry} (h : e.state = .onAir) (r : AckResult) (s : State) :
    ackEntry e r s = tellAnswered e r true (answeredOnAir e.seq s) := by
  rw [ackEntry, h]
  rfl

theorem ackEntry_trip {e : Entry} (h : e.state ≠ .onAir) (k : e.cls = .trip) (r : AckResult)
    (s : State) : ackEntry e r s = leaveQueue e.seq (tripLeaves (tellAnswered e r false s)) := by
  unfold ackEntry
  split
  · exact absurd ‹_› h
  all_goals simp only [if_pos k]

theorem ackEntry_leaves {e : Entry} (h : e.state ≠ .onAir) (k : e.cls ≠ .trip) (r : AckResult)
    (s : State) : ackEntry e r s = leaveQueue e.seq (tellAnswered e r false s) := by
  unfold ackEntry
  split
  · exact absurd ‹_› h
  all_goals simp only [if_neg k]

theorem tellAnswered_release {e : Entry} (h : e.cls = .release) (r : AckResult) (stays : Bool)
    (s : State) : tellAnswered e r stays s = s := by
  rw [tellAnswered, h]

theorem tellAnswered_trip {e : Entry} {n : Nat} (h : e.cls = .trip) (k : e.ref = .trip n)
    (r : AckResult) (stays : Bool) (s : State) : tellAnswered e r stays s =
      addTripReport 0 (.tripReported n (s.trip.backlog.length - 1)) s := by
  rw [tellAnswered, h, k]

theorem tellAnswered_text {e : Entry} {i : Nat} {x : Slot} {s : State} (h : e.cls = .text)
    (hr : e.ref = .slot i) (hx : s.pool.slots.getD i none = some x) (r : AckResult)
    (stays : Bool) : tellAnswered e r stays s =
      (s.setPool { s.pool with slots := s.pool.slots.set i (some { x with
        ref := if stays then x.ref else none, attempts := some e.attempts,
        held := some { order := s.book.produced, event :=
          { tag := x.tag, time := s.clock,
            payload := .textDelivered r i e.seq e.attempts } } }) }).setBook
        { s.book with produced := s.book.produced + 1 } := by
  rw [tellAnswered, h]
  simp only [textOutcome, hr, hx]
  rfl

theorem tellAnswered_bid {e : Entry} {i : Nat} {o : Offer} {s : State} (h : e.cls = .bid)
    (hr : e.ref = .offer i) (ho : s.offers.entries.getD i none = some o) (r : AckResult)
    (stays : Bool) : tellAnswered e r stays s = bidAnswered (!stays) i o s := by
  rw [tellAnswered, h]
  exact withBidOffer_some hr ho _

/-- An answered BID whose offer entry waits: ACKED, the award wait runs (R113). -/
theorem bidAnswered_clear {o : Offer} (h : o.deferred = none) (leaves : Bool) (i : Nat)
    (s : State) : bidAnswered leaves i o s = setOffer i (some { o with
      progress := some .acked, remaining := some s.settings.accepted.awardWait,
      bidSeq := if leaves then none else o.bidSeq }) s :=
  if_pos (Option.isNone_iff_eq_none.2 h)

/-- With an outcome deferred the answer is ignored while the BID stays (R113). -/
theorem bidAnswered_ignored {o : Offer} (h : o.deferred ≠ none) (i : Nat) (s : State) :
    bidAnswered false i o s = s :=
  (if_neg fun clear => h (Option.isNone_iff_eq_none.1 clear)).trans (if_neg Bool.false_ne_true)

/-- Settles O26: by whether an entry matches, whether it is ON_AIR, and its class; the body and the match by Table 48. -/
theorem ackFramesEndTheMatchingEntry : Obligations.AckFramesEndTheMatchingEntry := by
  refine ⟨fun f s run cab => ⟨fun unmatched => ?_, fun c q r e _ found => ?_,
    fun c q r e body found idle => ?_, fun c q r e body found air => ?_⟩,
    ackBody_eq_some_iff, ackMatch_none_iff⟩
  · rw [exec_ack_cab run cab, ownAck_unmatched unmatched]
    rfl
  · obtain ⟨code, seq, needs, waiting⟩ := ackMatch_some found
    exact ⟨ackMatch_mem found, code, seq, waiting, (needsAck_iff _).1 needs⟩
  · obtain ⟨-, rfl, -, -⟩ := ackMatch_some found
    have other {k : UpClass} (h : e.cls = k) (t : k ≠ .trip) :
        ownAck f s = leaveQueue e.seq (tellAnswered e r false s) := by
      rw [ownAck_matched body found, ackEntry_leaves idle (by rw [h]; exact t)]
    refine ⟨fun release => ?_, fun n trip ref => ?_, fun i x text ref slot => ?_,
      fun i o bid ref offer clear => ?_⟩ <;> rw [exec_ack_cab run cab]
    · rw [other release UpClass.noConfusion, tellAnswered_release release]
    · rw [ownAck_matched body found, ackEntry_trip idle trip, tellAnswered_trip trip ref]
      rfl
    · rw [other text UpClass.noConfusion, tellAnswered_text text ref slot]
      rfl
    · rw [other bid UpClass.noConfusion, tellAnswered_bid bid ref offer, bidAnswered_clear clear]
      rfl
  · obtain ⟨-, rfl, -, -⟩ := ackMatch_some found
    refine ⟨answeredOnAir e.seq s, rfl, ?_⟩
    rw [exec_ack_cab run cab, ownAck_matched body found, ackEntry_onAir air]
    refine ⟨fun release => ?_, fun n trip ref => ?_, fun i x text ref slot => ?_,
      fun i o bid ref offer => ⟨fun clear => ?_, fun deferred => ?_⟩⟩
    · rw [tellAnswered_release release]
    · rw [tellAnswered_trip trip ref]
      rfl
    · rw [tellAnswered_text text ref (by exact slot)]
      rfl
    · rw [tellAnswered_bid bid ref (by exact offer), bidAnswered_clear clear]
      rfl
    · rw [tellAnswered_bid bid ref (by exact offer)]
      exact congrArg (fun t => Host.Outcome.next (placeHeld (freeBuffer 0x19 f t)))
        (bidAnswered_ignored deferred i _)

end Sys2Proof.Machine

namespace Sys2Proof.Machine

/-! ### Admission to the uplink queue (R78, R79, R80, R82, R130, Table 20) -/

/-- An ALARM, or a link that is neither OFFLINE nor FAILED: R79 goes on to the cap. -/
theorem not_refusedLinkDown {cls : UpClass} {s : State}
    (h : cls = .alarm ∨ s.link.state ≠ .offline ∧ s.link.state ≠ .failed) :
    ¬(cls ≠ .alarm ∧ linkDown s = true) := by
  rintro ⟨other, down⟩
  rcases h with h | h
  · exact other h
  · rw [(linkDown_false_iff s).2 h] at down
    cases down

section

variable {cls : UpClass} {s : State} (body : List Byte) (tr ca : Bool) (ref : OwnerRef)

theorem offerEntry_linkDown (other : cls ≠ .alarm)
    (down : s.link.state = .offline ∨ s.link.state = .failed) :
    offerEntry cls body tr ca ref s = (s, .linkDown) :=
  if_pos ⟨other, (linkDown_iff s).2 down⟩

variable (up : cls = .alarm ∨ s.link.state ≠ .offline ∧ s.link.state ≠ .failed)

include up

/-- The class has as many entries as its cap (R79). -/
theorem offerEntry_capped (full : cls.cap ≤ countClass cls s.uplink.entries) :
    offerEntry cls body tr ca ref s = (s, .full) :=
  (if_neg (not_refusedLinkDown up)).trans (if_pos full)

/-- The queue has room (R79). -/
theorem offerEntry_enters (below : countClass cls s.uplink.entries < cls.cap)
    (room : s.uplink.entries.length < 12) :
    offerEntry cls body tr ca ref s = insertNew cls body tr ca ref s :=
  ((if_neg (not_refusedLinkDown up)).trans (if_neg (Nat.not_le.2 below))).trans
    (if_neg (Nat.not_le.2 room))

/-- The queue is full: only an ALARM or a BID may displace an entry (R79, R82). -/
theorem offerEntry_full (below : countClass cls s.uplink.entries < cls.cap)
    (full : 12 ≤ s.uplink.entries.length) : offerEntry cls body tr ca ref s =
      if cls = .alarm ∨ cls = .bid then
        match displaced s.uplink.entries with
        | some e =>
          insertNew cls body tr ca ref (tellDisplaced e (removeEntry e.seq s))
        | none => (s, .full)
      else (s, .full) :=
  ((if_neg (not_refusedLinkDown up)).trans (if_neg (Nat.not_le.2 below))).trans (if_pos full)

end

theorem insertNew_some {cls : UpClass} {q : Nat} {s : State}
    (h : allocSeq s.link.seqCounter s.settings.accepted.seqMax s.uplink.entries = some q)
    (body : List Byte) (tr ca : Bool) (ref : OwnerRef) : insertNew cls body tr ca ref s =
      (linkReact ((s.setUplink { s.uplink with
        entries := insertEntry (freshEntry cls body tr ca ref q s.uplink.nextTime)
          s.uplink.entries,
        nextTime := s.uplink.nextTime + 1 }).setLink
        { s.link with seqCounter := nextSeq q s.settings.accepted.seqMax }), .admitted q) := by
  rw [insertNew, h]
  rfl

theorem insertNew_none {cls : UpClass} {s : State}
    (h : allocSeq s.link.seqCounter s.settings.accepted.seqMax s.uplink.entries = none)
    (body : List Byte) (tr ca : Bool) (ref : OwnerRef) :
    insertNew cls body tr ca ref s = (s, .full) := by
  rw [insertNew, h]

/-- A displaced STATUS or ACK is dropped and counted (R77, R82). -/
theorem tellDisplaced_counted {e : Entry} (h : e.cls = .status ∨ e.cls = .ack) (s : State) :
    tellDisplaced e s = countDropped s := by
  rcases h with h | h <;> rw [tellDisplaced, h]

/-- A displaced TRIP is offered again by R34: nobody is told (R82). -/
theorem tellDisplaced_trip {e : Entry} (h : e.cls = .trip) (s : State) : tellDisplaced e s = s := by
  rw [tellDisplaced, h]

/-- A displaced TEXT fails (R82, R130). -/
theorem tellDisplaced_text {e : Entry} (h : e.cls = .text) (s : State) :
    tellDisplaced e s = textFailed .displaced e s := by
  rw [tellDisplaced, h]

/-- The number allocated is the first free one of the sixteen from the counter on (R80). -/
theorem allocSeq_first {c m q : Nat} {es : List Entry} (h : allocSeq c m es = some q) :
    ∃ k, k < 16 ∧ q = (c + k) % (m + 1) ∧ seqUsed q es = false ∧
      ∀ j, j < k → seqUsed ((c + j) % (m + 1)) es = true := by
  rw [allocSeq, List.find?_map, Option.map_eq_some_iff] at h
  obtain ⟨k, found, rfl⟩ := h
  obtain ⟨free, within, before⟩ := List.find?_range_eq_some.1 found
  refine ⟨k, List.mem_range.1 within, rfl, ?_, fun j below => ?_⟩
  · simpa using free
  · simpa using before j below

/-- Sixteen successive numbers differ where numbers run up to 15 at least (R80). -/
theorem nodup_sixteen {c m : Nat} (h : 15 ≤ m) :
    ((List.range 16).map (fun k => (c + k) % (m + 1))).Nodup := by
  refine List.nodup_range.map_on fun i hi j hj same => ?_
  have congruent : i ≡ j [MOD m + 1] := Nat.ModEq.add_left_cancel' c same
  rw [List.mem_range] at hi hj
  exact congruent.eq_of_lt_of_lt (by omega) (by omega)

/-- Fewer than sixteen entries cannot hold all sixteen numbers (R80). -/
theorem allocSeq_ne_none {c m : Nat} {es : List Entry} (h : 15 ≤ m) (few : es.length < 16) :
    allocSeq c m es ≠ none := by
  intro exhausted
  have used : (List.range 16).map (fun k => (c + k) % (m + 1)) ⊆ es.map (·.seq) := by
    intro q hq
    have taken := List.find?_eq_none.1 exhausted q hq
    simpa [seqUsed] using taken
  have fits := ((nodup_sixteen h).subperm used).length_le
  rw [List.length_map, List.length_map, List.length_range] at fits
  omega

/-- An admitted entry goes before the first entry of a lower priority (R78). -/
theorem insertEntry_splits (e : Entry) (es : List Entry) : ∃ a b, es = a ++ b ∧
    insertEntry e es = a ++ e :: b ∧ (∀ x ∈ a, x.cls.priority ≤ e.cls.priority) ∧
    (∀ x ∈ b.head?, e.cls.priority < x.cls.priority) := by
  induction es with
  | nil =>
    exact ⟨[], [], rfl, rfl, List.forall_mem_nil _, fun x hx => absurd hx (Option.not_mem_none x)⟩
  | cons y ys ih =>
    rw [insertEntry]
    split
    · obtain ⟨a, b, rfl, inserted, before, after⟩ := ih
      exact ⟨y :: a, b, rfl, congrArg (y :: ·) inserted,
        List.forall_mem_cons.2 ⟨‹_›, before⟩, after⟩
    · refine ⟨[], y :: ys, rfl, rfl, List.forall_mem_nil _, fun x hx => ?_⟩
      rw [List.head?_cons, Option.mem_some_iff] at hx
      rw [← hx]
      exact Nat.not_le.1 ‹_›

theorem candidate_iff (e : Entry) : e.candidate = true ↔ e.state ≠ .onAir ∧
    (e.cls = .text ∨ e.cls = .trip ∨ e.cls = .status ∨ e.cls = .ack) := by
  simp only [Entry.candidate, Bool.and_eq_true, Bool.or_eq_true, beq_iff_eq, bne_iff_ne, or_assoc,
    and_comm]

theorem candidate_false {e : Entry} (h : e.candidate = false) :
    e.state = .onAir ∨ e.cls = .alarm ∨ e.cls = .bid ∨ e.cls = .release := by
  by_cases air : e.state = .onAir
  · exact Or.inl air
  · right
    rw [← Bool.not_eq_true, candidate_iff, not_and] at h
    have other := h air
    revert other
    cases e.cls <;> decide

/-- The entry displaced is the last candidate in queue order (R82). -/
theorem displaced_last {e : Entry} {es : List Entry} (h : displaced es = some e) :
    ∃ a b, es = a ++ e :: b ∧ e.candidate = true ∧ ∀ x ∈ b, x.candidate = false := by
  rw [displaced, List.getLast?_filter, List.find?_eq_some_iff_append] at h
  obtain ⟨candidate, b, a, split, others⟩ := h
  refine ⟨a.reverse, b.reverse, ?_, candidate, fun x hx => ?_⟩
  · rw [← List.reverse_inj, split]
    simp
  · simpa using others x (List.mem_reverse.1 hx)

/-- Settles O23: R79's cases in order, the number, the place and the candidate each by their lemma, Table 20 row by row. -/
theorem entriesAreAdmittedByCapNumberAndPlace :
    Obligations.EntriesAreAdmittedByCapNumberAndPlace := by
  refine ⟨fun cls body tr ca ref s => ⟨offerEntry_linkDown body tr ca ref, fun up =>
      ⟨offerEntry_capped body tr ca ref up, fun below full notAlarm notBid => ?_,
        offerEntry_enters body tr ca ref up, fun below full urgent =>
        ⟨fun e found => ?_, fun nobody => ?_⟩⟩,
      fun q free => insertNew_some free body tr ca ref,
      fun taken => insertNew_none taken body tr ca ref⟩,
    fun e s => ⟨fun cls => tellDisplaced_counted cls s, fun i x text ref slot => ?_,
      fun trip => tellDisplaced_trip trip s, rfl⟩,
    fun c m q es => allocSeq_first, fun c m es => allocSeq_ne_none, insertEntry_splits,
    fun e es found => ?_, ?_⟩
  · rw [offerEntry_full body tr ca ref up below full, if_neg (not_or.2 ⟨notAlarm, notBid⟩)]
  · rw [offerEntry_full body tr ca ref up below full, if_pos urgent, found]
  · rw [offerEntry_full body tr ca ref up below full, if_pos urgent, nobody]
  · rw [tellDisplaced_text text, textFailed, textOutcome_slot ref slot]
  · obtain ⟨a, b, split, candidate, others⟩ := displaced_last found
    obtain ⟨idle, cls⟩ := (candidate_iff e).1 candidate
    exact ⟨a, b, split, idle, cls, fun x hx => candidate_false (others x hx)⟩
  · exact ⟨⟨rfl, rfl, rfl⟩, ⟨rfl, rfl, rfl⟩, ⟨rfl, rfl, rfl⟩, ⟨rfl, rfl, rfl⟩, ⟨rfl, rfl, rfl⟩,
      ⟨rfl, rfl, rfl⟩, ⟨rfl, rfl, rfl⟩⟩

end Sys2Proof.Machine

namespace Sys2Proof.Machine

/-! ### The entry into POWER_ON_WAIT and RDY (R91, R94, R96, R98, R100; log entry 37) -/

/-- The state of an entry into POWER_ON_WAIT, before its report (R91). -/
def waitingForReady (s : State) : State :=
  (s.setSup { s.sup with ready := some 5, powerOff := none }).setLink
    { s.link with state := .powerOnWait }

/-- The entry into POWER_ON_WAIT with its LINK_STATE, before RDY is looked at (R91, R100). -/
def enteredWait (cause : LinkCause) (tag : Half) (s : State) : State :=
  produce tag (.linkState (supView s.link.state) .powerOnWait cause s.sup.cycles s.sup.override)
    (waitingForReady s)

theorem enteredWait_calm (cause : LinkCause) (tag : Half) (s : State) :
    Calm (waitingForReady s) (enteredWait cause tag s) := produce_calm _ _ _

theorem enterPowerOn_eq (cause : LinkCause) (tag : Half) (s : State) :
    enterPowerOn cause tag s = if (enteredWait cause tag s).pins.rdy = true
      then rdyUp (enteredWait cause tag s) else enteredWait cause tag s := rfl

theorem enterPowerOn_low {s : State} (low : s.pins.rdy = false) (cause : LinkCause) (tag : Half) :
    enterPowerOn cause tag s = enteredWait cause tag s := by
  have still : (enteredWait cause tag s).pins.rdy = false := by
    rw [(enteredWait_calm cause tag s).pins]
    exact low
  rw [enterPowerOn_eq, if_neg (by rw [still]; exact Bool.false_ne_true)]

theorem exec_rdyRise {s : State} (low : s.pins.rdy = false) :
    exec .rdyRise s = .next (rdyRise s) :=
  congrArg Host.Outcome.next (if_neg (by rw [low]; exact Bool.false_ne_true))

theorem rdyRise_waits {s : State} (waits : s.link.state = .powerOnWait) :
    rdyRise s = rdyUp (s.setPins { s.pins with rdy := true }) := if_pos waits

theorem rdyRise_elsewhere {s : State} (other : s.link.state ≠ .powerOnWait) :
    rdyRise s = s.setPins { s.pins with rdy := true } := if_neg other

/-- A RDY that is high already acts as its rise does (R91). -/
theorem exec_rdyRise_again {s : State} (waits : s.link.state = .powerOnWait)
    (high : s.pins.rdy = true) :
    exec .rdyRise (s.setPins { s.pins with rdy := false }) = .next (rdyUp s) := by
  have again : (s.setPins { s.pins with rdy := false }).setPins
      { (s.setPins { s.pins with rdy := false }).pins with rdy := true } = s := by
    rw [State.setPins_pins, ← high]
    rfl
  rw [exec_rdyRise rfl, rdyRise_waits (by exact waits), again]

/-- With RDY high already the radio goes on to channel access, as by a rise after the entry (R91; log entry 37). -/
theorem enterPowerOn_high {s w : State} {cause : LinkCause} {tag : Half}
    (hw : w = enteredWait cause tag s) (high : s.pins.rdy = true) :
    exec .rdyRise (w.setPins { w.pins with rdy := false }) = .next (enterPowerOn cause tag s) ∧
      channelAccess (enterPowerOn cause tag s).link.state = true := by
  subst hw
  have calm := enteredWait_calm cause tag s
  have still : (enteredWait cause tag s).pins.rdy = true := by
    rw [calm.pins]
    exact high
  have up : enterPowerOn cause tag s = rdyUp (enteredWait cause tag s) := by
    rw [enterPowerOn_eq, if_pos still]
  obtain ⟨access, -, -⟩ := rdyUp_access (enteredWait cause tag s)
  rw [up]
  exact ⟨exec_rdyRise_again calm.link still, access⟩

/-- The two outcomes of an entry into POWER_ON_WAIT whose command then tests R34, by the level of RDY. -/
theorem exec_enterPowerOn {c : Instr} {s v w : State} {cause : LinkCause} {tag : Half}
    (hc : exec c s = .next (tripTest (enterPowerOn cause tag v))) (hw : w = enteredWait cause tag v)
    (pins : v.pins = s.pins) :
    (s.pins.rdy = false → exec c s = .next (tripTest w)) ∧
    (s.pins.rdy = true → ∃ x, exec .rdyRise (w.setPins { w.pins with rdy := false }) = .next x ∧
      exec c s = .next (tripTest x) ∧ channelAccess x.link.state = true) := by
  rw [← pins]
  refine ⟨fun low => ?_, fun high => ?_⟩
  · rw [hc, hw, enterPowerOn_low low]
  · obtain ⟨rise, access⟩ := enterPowerOn_high hw high
    exact ⟨_, rise, hc, access⟩

/-- The rise of RDY that ends the ready wait: the report, then the entry into LISTEN (R45, R91, R92, R96). -/
theorem rdyUp_eq {s u : State} (hu : u = produce 0
      (.linkState .powerOnWait .listen .rdy s.sup.cycles s.sup.override)
      (s.setSup { s.sup with ready := none, healthy := some 60 })) :
    rdyUp s = linkReact (((u.setSup { u.sup with
        stuckBusy := if s.pins.cd then some s.settings.accepted.busyLimit else none }).setRx
          s.rx.hunt).setLink { s.link.idle with state := .listen }) := by
  have up : rdyUp s = linkReact (listening u) := by
    rw [hu]
    exact enterListen_eq _
  rw [up, hu, produce_eq]
  rfl

/-! ### The ends of the power-off and healthy timers, LINK_RESTART and REQUEST_UNKNOWN (R94, R96, R97, R171) -/

theorem exec_powerOffTimerEnd_elsewhere {s : State} (h : s.link.state ≠ .powerOff) :
    exec .powerOffTimerEnd s = .next s := congrArg Host.Outcome.next (if_neg h)

theorem exec_powerOffTimerEnd_early {s : State}
    (h : s.link.state ≠ .powerOff ∨ (openTick s).sup.powerOff ≠ some 0) :
    exec .powerOffTimerEnd s = .next s := by
  by_cases off : s.link.state = .powerOff
  · rw [exec_powerOffTimerEnd off, atTick_early (h.resolve_left (not_not_intro off))]
  · exact exec_powerOffTimerEnd_elsewhere off

/-- The power-off timer's end enters POWER_ON_WAIT from the state in which the tick at hand has begun. -/
theorem exec_powerOffTimerEnd_due {s u : State} (hu : u = openTick s)
    (off : s.link.state = .powerOff) (due : u.sup.powerOff = some 0) :
    exec .powerOffTimerEnd s = .next (tripTest (enterPowerOn .powerOffEnd 0 u)) := by
  subst hu
  rw [exec_powerOffTimerEnd off, atTick_due due, powerOffEnd]

theorem exec_linkRestart {s : State} (run : s.phase = .running) (tag : Half) :
    exec (.linkRestart tag) s = .next (reqRestart tag s) :=
  congrArg Host.Outcome.next (whenRunning_running run)

theorem reqRestart_failed {s : State} (h : s.link.state = .failed) (tag : Half) : reqRestart tag s =
    tripTest (enterPowerOn .linkRestart tag (s.setSup { s.sup with cycles := 0 })) := if_pos h

theorem reqRestart_refused {s : State} (h : s.link.state ≠ .failed) (tag : Half) :
    reqRestart tag s = produce tag (.refused 0x0F .notFailed) s := if_neg h

/-- Table 39 ends at 0x0F and has no code 0. -/
theorem requestKnown_false {code : Byte} (h : code = 0 ∨ 0x0F < code.toNat) :
    requestKnown code = false := by
  rw [requestKnown, Bool.and_eq_false_iff, decide_eq_false_iff_not, decide_eq_false_iff_not]
  rcases h with rfl | beyond
  · exact Or.inl (by decide)
  · exact Or.inr (Nat.not_le.2 beyond)

theorem exec_requestUnknown {s : State} {code : Byte} (run : s.phase = .running)
    (unknown : requestKnown code = false) (tag : Half) :
    exec (.requestUnknown tag code) s = .next (produce tag (.refused code .unknown) s) := by
  refine congrArg Host.Outcome.next ((whenRunning_running run).trans (if_neg ?_))
  rw [unknown]
  exact Bool.false_ne_true

/-- Settles O33: the entries into POWER_ON_WAIT and the rise of RDY by the levels, the ends of the timers by the tick at hand, the requests by the link's state and the code. -/
theorem theRadioPowersUpThroughTheReadyWait :
    Obligations.TheRadioPowersUpThroughTheReadyWait := by
  refine ⟨fun s u hu off due => ⟨_, rfl, ?_⟩, fun s h => exec_powerOffTimerEnd_early h,
    fun s low waits => ⟨_, _, ?_, rfl, rfl⟩, fun s low other => ?_,
    fun s u hu => ⟨fun due => ?_, fun early => ?_, fun early => ?_⟩,
    fun tag s run => ⟨fun failed => ⟨_, rfl, ?_⟩, fun other => ?_, fun code unknown => ?_⟩⟩
  · obtain ⟨cycles, override, -, link⟩ := openTick_states s
    refine exec_enterPowerOn (exec_powerOffTimerEnd_due hu off due) ?_ (hu ▸ openTick_pins s)
    rw [← hu] at cycles override link
    rw [enteredWait, cycles, override, link, off]
    rfl
  · rw [exec_rdyRise low, rdyRise_waits waits, rdyUp_eq rfl]
    rfl
  · rw [exec_rdyRise low, rdyRise_elsewhere other]
  · subst hu
    rw [exec_healthyTimerEnd, atTickOr_due due, healthyEnd]
  · subst hu
    exact fun idle => by rw [exec_healthyTimerEnd, atTickOr_early early idle]
  · subst hu
    exact fun taken => by rw [exec_healthyTimerEnd, atTickOr_taken early taken]
  · refine exec_enterPowerOn (v := s.setSup { s.sup with cycles := 0 })
      (by rw [exec_linkRestart run, reqRestart_failed failed]) ?_ rfl
    rw [enteredWait, State.setSup_link, failed]
    rfl
  · rw [exec_linkRestart run, reqRestart_refused other]
  · exact exec_requestUnknown run (requestKnown_false unknown) tag

end Sys2Proof.Machine

namespace Sys2Proof.Machine

/-! ### ALARM offers and the override of a failed radio (R81, R98, R142) -/

theorem offerAlarm_owed {k : AlarmKind} {e : Entry} {s : State} (h : alarmEntry s = some e)
    (air : e.state = .onAir) :
    offerAlarm k s = s.setEmerg { s.emerg with owed := some k.owed } := by
  rw [offerAlarm, h]
  simp only [air]
  rfl

theorem offerAlarm_refreshes {k : AlarmKind} {e : Entry} {s : State} (h : alarmEntry s = some e)
    (waits : e.state ≠ .onAir) : offerAlarm k s = (updateEntry e.seq (fun x =>
      { x with body := k.body s, tracking := k.isTracking, cancelled := k.isCancelled })
        s).setEmerg { s.emerg with owed := none } := by
  rw [offerAlarm, h]
  cases st : e.state with
  | onAir => exact absurd st waits
  | queued =>
    simp only [st]
    rfl
  | awaitAck =>
    simp only [st]
    rfl

/-- An ALARM that joins the queue leaves the emergency controller but for what it owed (R142). -/
theorem offerAlarm_joins {k : AlarmKind} {s : State} (h : alarmEntry s = none) :
    offerAlarm k s =
      (offerEntry .alarm (k.body s) k.isTracking k.isCancelled .none s).1.setEmerg
        { s.emerg with owed := none } := by
  rw [offerAlarm, h, ← (offerEntry_radio .alarm (k.body s) k.isTracking k.isCancelled .none s).emerg]
  rfl

theorem overrideRadio_elsewhere {s : State} (h : s.link.state ≠ .failed) : overrideRadio s = s :=
  if_neg h

theorem overrideRadio_failed {s : State} (h : s.link.state = .failed) : overrideRadio s =
    enterPowerOn .override 0 (s.setSup { s.sup with cycles := 2, override := true }) := if_pos h

/-- The override's entry into POWER_ON_WAIT shows two cycles used and the mark set (R98, R100). -/
theorem enteredWait_override {s : State} (h : s.link.state = .failed) :
    enteredWait .override 0 (s.setSup { s.sup with cycles := 2, override := true }) =
      produce 0 (.linkState .failed .powerOnWait .override 2 true) ((s.setSup { s.sup with
        cycles := 2, override := true, ready := some 5, powerOff := none }).setLink
          { s.link with state := .powerOnWait }) := by
  rw [enteredWait, State.setSup_link, h]
  rfl

/-! ### The pending EMERGENCY_STATE (R149; log entry 18) -/

/-- The place among the held reports that a change of the pending report has. -/
def emReportOrder (s : State) : Nat := (s.emerg.report.map (·.order)).getD s.book.produced

theorem emReportOrder_pending {s : State} {r : EmReport} (h : s.emerg.report = some r) :
    emReportOrder s = r.order := by
  rw [emReportOrder, h]
  rfl

theorem emReportOrder_none {s : State} (h : s.emerg.report = none) :
    emReportOrder s = s.book.produced := by
  rw [emReportOrder, h]
  rfl

/-- Settles O44: the offer by the entry that waits, the override by the link and RDY, the report by the one pending. -/
theorem alarmOffersAndReportsFollowTheCall : Obligations.AlarmOffersAndReportsFollowTheCall := by
  refine ⟨fun k s => ⟨fun e found air => offerAlarm_owed found air,
      fun e found waits => offerAlarm_refreshes found waits,
      fun nobody => ⟨_, rfl, offerAlarm_joins nobody⟩⟩,
    fun s other => overrideRadio_elsewhere other, fun s failed low => ⟨_, rfl, ?_⟩,
    fun s failed high => ⟨_, _, rfl, ?_, overrideRadio_failed failed⟩,
    fun cause tag s => ⟨emReportOrder s, rfl, fun r => emReportOrder_pending,
      emReportOrder_none⟩⟩
  · rw [overrideRadio_failed failed, enterPowerOn_low (by exact low), enteredWait_override failed]
  · obtain ⟨rise, -⟩ := enterPowerOn_high (enteredWait_override failed).symm (by exact high)
    exact rise

end Sys2Proof.Machine

namespace Sys2Proof.Machine

/-! ### The laws of the books across every command (R111, R113, R121, R123, R126, R136) -/

theorem when_kept {p : Prop} [Decidable p] {s t : State} (h : p → Kept s t) :
    Kept s (if p then t else s) := Kept.ite h (fun _ => Kept.refl s)

theorem unless_kept {p : Prop} [Decidable p] {s t : State} (h : Kept s t) :
    Kept s (if p then s else t) := Kept.ite (fun _ => Kept.refl s) (fun _ => h)

/-- The row of a timer's end whose own report is then offered a place. -/
theorem placed_kept {f : State → State} {s : State} (h : Kept s (f s)) :
    Kept s (placeHeld (f s)) := h.trans (placeHeld_kept _)

theorem reqUnknown_kept (tag : Half) (c : Byte) (s : State) : Kept s (reqUnknown tag c s) :=
  Kept.ite (fun _ => Kept.refl s) (fun _ => (refuse_still _ _ _ s).kept)

theorem placeOne_kept (s : State) : Kept s (placeOne s) :=
  (placeOne_holds s).kept (placeOne_quiet s).queue

theorem holdoffEnd_row_kept (s : State) :
    Kept s (atTickOr (·.trip.holdoff) holdoffEnd justReleased spareRelease s) :=
  atTickOr_kept (fun _ => holdoffEnd_kept _) spareRelease_still

/-- A call that a timer ends is not in QUIET. -/
theorem not_quiet_of_repeatLeft {s : State} (h : repeatLeft s = some 0) :
    s.emerg.state ≠ .quiet := by
  rw [((repeatLeft_iff s).1 h).1]
  decide

theorem not_quiet_of_cooldownLeft {s : State} (h : cooldownLeft s = some 0) :
    s.emerg.state ≠ .quiet := by
  rw [((cooldownLeft_iff s).1 h).1]
  decide

/-- The rows of the radio side, the offers and the texts keep the books. -/
theorem exec_kept_quiet {c : Instr} (h : quietCommand c = true) (s : State) :
    Answers (Kept s) c s := by
  cases c
  case holdoffEnd => exact ⟨_, rfl, holdoffEnd_row_kept s⟩
  case tripEnqueue => exact ⟨_, rfl, tripTest_kept s⟩
  case dutySet tag v => exact ⟨_, rfl, when_kept fun _ => reqDuty_kept tag v s⟩
  case accept tag id => exact ⟨_, rfl, when_kept fun _ => reqAccept_kept tag id s⟩
  case decline tag id => exact ⟨_, rfl, when_kept fun _ => reqDecline_kept tag id s⟩
  case sendText tag k x => exact ⟨_, rfl, when_kept fun run => reqSendText_kept tag k x run⟩
  case alarmCancel tag => exact ⟨_, rfl, when_kept fun _ => reqCancel_kept tag s⟩
  case linkRestart tag => exact ⟨_, rfl, when_kept fun _ => reqRestart_kept tag s⟩
  case requestUnknown tag k => exact ⟨_, rfl, when_kept fun _ => reqUnknown_kept tag k s⟩
  case heldReportPlaced => exact ⟨_, rfl, placeOne_kept s⟩
  case attentionWordWrite v => exact ⟨_, rfl, when_kept fun _ => (Still.setAttn s _).kept⟩
  case gapLimitEnd => exact ⟨_, rfl, (gapEnd_still s).kept⟩
  case syncHalfPauseEnd => exact ⟨_, rfl, when_kept fun _ => (Still.setRx s _).kept⟩
  case offer f => exact ⟨_, rfl, when_kept fun run => takeOffer_kept f run⟩
  case award f => exact ⟨_, rfl, when_kept fun _ => takeAward_kept f s⟩
  case reject f => exact ⟨_, rfl, when_kept fun _ => takeReject_kept f s⟩
  case withdraw f => exact ⟨_, rfl, when_kept fun _ => takeWithdraw_kept f s⟩
  case text f => exact ⟨_, rfl, when_kept fun _ => takeText_kept f s⟩
  case alarmAck f => exact ⟨_, rfl, when_kept fun _ => takeAlarmAck_kept f s⟩
  case alarmEnd f => exact ⟨_, rfl, when_kept fun _ => takeAlarmEnd_kept f s⟩
  case ack f => exact ⟨_, rfl, when_kept fun _ => takeAck_kept f s⟩
  case poll f => exact ⟨_, rfl, when_kept fun _ => takePoll_kept f s⟩
  case channel f => exact ⟨_, rfl, when_kept fun _ => takeChannel_kept f s⟩
  case channelChangeApply => exact ⟨_, rfl, when_kept fun _ => (applyChannel_still s).kept⟩
  case cdRise => exact ⟨_, rfl, unless_kept (cdRise_still s).kept⟩
  case cdFall => exact ⟨_, rfl, when_kept fun _ => (cdFall_still s).kept⟩
  case slotEnd => exact ⟨_, rfl, when_kept fun _ => (slotEnd_still s).kept⟩
  case congestionDwellEnd => exact ⟨_, rfl, when_kept fun _ => (dwellEnd_still s).kept⟩
  case keyupDelayEnd => exact ⟨_, rfl, when_kept fun _ => keyupEnd_kept s⟩
  case transmissionEnd => exact ⟨_, rfl, when_kept fun _ => transmissionEnd_kept s⟩
  case tailEnd => exact ⟨_, rfl, when_kept fun _ => tailEnd_kept s⟩
  case turnaroundEnd =>
    exact ⟨_, rfl, Kept.ite (fun _ => Kept.ite (fun _ => (applyChannel_still s).kept)
      (fun _ => (enterListen_still s).kept)) (fun _ => Kept.refl s)⟩
  case settleEnd => exact ⟨_, rfl, when_kept fun _ => (enterListen_still s).kept⟩
  case ackTimerEnd q =>
    refine ⟨_, rfl, ?_⟩
    split
    · rename_i e found
      exact when_kept fun _ => ackTimeout_kept (entryWith_mem found).1
    · exact Kept.refl s
  case rdyRise => exact ⟨_, rfl, unless_kept (rdyRise_still s).kept⟩
  case rdyFall => exact ⟨_, rfl, when_kept fun _ => rdyFall_kept s⟩
  case readyTimerEnd =>
    exact ⟨_, rfl, atTickOr_kept (fun _ => readyEnd_kept _) spareSup_still⟩
  case stuckBusyTimerEnd =>
    exact ⟨_, rfl, atTickOr_kept (fun _ => stuckBusyEnd_kept _) spareSup_still⟩
  case powerOffTimerEnd =>
    exact ⟨_, rfl, when_kept fun _ => atTick_kept fun _ => powerOffEnd_kept _⟩
  case healthyTimerEnd =>
    exact ⟨_, rfl, atTickOr_kept (fun _ => healthyEnd_kept _) spareSup_still⟩
  case offerWindowEnd i =>
    exact ⟨_, rfl, when_kept fun _ =>
      atTickOr_kept (fun _ => placed_kept (windowEnd_kept i.val _)) spareRaise_still⟩
  case awardWaitEnd =>
    exact ⟨_, rfl, when_kept fun _ => atTick_kept fun _ => placed_kept (awardWaitEnd_kept _)⟩
  case eswFall =>
    exact ⟨_, rfl, when_kept fun _ =>
      (Still.setPins s _).kept.trans (unless_kept (eswFall_kept (setEsw false s)))⟩
  case eswRise =>
    exact ⟨_, rfl, unless_kept
      ((Still.setPins s _).kept.trans (unless_kept (eswRise_kept (setEsw true s))))⟩
  case repeatTimerEnd =>
    exact ⟨_, rfl, when_kept fun _ => atTickOr_kept
      (fun out => placed_kept (repeatEnd_kept (not_quiet_of_repeatLeft out))) spareCall_still⟩
  case cooldownEnd =>
    exact ⟨_, rfl, when_kept fun _ => atTickOr_kept
      (fun out => placed_kept (nextRound_kept (not_quiet_of_cooldownLeft out))) spareCall_still⟩
  case trackingTimerEnd =>
    exact ⟨_, rfl, when_kept fun _ => atTick_kept fun _ => placed_kept (trackNow_kept _)⟩
  case graceTimerEnd =>
    exact ⟨_, rfl, atTickOr_kept (fun _ => graceEnd_kept _) spareRaise_still⟩
  case alertPulseEnd =>
    refine ⟨_, rfl, ?_⟩
    split
    · exact when_kept fun _ => (Still.setAttn s _).kept
    · exact Kept.refl s
  case strapChange a b => exact ⟨_, rfl, (Still.setPins s _).kept⟩
  all_goals cases h

theorem runTaskRow_kept (s : State) : Kept s (withPort (runTask wordFuel) s) :=
  withPort_kept (runTask_kept wordFuel) s

theorem initialRun_kept (left : List (Nat × Word)) (s : State) :
    Kept s (arbitrate (withPort (fun t => initialDone (writeAll left t)) s)) :=
  (withPort_kept (fun t => (writeAll_still left t).kept.trans (initialDone_kept _)) s).trans
    (arbitrate_kept _)

theorem agentWordRow_kept (s : State) :
    Kept s (arbitrate (agentStep (freePort (arbitrate s)))) :=
  (arbitrate_kept s).trans ((Still.setPath _ _).kept.trans
    ((agentStep_kept _).trans (arbitrate_kept _)))

theorem guardViolation_kept (s : State) : Kept s (guardViolation s) :=
  (Still.of_side (guardViolation_side s)).kept

theorem latchAndAnswer_kept (s : State) : Kept s (latchAndAnswer s) :=
  (Still.of_side (latchAndAnswer_side s)).kept

/-- Every command carries the queue law and the laws of the books. -/
theorem exec_kept (c : Instr) (s : State) : Answers (Kept s) c s := by
  cases q : quietCommand c with
  | true => exact exec_kept_quiet q s
  | false =>
    cases c
    case fullReset => exact ⟨_, rfl, fullReset_kept s⟩
    case resetAssert => exact ⟨_, rfl, when_kept fun _ => assertReset_kept s⟩
    case resetRelease => exact ⟨_, rfl, unless_kept (releaseReset_kept s)⟩
    case initialWritesDone =>
      refine ⟨_, rfl, ?_⟩
      split
      · exact when_kept fun _ => initialRun_kept _ s
      · exact Kept.refl s
    case odoPulse => exact ⟨_, rfl, unless_kept (odoPulse_still s).kept⟩
    case secondTick => exact ⟨_, rfl, unless_kept (secondTick_kept s)⟩
    case tariff f => exact ⟨_, rfl, when_kept fun _ => takeTariff_kept f s⟩
    case meterHire tag i => exact ⟨_, rfl, when_kept fun _ => reqHire_kept tag i s⟩
    case meterStop tag => exact ⟨_, rfl, when_kept fun _ => reqStop_kept tag s⟩
    case meterResume tag => exact ⟨_, rfl, when_kept fun _ => reqResume_kept tag s⟩
    case meterExtra tag n k => exact ⟨_, rfl, when_kept fun _ => reqExtra_kept tag n k s⟩
    case meterClear tag => exact ⟨_, rfl, when_kept fun _ => reqClear_kept tag s⟩
    case tariffSelect tag i => exact ⟨_, rfl, when_kept fun _ => reqSelect_kept tag i s⟩
    case shiftClose tag => exact ⟨_, rfl, when_kept fun _ => reqShiftClose_kept tag s⟩
    case alarmRaise tag => exact ⟨_, rfl, when_kept fun _ => raise_kept .request tag s⟩
    case blackboxClear tag => exact ⟨_, rfl, when_kept fun _ => reqBoxClear_kept tag s⟩
    case holdTimerEnd => exact ⟨_, rfl, when_kept fun _ => unless_kept (holdEnd_kept s)⟩
    case requestFetchStart => exact ⟨_, rfl, when_kept fun _ => requestTask_kept _ s⟩
    case requestFetchComplete =>
      refine ⟨_, rfl, ?_⟩
      split
      · exact when_kept fun _ => runTaskRow_kept s
      · exact Kept.refl s
    case requestIndexComplete => exact ⟨_, rfl, when_kept fun _ => runTaskRow_kept s⟩
    case eventTaskStart => exact ⟨_, rfl, startEventTask_kept s⟩
    case eventDeposited =>
      exact ⟨_, rfl, when_kept fun _ => withPort_kept (runToDeposit_kept wordFuel) s⟩
    case eventTaskComplete =>
      refine ⟨_, rfl, ?_⟩
      split
      · exact when_kept fun _ => runTaskRow_kept s
      · exact Kept.refl s
    case tripLogWriteComplete => exact ⟨_, rfl, when_kept fun _ => runTaskRow_kept s⟩
    case blackBoxWriteComplete => exact ⟨_, rfl, when_kept fun _ => runTaskRow_kept s⟩
    case agentWordEnd => exact ⟨_, rfl, when_kept fun _ => agentWordRow_kept s⟩
    case portGrant => exact ⟨_, rfl, arbitrate_kept s⟩
    case processorAccess a =>
      exact ⟨_, rfl, unless_kept ((classify_kept a s).trans
        (when_kept fun _ => arbitrate_kept _))⟩
    case processorAccessComplete =>
      refine ⟨_, rfl, ?_⟩
      simp only
      split
      · exact Kept.ite (fun _ => (arbitrate_kept s).trans (finishAccess_kept _ _))
          (fun _ => Kept.refl s)
      · exact Kept.refl s
    case requestProducerIndexWrite v =>
      exact ⟨_, rfl, whenOpen_kept (snoopedWrite_kept _ _ v) s⟩
    case eventConsumerIndexWrite v => exact ⟨_, rfl, whenOpen_kept (snoopedWrite_kept _ _ v) s⟩
    case attentionEnableWrite v => exact ⟨_, rfl, whenOpen_kept (snoopedWrite_kept _ _ v) s⟩
    case settingsCommit v => exact ⟨_, rfl, whenOpen_kept (snoopedWrite_kept _ _ v) s⟩
    case positionCommit v => exact ⟨_, rfl, whenOpen_kept (snoopedWrite_kept _ _ v) s⟩
    case snoopedWordWrite off l v =>
      exact ⟨_, rfl, whenOpen_kept (fun t => when_kept fun _ => snoopedWrite_kept _ l v t) s⟩
    case guardViolation =>
      exact ⟨_, rfl, whenOpen_kept (fun t => when_kept fun _ => guardViolation_kept t) s⟩
    case snapshotLatch => exact ⟨_, rfl, whenOpen_kept latchAndAnswer_kept s⟩
    case rxdCharacter b p x y =>
      exact ⟨_, rfl, when_kept fun _ => receiveChar_kept b.bits p x y s⟩
    all_goals cases q

theorem Kept.books {s t : State} (k : Kept s t) (law : QueueLaw s) (books : BooksLaw s) :
    BooksLaw t := by
  obtain ⟨weak, shut⟩ := (booksLaw_iff s).1 books
  exact (booksLaw_iff t).2 ⟨k.weak law weak, k.shut law weak shut⟩

/-- Settles O59: each command carries the laws of the books, so every step does. -/
theorem everyStepKeepsTheBooks : Obligations.EveryStepKeepsTheBooks := by
  intro s t h law books
  rcases step_cases h with ⟨-, rfl⟩ | ⟨c, rest, -, e⟩
  · exact books
  · exact ((exec_kept c (s.setPending rest)).of_next e).books law books

end Sys2Proof.Machine

namespace Sys2Proof.Machine

/-! ### The closing of the OPEN entries (R105, R107; log entry 22) -/

/-- The entry of an offer closed at a time, its report the n-th produced (R105). -/
def Offer.closedBy (o : Offer) (r : ClosingReason) (time : Word) (n : Nat) : Offer :=
  { o with state := .closing, remaining := none, progress := none, bidSeq := none,
           deferred := none, reason := some r, held := some { order := n, event :=
             { tag := o.tag, time := time, payload := .offerClosed o.id r .noneOffered } } }

theorem closeOffer_eq (i : Nat) (o : Offer) (r : ClosingReason) (s : State) :
    closeOffer i o r .noneOffered s =
      (s.setOffers { s.offers with
        entries := s.offers.entries.set i (some (o.closedBy r s.clock s.book.produced)) }).setBook
      { s.book with produced := s.book.produced + 1 } := rfl

/-- Closing a list of entries changes the entries and the count of reports alone. -/
theorem closeAll_sets (r : ClosingReason) (l : List (Nat × Offer)) (s : State) : ∃ es n,
    es.length = s.offers.entries.length ∧
    closeAll r l s = (s.setOffers { s.offers with entries := es }).setBook
      { s.book with produced := n } := by
  induction l generalizing s with
  | nil => exact ⟨s.offers.entries, s.book.produced, rfl, rfl⟩
  | cons y l ih =>
    obtain ⟨es, n, len, closed⟩ := ih (closeOffer y.1 y.2 r .noneOffered s)
    refine ⟨es, n, len.trans ?_, closed⟩
    rw [closeOffer_eq]
    exact List.length_set

theorem closeOpen_sets (r : ClosingReason) (s : State) : ∃ es n,
    es.length = s.offers.entries.length ∧
    closeOpen r s = (s.setOffers { s.offers with entries := es }).setBook
      { s.book with produced := n } := closeAll_sets r _ s

/-- An entry that is not in the list stays. -/
theorem closeAll_elsewhere (r : ClosingReason) {l : List (Nat × Offer)} {i : Nat}
    (h : i ∉ l.map Prod.fst) (s : State) :
    (closeAll r l s).offers.entries[i]? = s.offers.entries[i]? := by
  induction l generalizing s with
  | nil => rfl
  | cons y l ih =>
    obtain ⟨here, later⟩ := not_or.1 (mt List.mem_cons.2 h)
    rw [closeAll, ih later, closeOffer_eq]
    exact List.getElem?_set_ne (Ne.symm here)

/-- The k-th entry of the list is closed with the k-th report produced. -/
theorem closeAll_closes (r : ClosingReason) {l : List (Nat × Offer)} {i k : Nat} {o : Offer}
    {s : State} (distinct : (l.map Prod.fst).Nodup) (at_k : l[k]? = some (i, o))
    (inside : i < s.offers.entries.length) : (closeAll r l s).offers.entries[i]? =
      some (some (o.closedBy r s.clock (s.book.produced + k))) := by
  induction l generalizing s k with
  | nil => cases at_k
  | cons y l ih =>
    obtain ⟨once, distinct⟩ := List.nodup_cons.1 distinct
    cases k with
    | zero =>
      obtain rfl : y = (i, o) := Option.some.inj at_k
      rw [closeAll, closeAll_elsewhere r once, closeOffer_eq]
      exact List.getElem?_set_self inside
    | succ k =>
      rw [closeAll, ih distinct at_k (inside.trans_eq List.length_set.symm), closeOffer_eq]
      simp only [State.setBook_book, State.setBook_clock, State.setOffers_clock,
        Nat.add_assoc, Nat.add_comm 1 k]

theorem insertOpen_perm (x : Nat × Offer) (l : List (Nat × Offer)) :
    (insertOpen x l).Perm (x :: l) := by
  induction l with
  | nil => exact List.Perm.refl _
  | cons y l ih =>
    rw [insertOpen]
    split
    · exact List.Perm.refl _
    · exact (ih.cons y).trans (List.Perm.swap x y l)

/-- Putting an entry among others in order of admission keeps that order. -/
theorem insertOpen_sorted (x : Nat × Offer) {l : List (Nat × Offer)}
    (h : l.Pairwise (fun a b => a.2.admitted ≤ b.2.admitted)) :
    (insertOpen x l).Pairwise (fun a b => a.2.admitted ≤ b.2.admitted) := by
  induction l with
  | nil => exact List.pairwise_singleton _ x
  | cons y l ih =>
    obtain ⟨first, rest⟩ := List.pairwise_cons.1 h
    rw [insertOpen]
    split
    · rename_i before
      refine List.pairwise_cons.2 ⟨fun z hz => ?_, h⟩
      rcases List.mem_cons.1 hz with rfl | hz
      · exact before.le
      · exact before.le.trans (first z hz)
    · rename_i after
      refine List.pairwise_cons.2 ⟨fun z hz => ?_, ih rest⟩
      rcases (mem_insertOpen z x l).1 hz with rfl | hz
      · exact Nat.le_of_not_lt after
      · exact first z hz

theorem openOffers_sorted (k : Nat) (l : List (Option Offer)) :
    (openOffers k l).Pairwise (fun a b => a.2.admitted ≤ b.2.admitted) := by
  induction l generalizing k with
  | nil => exact List.Pairwise.nil
  | cons e l ih =>
    cases e with
    | none => exact ih _
    | some o =>
      rw [openOffers]
      split
      · exact insertOpen_sorted _ (ih _)
      · exact ih _

/-- Each OPEN entry is in the list once. -/
theorem openOffers_nodup (k : Nat) (l : List (Option Offer)) :
    ((openOffers k l).map Prod.fst).Nodup := by
  induction l generalizing k with
  | nil => exact List.nodup_nil
  | cons e l ih =>
    cases e with
    | none => exact ih _
    | some o =>
      rw [openOffers]
      split
      · rw [((insertOpen_perm _ _).map Prod.fst).nodup_iff]
        refine List.nodup_cons.2 ⟨fun again => ?_, ih _⟩
        obtain ⟨⟨j, p⟩, hp, rfl⟩ := List.mem_map.1 again
        exact Nat.not_succ_le_self _ ((mem_openOffers _ p l _).1 hp).1
      · exact ih _

theorem mem_openOffers_of_getElem? {i : Nat} {o : Offer} {s : State}
    (at_i : s.offers.entries[i]? = some (some o)) (opened : o.state = .open) :
    (i, o) ∈ openOffers 0 s.offers.entries := by
  refine (mem_openOffers i o s.offers.entries 0).2 ⟨Nat.zero_le i, ?_, opened⟩
  rw [Nat.sub_zero, List.getD_eq_getElem?_getD, at_i]
  rfl

/-- An OPEN entry closes with a report of its own, by its place in the order of admission. -/
theorem closeOpen_closes (r : ClosingReason) {i : Nat} {o : Offer} {s : State}
    (at_i : s.offers.entries[i]? = some (some o)) (opened : o.state = .open) :
    ∃ k, (openOffers 0 s.offers.entries)[k]? = some (i, o) ∧
      (closeOpen r s).offers.entries[i]? =
        some (some (o.closedBy r s.clock (s.book.produced + k))) := by
  obtain ⟨k, at_k⟩ := List.mem_iff_getElem?.1 (mem_openOffers_of_getElem? at_i opened)
  exact ⟨k, at_k, closeAll_closes r (openOffers_nodup 0 _) at_k (List.getElem?_eq_some_iff.1 at_i).1⟩

theorem closeOpen_elsewhere (r : ClosingReason) {i : Nat} {e : Option Offer} {s : State}
    (at_i : s.offers.entries[i]? = some e) (other : ∀ o, e = some o → o.state ≠ .open) :
    (closeOpen r s).offers.entries[i]? = some e := by
  refine (closeAll_elsewhere r (fun listed => ?_) s).trans at_i
  obtain ⟨⟨j, o⟩, ho, rfl⟩ := List.mem_map.1 listed
  obtain ⟨here, opened⟩ := openOffers_at ho
  rw [offerAt, List.getD_eq_getElem?_getD, at_i] at here
  exact other o here opened

/-- Entries admitted one before the other close in that order. -/
theorem openOffers_order {l : List (Nat × Offer)} {k m : Nat} {a b : Nat × Offer}
    (sorted : l.Pairwise (fun a b => a.2.admitted ≤ b.2.admitted)) (at_k : l[k]? = some a)
    (at_m : l[m]? = some b) (before : a.2.admitted < b.2.admitted) : k < m := by
  obtain ⟨hk, rfl⟩ := List.getElem?_eq_some_iff.1 at_k
  obtain ⟨hm, rfl⟩ := List.getElem?_eq_some_iff.1 at_m
  rcases Nat.lt_trichotomy k m with lt | rfl | gt
  · exact lt
  · exact absurd before (Nat.lt_irrefl _)
  · exact absurd before (Nat.not_lt.2 (List.pairwise_iff_getElem.1 sorted m k hm hk gt))

/-- Settles O15: each OPEN entry by its place among them, the others untouched, the reports in order of admission. -/
theorem closingTheOpenOffersHoldsAReportForEach :
    Obligations.ClosingTheOpenOffersHoldsAReportForEach := by
  intro r s
  obtain ⟨es, n, len, closed⟩ := closeOpen_sets r s
  refine ⟨by rw [closed]; rfl, by rw [closed]; rfl, by rw [closed]; exact len,
    fun i o at_i opened => ?_, fun i e at_i other => closeOpen_elsewhere r at_i other,
    fun i j o p o' p' h k at_i opened at_j opened' before at_i' at_j' held held' => ?_⟩
  · obtain ⟨k, -, closes⟩ := closeOpen_closes r at_i opened
    exact ⟨_, closes⟩
  · obtain ⟨a, at_a, closes⟩ := closeOpen_closes r at_i opened
    obtain ⟨b, at_b, closes'⟩ := closeOpen_closes r at_j opened'
    have order : a < b := openOffers_order (openOffers_sorted 0 _) at_a at_b before
    obtain rfl := Option.some.inj (Option.some.inj (closes.symm.trans at_i'))
    obtain rfl := Option.some.inj (Option.some.inj (closes'.symm.trans at_j'))
    obtain rfl := Option.some.inj held
    obtain rfl := Option.some.inj held'
    exact Nat.add_lt_add_left order _

end Sys2Proof.Machine

namespace Sys2Proof.Machine

/-! ### The driver's requests about duty and offers (R106, R107, R111, R112) -/

section

variable {s : State} (run : s.phase = .running) (tag : Half)

include run

theorem exec_dutySet (v : Byte) : exec (.dutySet tag v) s = .next (reqDuty tag v s) :=
  congrArg Host.Outcome.next (whenRunning_running run)

theorem exec_accept (id : Word) : exec (.accept tag id) s = .next (reqAccept tag id s) :=
  congrArg Host.Outcome.next (whenRunning_running run)

theorem exec_decline (id : Word) : exec (.decline tag id) s = .next (reqDecline tag id s) :=
  congrArg Host.Outcome.next (whenRunning_running run)

end

/-! ### DUTY_SET and a changed duty (R106, R107) -/

/-- Table 44 gives three duties. -/
theorem dutyOfCode_none_iff (v : Byte) : Duty.ofCode v = none ↔ 2 < v.toNat := by
  unfold Duty.ofCode
  split
  case h_4 zero one two =>
    rw [imp_false] at zero one two
    exact iff_of_true rfl (by omega)
  all_goals exact iff_of_false (Option.some_ne_none _) (by omega)

theorem effectiveDuty_busy_iff (s : State) : effectiveDuty s = .busy ↔
    s.meter.state ≠ .vacant ∨ anyAwarded s = true ∨ s.offers.driverDuty = .busy := by
  rw [effectiveDuty, ← or_assoc]
  split
  · rename_i engaged
    exact iff_of_true rfl (Or.inl engaged)
  · rename_i idle
    exact (or_iff_right idle).symm

theorem reqDuty_taken {v : Byte} {d : Duty} (h : Duty.ofCode v = some d) (tag : Half) (s : State) :
    reqDuty tag v s = placeHeld (setDuty d tag s) := by
  rw [reqDuty, h]

theorem reqDuty_refused {v : Byte} (h : Duty.ofCode v = none) (tag : Half) (s : State) :
    reqDuty tag v s = produce tag (.refused 0x03 .outOfRange) s := by
  rw [reqDuty, h]
  rfl

section

variable {d : Duty} {s : State}

theorem setDuty_free
    (h : effectiveDuty (s.setOffers { s.offers with driverDuty := d }) = .free) (tag : Half) :
    setDuty d tag s = produce tag (.dutyChanged d .free (effectiveDuty s) .dutySet)
      (s.setOffers { s.offers with driverDuty := d }) := by
  simp only [setDuty, h, if_true]

theorem setDuty_closes
    (h : effectiveDuty (s.setOffers { s.offers with driverDuty := d }) ≠ .free) (tag : Half) :
    setDuty d tag s = closeOpen .superseded (produce tag (.dutyChanged d
      (effectiveDuty (s.setOffers { s.offers with driverDuty := d })) (effectiveDuty s) .dutySet)
      (s.setOffers { s.offers with driverDuty := d })) := by
  simp only [setDuty, if_neg h]

end

/-- The report of a duty that may have changed from the one before. -/
def reportDuty (before : Duty) (tag : Half) (cause : DutyCause) (s : State) : State :=
  if effectiveDuty s = before then s
  else produce tag (.dutyChanged s.offers.driverDuty (effectiveDuty s) before cause) s

theorem dutyAfter_free {s : State} (h : effectiveDuty s = .free) (before : Duty) (tag : Half)
    (cause : DutyCause) : dutyAfter before tag cause s = reportDuty before tag cause s := if_pos h

theorem dutyAfter_closes {s : State} (h : effectiveDuty s ≠ .free) (before : Duty) (tag : Half)
    (cause : DutyCause) :
    dutyAfter before tag cause s = closeOpen .superseded (reportDuty before tag cause s) := if_neg h

/-- Settles O22: DUTY_SET by its value and the duty it makes effective, another change by the duty before and after. -/
theorem dutySetReportsAndCloses : Obligations.DutySetReportsAndCloses := by
  intro tag v d s run
  refine ⟨fun taken => ⟨fun free => ?_, fun engaged => ?_⟩, fun none => ?_, dutyOfCode_none_iff v,
    effectiveDuty_busy_iff s, effectiveDuty_not_busy, fun before cause =>
    ⟨reportDuty before tag cause s, fun same => if_pos same, fun changed => if_neg changed,
      fun free => dutyAfter_free free before tag cause,
      fun engaged => dutyAfter_closes engaged before tag cause⟩⟩
  · rw [exec_dutySet run, reqDuty_taken taken, setDuty_free free]
  · rw [exec_dutySet run, reqDuty_taken taken, setDuty_closes engaged]
  · rw [exec_dutySet run, reqDuty_refused none]

/-! ### The entry an offer id finds (R104) -/

theorem findOfferFrom_id {id : Word} {l : List (Option Offer)} {k i : Nat} {o : Offer}
    (h : findOfferFrom id k l = some (i, o)) : o.id = id := by
  induction l generalizing k with
  | nil => cases h
  | cons e l ih =>
    cases e with
    | none => exact ih h
    | some p =>
      rw [findOfferFrom] at h
      split at h
      · cases h
        assumption
      · exact ih h

theorem findOfferFrom_none {id : Word} {l : List (Option Offer)} {k : Nat}
    (h : findOfferFrom id k l = none) (o : Offer) (ho : some o ∈ l) : o.id ≠ id := by
  induction l generalizing k with
  | nil => cases ho
  | cons e l ih =>
    cases e with
    | none => exact ih h ((List.mem_cons.1 ho).resolve_left nofun)
    | some p =>
      rw [findOfferFrom] at h
      split at h
      · cases h
      · rename_i other
        rcases List.mem_cons.1 ho with here | later
        · exact Option.some.inj here ▸ other
        · exact ih h later

/-! ### ACCEPT (R111) -/

theorem reqAccept_unknown {id : Word} {s : State} (h : findOffer id s = none) (tag : Half) :
    reqAccept tag id s = produce tag (.refused 0x01 .noSuchOffer) s := by
  rw [reqAccept, h]
  rfl

section

variable {id : Word} {i : Nat} {o : Offer} {s : State} (found : findOffer id s = some (i, o))
  (tag : Half)

include found

theorem reqAccept_found : reqAccept tag id s =
    if o.state = .closing ∧ o.reason = some .expired then refuse 0x01 .tooLate tag s
    else if s.emerg.state ≠ .quiet then refuse 0x01 .emergency tag s
    else if o.state ≠ .open then refuse 0x01 .wrongState tag s
    else if (findJob s).isSome then refuse 0x01 .oneJob tag s
    else placeHeld (offerBid i o tag s) := by
  rw [reqAccept, found]

theorem reqAccept_late (closed : o.state = .closing) (expired : o.reason = some .expired) :
    reqAccept tag id s = produce tag (.refused 0x01 .tooLate) s :=
  (reqAccept_found found tag).trans (if_pos ⟨closed, expired⟩)

variable (early : ¬ (o.state = .closing ∧ o.reason = some .expired))

include early

theorem reqAccept_emergency (call : s.emerg.state ≠ .quiet) :
    reqAccept tag id s = produce tag (.refused 0x01 .emergency) s := by
  rw [reqAccept_found found, if_neg early, if_pos call]
  rfl

variable (quiet : s.emerg.state = .quiet)

include quiet

theorem reqAccept_state (other : o.state ≠ .open) :
    reqAccept tag id s = produce tag (.refused 0x01 .wrongState) s := by
  rw [reqAccept_found found, if_neg early, if_neg (not_not.2 quiet), if_pos other]
  rfl

variable (opened : o.state = .open)

include opened

theorem reqAccept_job (job : findJob s ≠ none) :
    reqAccept tag id s = produce tag (.refused 0x01 .oneJob) s := by
  rw [reqAccept_found found, if_neg early, if_neg (not_not.2 quiet), if_neg (not_not.2 opened),
    if_pos (Option.isSome_iff_ne_none.2 job)]
  rfl

theorem reqAccept_bids (free : findJob s = none) :
    reqAccept tag id s = placeHeld (offerBid i o tag s) := by
  rw [reqAccept_found found, if_neg early, if_neg (not_not.2 quiet), if_neg (not_not.2 opened),
    if_neg (by rw [free]; exact Bool.false_ne_true)]

end

theorem offerBid_down {s : State} (down : s.link.state = .offline ∨ s.link.state = .failed)
    (i : Nat) (o : Offer) (tag : Half) :
    offerBid i o tag s = produce tag (.refused 0x01 .linkDown) s := by
  rw [offerBid, offerEntry_linkDown _ _ _ _ (by decide) down]
  rfl

/-- A BID admitted with number q: its entry is BID_SENT with that number (R111, case 6). -/
theorem offerBid_admitted {i q : Nat} {o : Offer} {s u : State}
    (h : offerEntry .bid (bidBody o.id s) false false (.offer i) s = (u, .admitted q))
    (unmoved : u.offers = s.offers) (tag : Half) : offerBid i o tag s =
      u.setOffers { s.offers with
        entries := s.offers.entries.set i (some (o.bidding q tag)) } := by
  rw [offerBid, h, ← unmoved]
  rfl

/-- Settles O34: the refusals in R111's order, then the BID by the answer of the queue. -/
theorem acceptOffersABidOrIsRefused : Obligations.AcceptOffersABidOrIsRefused := by
  intro tag id s run
  refine ⟨fun unknown => ?_, fun i o found => ⟨fun closed expired => ?_, fun early =>
    ⟨fun call => ?_, fun quiet other => ?_, fun quiet opened job => ?_, fun quiet opened free =>
    ⟨fun down => ?_, fun q u taken => ?_⟩⟩⟩,
    fun i o found => ⟨findOffer_at found, findOfferFrom_id found⟩, findOfferFrom_none⟩
  · rw [exec_accept run, reqAccept_unknown unknown]
  · rw [exec_accept run, reqAccept_late found tag closed expired]
  · rw [exec_accept run, reqAccept_emergency found tag early call]
  · rw [exec_accept run, reqAccept_state found tag early quiet other]
  · rw [exec_accept run, reqAccept_job found tag early quiet opened job]
  · rw [exec_accept run, reqAccept_bids found tag early quiet opened free, offerBid_down down]
  · have same : o.id = id := findOfferFrom_id found
    have body : bidBody o.id s = bytesBE 4 id.toNat ++ positionBlock s := by rw [same, bidBody]
    have unmoved : u.offers = s.offers := by
      have radio := offerEntry_radio .bid (bidBody o.id s) false false (.offer i) s
      rw [body, taken] at radio
      exact radio.offers
    rw [exec_accept run, reqAccept_bids found tag early quiet opened free,
      offerBid_admitted (body ▸ taken) unmoved]
    rfl

/-! ### DECLINE (R112) -/

theorem placeFrom_uplink (src : HeldSource) (s : State) : (placeFrom src s).uplink = s.uplink := by
  unfold placeFrom
  cases src <;> simp only
  case offer | slot =>
    split
    · split <;> rfl
    · rfl
  all_goals split <;> rfl

/-- Placing reports leaves the uplink queue alone. -/
theorem placeHeld_uplink (s : State) : (placeHeld s).uplink = s.uplink := by
  have many : ∀ n t, (placeMany n t).uplink = t.uplink := by
    intro n
    induction n with
    | zero => exact fun _ => rfl
    | succ n ih =>
      intro t
      have one : (placeOne t).uplink = t.uplink := by
        unfold placeOne
        split
        · split
          · exact placeFrom_uplink _ t
          · rfl
        · rfl
      rw [placeMany, ih, one]
  exact many _ s

theorem reqDecline_unknown {id : Word} {s : State} (h : findOffer id s = none) (tag : Half) :
    reqDecline tag id s = produce tag (.refused 0x02 .noSuchOffer) s := by
  rw [reqDecline, h]
  rfl

section

variable {id : Word} {i : Nat} {o : Offer} {s : State} (found : findOffer id s = some (i, o))
  (tag : Half)

include found

theorem reqDecline_state (other : o.state ≠ .open) :
    reqDecline tag id s = produce tag (.refused 0x02 .wrongState) s := by
  rw [reqDecline, found]
  exact if_neg other

theorem reqDecline_closes (opened : o.state = .open) : reqDecline tag id s =
    placeHeld (closeOffer i { o with tag := tag } .declined .noneOffered s) := by
  rw [reqDecline, found]
  exact if_pos opened

end

/-- Settles O35: DECLINE by the entry its id finds; the closing and the placing touch nothing on air. -/
theorem declineClosesAnOpenOfferOrIsRefused :
    Obligations.DeclineClosesAnOpenOfferOrIsRefused := by
  intro tag id s run
  refine ⟨fun unknown => ?_, fun i o found => ⟨fun other => ?_, fun opened => ⟨_, ?_, rfl, ?_, ?_⟩⟩,
    by rw [produce_eq]; rfl⟩
  · rw [exec_decline run, reqDecline_unknown unknown]
  · rw [exec_decline run, reqDecline_state found tag other]
  · rw [exec_decline run, reqDecline_closes found tag opened]
    rfl
  · exact placeHeld_uplink _
  · exact (placeHeld_same _).link

end Sys2Proof.Machine

namespace Sys2Proof.Machine

/-! ### The ends of the window and of the award wait (R110, R114; log entries 3, 4, 33) -/

theorem remainingOf_iff {i : Nat} {o : Offer} {s : State}
    (h : s.offers.entries.getD i none = some o) :
    remainingOf i s = some 0 ↔ o.state = .open ∧ o.remaining = some 0 := by
  rw [remainingOf, h, Option.bind_some]
  exact Option.ite_none_right_eq_some

theorem remainingOf_free {i : Nat} {s : State} (h : s.offers.entries.getD i none = none) :
    remainingOf i s ≠ some 0 := by
  rw [remainingOf, h]
  exact nofun

theorem windowEnd_closes {i : Nat} {o : Offer} {s : State}
    (h : s.offers.entries.getD i none = some o) (opened : o.state = .open)
    (out : o.remaining = some 0) : windowEnd i s = closeOffer i o .expired .noneOffered s := by
  rw [windowEnd, h]
  exact if_pos ⟨opened, by rw [out]; rfl⟩

/-- The held job waits for its award: ACKED, its BID gone, the wait running (R114). -/
theorem waitingAward_waits {i : Nat} {o : Offer} {s : State} (h : findJob s = some (i, o))
    (sent : o.state = .bidSent) (acked : o.progress = some .acked) (gone : o.bidSeq = none)
    (runs : o.remaining.isSome = true) : waitingAward s = some (i, o) := by
  rw [waitingAward, h]
  exact if_pos ⟨sent, acked, runs, gone⟩

theorem waitingAward_none {s : State} (h : findJob s = none) : waitingAward s = none := by
  rw [waitingAward, h]

theorem awardRemaining_none {s : State} (h : findJob s = none) : awardRemaining s ≠ some 0 := by
  rw [awardRemaining, waitingAward_none h]
  exact nofun

theorem awardRemaining_iff {i : Nat} {o : Offer} {s : State} (h : findJob s = some (i, o)) :
    awardRemaining s = some 0 ↔ o.state = .bidSent ∧ o.progress = some .acked ∧
      o.bidSeq = none ∧ o.remaining = some 0 := by
  constructor
  · intro out
    obtain ⟨⟨j, p⟩, waits, out⟩ := Option.bind_eq_some_iff.1 out
    rw [waitingAward, h] at waits
    obtain ⟨⟨sent, acked, -, gone⟩, same⟩ := Option.ite_none_right_eq_some.1 waits
    cases same
    exact ⟨sent, acked, gone, out⟩
  · rintro ⟨sent, acked, gone, out⟩
    rw [awardRemaining, waitingAward_waits h sent acked gone (by rw [out]; rfl)]
    exact out

theorem awardWaitEnd_closes {i : Nat} {o : Offer} {s : State} (h : findJob s = some (i, o))
    (sent : o.state = .bidSent) (acked : o.progress = some .acked) (gone : o.bidSeq = none)
    (out : o.remaining = some 0) : awardWaitEnd s =
      closeOffer i o .noAward (offerRelease o.id s).2 (offerRelease o.id s).1 := by
  rw [awardWaitEnd, waitingAward_waits h sent acked gone (by rw [out]; rfl)]
  rfl

/-- A RELEASE is offered, or dropped and counted (R79, R114). -/
theorem offerRelease_eq (id : Word) (s : State) : offerRelease id s =
    if (offerEntry .release (bytesBE 4 id.toNat) false false (.offerId id) s).2.ok
    then ((offerEntry .release (bytesBE 4 id.toNat) false false (.offerId id) s).1, .released)
    else (countDropped (offerEntry .release (bytesBE 4 id.toNat) false false (.offerId id) s).1,
      .notReleased) := by
  unfold offerRelease offerOrDrop releaseBody
  cases ok : (offerEntry .release (bytesBE 4 id.toNat) false false (.offerId id) s).2.ok with
  | true => simp only [if_true, ok]
  | false => simp only [Bool.false_eq_true, if_false, ok]

/-- Settles O36: the rows by what the tick at hand leaves of the wait, the closing and the RELEASE as they are. -/
theorem offersCloseOnTheirTimers : Obligations.OffersCloseOnTheirTimers := by
  intro s v hv run
  obtain ⟨-, -, -, -, window, award, -⟩ := endRows_due hv run
  obtain ⟨-, -, -, -, windowEarly, awardEarly, -⟩ := endRows_early hv
  obtain ⟨-, -, -, windowTaken, -⟩ := endRows_taken hv
  refine ⟨fun i o at_i => ⟨fun opened out => ?_, fun other => ?_⟩, fun i free =>
    ⟨windowEarly i (remainingOf_free free),
      fun raised => windowTaken i (remainingOf_free free) raised run⟩,
    fun i o job => ⟨fun sent acked gone out =>
      ⟨(offerRelease o.id v).1, (offerRelease o.id v).2, rfl, ?_⟩, fun other => awardEarly ?_⟩,
    fun nobody => awardEarly (awardRemaining_none nobody), fun _ _ _ _ _ => rfl, offerRelease_eq⟩
  · rw [window i ((remainingOf_iff at_i).2 ⟨opened, out⟩), windowEnd_closes at_i opened out]
  · have running : remainingOf i.val v ≠ some 0 := by
      rw [Ne, remainingOf_iff at_i]
      exact not_and_or.2 other
    exact ⟨windowEarly i running, fun raised => windowTaken i running raised run⟩
  · rw [award ((awardRemaining_iff job).2 ⟨sent, acked, gone, out⟩),
      awardWaitEnd_closes job sent acked gone out]
  · rw [Ne, awardRemaining_iff job]
    tauto

end Sys2Proof.Machine

namespace Sys2Proof.Machine

/-! ### OFFER (R108, R109, R134; log entry 6) -/

theorem exec_offer_scoped {f : DownFrame} {s : State} (run : s.phase = .running)
    (scope : scopeOf f.flags ≤ 2) :
    exec (.offer f) s = .next (freeBuffer 0x11 f (ownOffer f s)) := by
  have allowed : scopeAllowed .offer (scopeOf f.flags) = true := decide_eq_true scope
  rw [exec_offer run, takeOffer, handOver_without_ack allowed rfl]
  rfl

theorem offerIdHeld_iff (body : List Byte) (s : State) : offerIdHeld body s = true ↔
    4 ≤ body.length ∧ findOffer (BitVec.ofNat 32 (natBE (slice body 0 4))) s ≠ none := by
  rw [offerIdHeld, Bool.and_eq_true, decide_eq_true_eq, Option.isSome_iff_ne_none]

section

variable {f : DownFrame} {s : State}

theorem ownOffer_suppressed (call : s.emerg.state ≠ .quiet) : ownOffer f s =
    s.setOffers { s.offers with suppressed := min (s.offers.suppressed + 1) 65535 } := if_pos call

variable (quiet : s.emerg.state = .quiet)

include quiet

theorem ownOffer_engaged (duty : effectiveDuty s ≠ .free) : ownOffer f s = s :=
  (if_neg (not_not.2 quiet)).trans (if_pos duty)

variable (free : effectiveDuty s = .free)

include free

theorem ownOffer_known (held : offerIdHeld f.body s = true) : ownOffer f s = s :=
  ((if_neg (not_not.2 quiet)).trans (if_neg (not_not.2 free))).trans (if_pos held)

variable (fresh : ¬ offerIdHeld f.body s = true)

include fresh

theorem ownOffer_malformed (bad : offerBody (scopeOf f.flags) f.body = none) : ownOffer f s =
    s.setOffers { s.offers with malformed := min (s.offers.malformed + 1) 65535 } := by
  rw [ownOffer, if_neg (not_not.2 quiet), if_neg (not_not.2 free), if_neg fresh, bad]
  rfl

variable {b : OfferBody} (good : offerBody (scopeOf f.flags) f.body = some b)

include good

theorem ownOffer_overflow (full : firstFree 0 s.offers.entries = none) : ownOffer f s =
    s.setOffers { s.offers with overflow := min (s.offers.overflow + 1) 65535 } := by
  rw [ownOffer, if_neg (not_not.2 quiet), if_neg (not_not.2 free), if_neg fresh, good, full]
  rfl

theorem ownOffer_admitted {i : Nat} (place : firstFree 0 s.offers.entries = some i) :
    ownOffer f s = admitOffer i b (scopeOf f.flags) s := by
  rw [ownOffer, if_neg (not_not.2 quiet), if_neg (not_not.2 free), if_neg fresh, good, place]

end

/-- Table 48: the layout, length, kind, scope and window of a well-formed OFFER body (R108). -/
theorem offerBody_eq_some_iff (scope : Nat) (body : List Byte) (b : OfferBody) :
    offerBody scope body = some b ↔
      body.length = 9 + (byteAt body 8).toNat ∧ (byteAt body 8).toNat ≤ 141 ∧
      b.id = BitVec.ofNat 32 (natBE (slice body 0 4)) ∧
      b.zone = BitVec.ofNat 16 (natBE (slice body 4 2)) ∧
      ((byteAt body 6).toNat = 0 ∧ b.kind = .openCall ∨
        (byteAt body 6).toNat = 1 ∧ b.kind = .direct ∧ scope = 0) ∧
      b.window = (byteAt body 7).toNat ∧ 5 ≤ b.window ∧ b.window ≤ 120 ∧
      b.text = (body.drop 9).map (fun c => c &&& 0x7F) := by
  obtain ⟨id, zone, kind, window, text⟩ := b
  rw [offerBody, Option.ite_none_right_eq_some, Option.some.injEq, OfferBody.mk.injEq]
  constructor
  · rintro ⟨⟨-, len, le, kinds, cab, short, long⟩, rfl, rfl, rfl, rfl, rfl⟩
    refine ⟨len, le, rfl, rfl, ?_, rfl, short, long, rfl⟩
    rcases Nat.le_one_iff_eq_zero_or_eq_one.1 kinds with k | k
    · exact Or.inl ⟨k, if_pos k⟩
    · exact Or.inr ⟨k, if_neg (by rw [k]; exact Nat.one_ne_zero), cab k⟩
  · rintro ⟨len, le, rfl, rfl, kinds, rfl, short, long, rfl⟩
    have within : 9 ≤ body.length := len ▸ Nat.le_add_right 9 _
    rcases kinds with ⟨k, rfl⟩ | ⟨k, rfl, cab⟩
    · exact ⟨⟨within, len, le, k ▸ Nat.zero_le 1, fun one => absurd (k.symm.trans one) nofun,
        short, long⟩, rfl, rfl, if_pos k, rfl, rfl⟩
    · exact ⟨⟨within, len, le, k.le, fun _ => cab, short, long⟩, rfl, rfl,
        if_neg (by rw [k]; exact Nat.one_ne_zero), rfl, rfl⟩

/-- The first free place is free, and every place before it is taken (R109, R127). -/
theorem firstFree_first {α : Type} {l : List (Option α)} {k i : Nat}
    (h : firstFree k l = some i) :
    k ≤ i ∧ l[i - k]? = some none ∧ ∀ j, j < i - k → ∃ x, l[j]? = some (some x) := by
  induction l generalizing k with
  | nil => cases h
  | cons e l ih =>
    cases e with
    | none =>
      obtain rfl : k = i := Option.some.inj h
      rw [Nat.sub_self]
      exact ⟨Nat.le_refl _, rfl, fun j before => absurd before (Nat.not_lt_zero j)⟩
    | some a =>
      obtain ⟨le, free, taken⟩ := ih h
      have next : i - k = (i - (k + 1)) + 1 := by omega
      rw [next]
      refine ⟨by omega, free, fun j before => ?_⟩
      cases j with
      | zero => exact ⟨a, rfl⟩
      | succ j => exact taken j (Nat.lt_of_succ_lt_succ before)

/-- Settles O37: the cases of R108 in order, the body by Table 48, the place and the pulse by their definitions. -/
theorem offerFramesAreAdmittedOrDropped : Obligations.OfferFramesAreAdmittedOrDropped := by
  intro f s run scope
  rw [exec_offer_scoped run scope]
  refine ⟨fun call => by rw [ownOffer_suppressed call],
    fun quiet duty => by rw [ownOffer_engaged quiet duty],
    fun quiet free => ⟨fun long known => ?_, fun unknown => ?_⟩,
    fun b => offerBody_eq_some_iff _ _ b, fun i place => (firstFree_first place).2,
    fun d u => ⟨_, Config.subSecond u.book.drawn % 32768, Nat.mod_lt _ (by decide), rfl, ?_⟩⟩
  · rw [ownOffer_known quiet free ((offerIdHeld_iff _ _).2 ⟨long, known⟩)]
  · have fresh : ¬ offerIdHeld f.body s = true := by
      rw [offerIdHeld_iff, not_and_or, not_le, not_not]
      exact unknown
    refine ⟨fun bad => by rw [ownOffer_malformed quiet free fresh bad], fun b good =>
      ⟨fun full => by rw [ownOffer_overflow quiet free fresh good full], fun i place => ?_⟩⟩
    rw [ownOffer_admitted quiet free fresh good place]
    rfl
  · rfl

end Sys2Proof.Machine

namespace Sys2Proof.Machine

/-! ### Dispatch's word on an offer (R115 to R119) -/

theorem idBody_eq_some_iff (bs : List Byte) (id : Word) :
    idBody bs = some id ↔ bs.length = 4 ∧ id = BitVec.ofNat 32 (natBE bs) := by
  rw [idBody, Option.ite_none_right_eq_some, Option.some.injEq, eq_comm (a := id)]

/-- An answer is deferred where the mark is set or the BID is in the air (R113, R119). -/
theorem answerDeferred_iff (o : Offer) (s : State) : answerDeferred o s = true ↔
    o.deferred ≠ none ∨
      ∃ q e, o.bidSeq = some q ∧ entryWith q s = some e ∧ e.state = .onAir := by
  rw [answerDeferred, Bool.or_eq_true, beq_iff_eq, Option.isSome_iff_ne_none]
  refine or_congr_right ⟨fun h => ?_, ?_⟩
  · obtain ⟨e, he, air⟩ := Option.map_eq_some_iff.1 h
    obtain ⟨q, hq, found⟩ := Option.bind_eq_some_iff.1 he
    exact ⟨q, e, hq, found, air⟩
  · rintro ⟨q, e, hq, found, air⟩
    rw [hq, Option.bind_some, found, Option.map_some, air]

section

variable {o : Offer} {s : State}

theorem answer_now_without_bid (gone : o.bidSeq = none) (clear : o.deferred = none) :
    answerDeferred o s = false := by
  rw [← Bool.not_eq_true, answerDeferred_iff]
  rintro (marked | ⟨q, e, hq, -⟩)
  · exact marked clear
  · rw [gone] at hq
    cases hq

variable {q : Nat} (hq : o.bidSeq = some q)

include hq

theorem answer_now (clear : o.deferred = none)
    (sent : ∀ e, entryWith q s = some e → e.state ≠ .onAir) : answerDeferred o s = false := by
  rw [← Bool.not_eq_true, answerDeferred_iff]
  rintro (marked | ⟨p, e, hp, found, air⟩)
  · exact marked clear
  · obtain rfl : q = p := Option.some.inj (hq.symm.trans hp)
    exact sent e found air

theorem answer_later
    (h : o.deferred ≠ none ∨ ∃ e, entryWith q s = some e ∧ e.state = .onAir) :
    answerDeferred o s = true :=
  (answerDeferred_iff o s).2 (h.imp_right fun ⟨e, found, air⟩ => ⟨q, e, hq, found, air⟩)

theorem withdrawBid_some : withdrawBid o s = withdrawEntry q s := by
  rw [withdrawBid, hq]

/-- A deferred answer sets both marks and keeps the outcome (R119). -/
theorem deferAnswer_marks (a : BidAnswer) (i : Nat) : deferAnswer a i o s =
    (s.setUplink { s.uplink with
      entries := s.uplink.entries.map (fun x => if x.seq = q
        then { x with abandon := true, answered := true } else x) }).setOffers
      { s.offers with
        entries := s.offers.entries.set i (some { o with
          deferred := some (Deferred.after o.deferred a), remaining := none }) } := by
  rw [deferAnswer, hq]
  rfl

end

theorem withdrawBid_none {o : Offer} (gone : o.bidSeq = none) (s : State) :
    withdrawBid o s = s := by
  rw [withdrawBid, gone]

/-! ### AWARD (R115, R116) -/

/-- A new AWARD for this cab is taken and acknowledged, and R34 is tested. -/
theorem exec_award_new {f : DownFrame} {s : State} (run : s.phase = .running)
    (cab : scopeOf f.flags = 0) (new : dedupeFind f.seq s = none) : exec (.award f) s =
      .next (placeHeld (tripTest (freeBuffer 0x13 f (dedupeAdd f.seq .taken
        (offerAck 0x13 f.seq .taken (ownAward f s)))))) := by
  rw [exec_award run, takeAward, handOver_new (by rw [cab]; rfl) (by rw [cab]; rfl) new]
  rfl

theorem ownAward_ignored {f : DownFrame} (h : idBody f.body = none) (s : State) :
    ownAward f s = s := by
  rw [ownAward, h]

theorem ownAward_id {f : DownFrame} {id : Word} (h : idBody f.body = some id) (s : State) :
    ownAward f s = awardId id s := by
  rw [ownAward, h]

theorem awardId_unknown {id : Word} {s : State} (h : findOffer id s = none) : awardId id s =
    produce 0 (.lateAward id .unknown (offerRelease id s).2) (offerRelease id s).1 := by
  rw [awardId, h]

section

variable {id : Word} {i : Nat} {o : Offer} {s : State} (found : findOffer id s = some (i, o))

include found

theorem awardId_awarded (h : o.state = .awarded) : awardId id s = s := by
  rw [awardId, found]
  simp only [h]

theorem awardId_closing (h : o.state = .closing) : awardId id s =
    produce 0 (.lateAward id .closing (offerRelease id s).2) (offerRelease id s).1 := by
  rw [awardId, found]
  simp only [h]

theorem awardId_direct (h : o.state = .open) (allowed : directAllowed s = true) :
    awardId id s = awardEntry i o true 0 s := by
  rw [awardId, found]
  simp only [h, allowed, if_true]

theorem awardId_open (h : o.state = .open) (barred : directAllowed s = false) : awardId id s =
    closeWith i o none 0 (.lateAward id .open (offerRelease id s).2) (offerRelease id s).1 := by
  rw [awardId, found]
  simp only [h, barred, Bool.false_eq_true, if_false]

variable (sent : o.state = .bidSent)

include sent

theorem awardId_deferred (later : answerDeferred o s = true) :
    awardId id s = deferAnswer .award i o s := by
  rw [awardId, found]
  simp only [sent, later, if_true]

theorem awardId_bid (now : answerDeferred o s = false) :
    awardId id s = awardEntry i o false o.tag (withdrawBid o s) := by
  rw [awardId, found]
  simp only [sent, now, Bool.false_eq_true, if_false]

end

theorem directAllowed_iff (s : State) : directAllowed s = true ↔
    findJob s = none ∧ s.emerg.state = .quiet ∧ effectiveDuty s = .free := by
  rw [directAllowed, Bool.and_eq_true, Bool.and_eq_true, beq_iff_eq, beq_iff_eq,
    Option.isNone_iff_eq_none, and_assoc]

/-- Settles O38: the body, the entry its id finds and that entry's state; a bid by where its BID stands. -/
theorem awardFramesAssignTheJob : Obligations.AwardFramesAssignTheJob := by
  refine ⟨fun f s run cab bad new => ?_, idBody_eq_some_iff, fun f id s run cab good new =>
    ⟨⟨awardId id s, ?_, fun unknown => ⟨(offerRelease id s).1, (offerRelease id s).2, rfl,
      awardId_unknown unknown⟩, fun i o found => ⟨awardId_awarded found, fun closing =>
      ⟨(offerRelease id s).1, (offerRelease id s).2, rfl, awardId_closing found closing⟩,
      awardId_direct found, fun opened barred => ⟨(offerRelease id s).1, (offerRelease id s).2, rfl,
      awardId_open found opened barred⟩, fun sent gone clear => ?_,
      fun q sent hq clear ground => ?_, fun q sent hq marked =>
      ⟨Deferred.after o.deferred .award, ?_, ?_, ?_⟩⟩⟩,
      fun _ _ _ _ _ _ => rfl, directAllowed_iff s, fun _ _ _ _ _ => rfl⟩⟩
  · rw [exec_award_new run cab new, ownAward_ignored bad]
  · rw [exec_award_new run cab new, ownAward_id good]
  · rw [awardId_bid found sent (answer_now_without_bid gone clear), withdrawBid_none gone]
  · rw [awardId_bid found sent (answer_now hq clear ground), withdrawBid_some hq]
  · rintro (h | h | h) <;> rw [h] <;> rfl
  · rintro (h | h) <;> rw [h] <;> rfl
  · rw [awardId_deferred found sent (answer_later hq marked), deferAnswer_marks hq]

/-! ### REJECT and WITHDRAW (R117, R118) -/

/-- An answer that takes an offer away, with the reason an OPEN entry closes for and what it does to an awarded job. -/
def offerGone (reason : ClosingReason) (job : Nat → Offer → State → State) (body : List Byte)
    (s : State) : State :=
  match (idBody body).bind (fun id => findOffer id s) with
  | some (i, o) =>
    match o.state with
    | .open => closeOffer i o reason .noneOffered s
    | .bidSent => bidTaken i o s
    | .awarded => job i o s
    | .closing => s
  | none => s

theorem ownReject_eq (f : DownFrame) (s : State) :
    ownReject f s = offerGone .taken (fun _ _ t => t) f.body s := rfl

theorem ownWithdraw_eq (f : DownFrame) (s : State) :
    ownWithdraw f s = offerGone .withdrawn cancelJob f.body s := rfl

section

variable {r : ClosingReason} {job : Nat → Offer → State → State} {body : List Byte} {s : State}

theorem offerGone_malformed (bad : idBody body = none) : offerGone r job body s = s := by
  rw [offerGone, bad]
  rfl

variable {id : Word} (good : idBody body = some id)

include good

theorem offerGone_unknown (h : findOffer id s = none) : offerGone r job body s = s := by
  rw [offerGone, good, Option.bind_some, h]

variable {i : Nat} {o : Offer} (found : findOffer id s = some (i, o))

include found

theorem offerGone_closing (h : o.state = .closing) : offerGone r job body s = s := by
  rw [offerGone, good, Option.bind_some, found]
  simp only [h]

theorem offerGone_awarded (h : o.state = .awarded) : offerGone r job body s = job i o s := by
  rw [offerGone, good, Option.bind_some, found]
  simp only [h]

theorem offerGone_open (h : o.state = .open) :
    offerGone r job body s = closeOffer i o r .noneOffered s := by
  rw [offerGone, good, Option.bind_some, found]
  simp only [h]

theorem offerGone_bid (h : o.state = .bidSent) : offerGone r job body s = bidTaken i o s := by
  rw [offerGone, good, Option.bind_some, found]
  simp only [h]

end

theorem bidTaken_later {o : Offer} {s : State} (h : answerDeferred o s = true) (i : Nat) :
    bidTaken i o s = deferAnswer .gone i o s := if_pos h

theorem bidTaken_now {o : Offer} {s : State} (h : answerDeferred o s = false) (i : Nat) :
    bidTaken i o s = closeOffer i o .taken .noneOffered (withdrawBid o s) :=
  if_neg (by rw [h]; exact Bool.false_ne_true)

/-- A REJECT has no ACK duty: the owner takes it and R34 is tested. -/
theorem exec_reject_scoped {f : DownFrame} {s : State} (run : s.phase = .running)
    (scope : scopeOf f.flags ≤ 1) : exec (.reject f) s =
      .next (placeHeld (tripTest (freeBuffer 0x14 f
        (offerGone .taken (fun _ _ t => t) f.body s)))) := by
  have allowed : scopeAllowed .reject (scopeOf f.flags) = true := decide_eq_true scope
  rw [exec_reject run, takeReject, handOver_without_ack allowed rfl, ownReject_eq]
  rfl

/-- A WITHDRAW beyond this cab has no ACK duty. -/
theorem exec_withdraw_wide {f : DownFrame} {s : State} (run : s.phase = .running)
    (scope : scopeOf f.flags ≤ 2) (wide : scopeOf f.flags ≠ 0) : exec (.withdraw f) s =
      .next (placeHeld (tripTest (freeBuffer 0x12 f
        (offerGone .withdrawn cancelJob f.body s)))) := by
  have allowed : scopeAllowed .withdraw (scopeOf f.flags) = true := decide_eq_true scope
  have free : ackDuty .withdraw (scopeOf f.flags) = false := beq_eq_false_iff_ne.2 wide
  rw [exec_withdraw run, takeWithdraw, handOver_without_ack allowed free, ownWithdraw_eq]
  rfl

/-- A new WITHDRAW for this cab is acknowledged and joins the dedupe list. -/
theorem exec_withdraw_new {f : DownFrame} {s : State} (run : s.phase = .running)
    (cab : scopeOf f.flags = 0) (new : dedupeFind f.seq s = none) : exec (.withdraw f) s =
      .next (placeHeld (tripTest (freeBuffer 0x12 f (dedupeAdd f.seq .taken
        (offerAck 0x12 f.seq .taken (offerGone .withdrawn cancelJob f.body s)))))) := by
  rw [exec_withdraw run, takeWithdraw, handOver_new (by rw [cab]; rfl) (by rw [cab]; rfl) new,
    ownWithdraw_eq]
  rfl

/-- The reason an OPEN entry closes for, by the class of the frame (R117, R118). -/
def goneReason (c : DownClass) : ClosingReason := if c = .reject then .taken else .withdrawn

/-- What the frame does to an awarded job, by its class (R117, R118). -/
def goneJob (c : DownClass) : Nat → Offer → State → State :=
  if c = .reject then fun _ _ t => t else cancelJob

theorem offerGone_reject (body : List Byte) (s : State) :
    offerGone (goneReason .reject) (goneJob .reject) body s =
      offerGone .taken (fun _ _ t => t) body s := by
  rw [goneReason, goneJob, if_pos rfl, if_pos rfl]

theorem offerGone_withdraw (body : List Byte) (s : State) :
    offerGone (goneReason .withdraw) (goneJob .withdraw) body s =
      offerGone .withdrawn cancelJob body s := by
  rw [goneReason, goneJob, if_neg (by decide), if_neg (by decide)]

/-- Settles O39: the hand-over by class and scope, the owner by the entry the id finds; a bid by where its BID stands. -/
theorem rejectAndWithdrawFramesCloseTheOffer :
    Obligations.RejectAndWithdrawFramesCloseTheOffer := by
  intro f s run c scope
  refine ⟨offerGone (goneReason c) (goneJob c) f.body s, ?_, ?_, ?_, offerGone_malformed,
    fun id good unknown => offerGone_unknown good unknown, fun id i o good found =>
    ⟨offerGone_closing good found, ?_, ?_, offerGone_open good found, fun sent gone clear => ?_,
      fun q sent hq clear ground => ?_, fun q sent hq marked => ?_⟩⟩
  · rintro rfl
    rw [offerGone_reject]
    exact exec_reject_scoped run (scope.elim And.right fun other => nomatch other.1)
  · rintro rfl wide
    rw [offerGone_withdraw]
    exact exec_withdraw_wide run (scope.elim (fun other => nomatch other.1) And.right) wide
  · rintro rfl cab new
    rw [offerGone_withdraw]
    exact exec_withdraw_new run cab new
  · rintro awarded rfl
    rw [offerGone_reject, offerGone_awarded good found awarded]
  · rintro awarded rfl
    rw [offerGone_withdraw, offerGone_awarded good found awarded]
    rfl
  · rw [offerGone_bid good found sent, bidTaken_now (answer_now_without_bid gone clear),
      withdrawBid_none gone]
  · rw [offerGone_bid good found sent, bidTaken_now (answer_now hq clear ground),
      withdrawBid_some hq]
  · rw [offerGone_bid good found sent, bidTaken_later (answer_later hq marked),
      deferAnswer_marks hq]
    rfl

end Sys2Proof.Machine

namespace Sys2Proof.Machine

/-! ### The write of the black box (R152, R168) -/

theorem requestBoxWrite_in_reset {s : State} (h : s.phase ≠ .running) :
    requestBoxWrite s = s.setEmerg { s.emerg with boxMark := .pending } := if_neg h

section

variable {s : State} (run : s.phase = .running)

include run

theorem requestBoxWrite_again
    (h : s.agent.initial ≠ .done ∨ taskListed .blackBox s = true) :
    requestBoxWrite s = s.setEmerg { s.emerg with boxMark := .rewrite } :=
  (if_pos run).trans (if_pos h)

variable (done : s.agent.initial = .done) (unlisted : taskListed .blackBox s = false)

include done unlisted

theorem requestBoxWrite_first :
    requestBoxWrite s = requestTask .blackBox (s.setEmerg { s.emerg with boxMark := .pending }) := by
  refine (if_pos run).trans (if_neg ?_)
  rintro (early | listed)
  · exact early done
  · rw [unlisted] at listed
    cases listed

theorem requestBoxWrite_begins : requestBoxWrite s =
    beginTask ((s.setEmerg { s.emerg with boxMark := .pending }).setAgent { s.agent with
      tasks := s.agent.tasks ++ [{ kind := .blackBox, words := none, bytes := [], number := 0 }] }) := by
  rw [requestBoxWrite_first run done unlisted]
  exact requestTask_unlisted unlisted

end

/-- A task whose words are taken stays at the head of the list. -/
theorem beginTask_busy {s : State} (h : s.agent.tasks.head?.map (fun t => t.words.isSome) = some true) :
    beginTask s = s := by
  obtain ⟨t, head, begun⟩ := Option.map_eq_some_iff.1 h
  obtain ⟨ts, tasks⟩ := List.head?_eq_some_iff.1 head
  exact beginTask_begun tasks (Option.isSome_iff_ne_none.1 begun)

/-! ### What a raise does before it is reported (R140, R141, R151) -/

/-- From s to t the emergency controller and the agent alone may change. -/
def CallSide (s t : State) : Prop := ∃ e a, t = (s.setEmerg e).setAgent a

theorem CallSide.setEmerg {s t : State} (h : CallSide s t) (e : Emergency) :
    CallSide s (t.setEmerg e) := by
  obtain ⟨-, a, rfl⟩ := h
  exact ⟨e, a, rfl⟩

theorem requestBoxWrite_callSide {s t : State} (h : CallSide s t) :
    CallSide s (requestBoxWrite t) := by
  have task (e : Emergency) : CallSide s (requestTask .blackBox (t.setEmerg e)) := by
    obtain ⟨-, -, rfl⟩ := h
    obtain ⟨a, began⟩ := requestTask_sets .blackBox
      (((s.setEmerg _).setAgent _).setEmerg e)
    exact ⟨e, a, began⟩
  unfold requestBoxWrite
  split
  · split
    · exact h.setEmerg _
    · exact task _
  · exact h.setEmerg _

theorem captureBox_captured {s : State} (h : s.emerg.box ≠ none) (src : RaiseSource) :
    captureBox src s = s := by
  obtain ⟨b, captured⟩ := Option.ne_none_iff_exists'.1 h
  rw [captureBox, captured]

theorem captureBox_empty {s : State} (h : s.emerg.box = none) (src : RaiseSource) :
    captureBox src s =
      requestBoxWrite (s.setEmerg { s.emerg with box := some (captureNow src s) }) := by
  rw [captureBox, h]

theorem captureBox_callSide (src : RaiseSource) {s t : State} (h : CallSide s t) :
    CallSide s (captureBox src t) := by
  unfold captureBox
  split
  · exact h
  · exact requestBoxWrite_callSide (h.setEmerg _)

/-- The call as a raise in QUIET starts it (R140, steps 1 and 2). -/
def callStarted (src : RaiseSource) (s : State) : State :=
  (captureBox src s).setEmerg { (captureBox src s).emerg with
    state := .calling, round := 1, attempt := 1, trackCount := 0, keyedCount := 0, lastSent := 0,
    graceTimer := timerOf s.settings.accepted.grace, owed := none }

/-- The round as a raise in EXHAUSTED starts it (R141). -/
def roundStarted (s : State) : State :=
  s.setEmerg { s.emerg with
    state := .calling, round := min (s.emerg.round + 1) 255, attempt := 1, owed := none,
    graceTimer := timerOf s.settings.accepted.grace }

/-- The state in which a raise taken in QUIET or in EXHAUSTED is told to the other blocks. -/
def callEntered (src : RaiseSource) (s : State) : State :=
  if s.emerg.state = .quiet then callStarted src s else roundStarted s

theorem callEntered_callSide (src : RaiseSource) {s t : State} (h : CallSide s t) :
    CallSide s (callEntered src t) := by
  unfold callEntered
  split
  · exact (captureBox_callSide src h).setEmerg _
  · exact h.setEmerg _

section

variable {s : State} (src : RaiseSource) (tag : Half)

theorem raise_taken (h : s.emerg.state = .quiet ∨ s.emerg.state = .exhausted) :
    raise src tag s = raiseTaken src tag (callEntered src s) := by
  rw [callEntered, raise]
  rcases h with h | h
  · rw [h, if_pos rfl]
    rfl
  · rw [h, if_neg (by decide)]
    rfl

theorem raise_ignored
    (h : s.emerg.state = .calling ∨ s.emerg.state = .cooldown ∨ s.emerg.state = .tracking) :
    raise src tag s = s.setEmerg { s.emerg with ignored := min (s.emerg.ignored + 1) 65535 } := by
  rw [raise]
  rcases h with h | h | h <;> rw [h] <;> rfl

end

/-! ### What a taken raise tells the other blocks (R30, R140, R154, R172) -/

section

variable {s : State} (src : RaiseSource) (tag : Half)

/-- The factor EMERGENCY is set and an open trip marked. -/
def raiseNoted (s : State) : State := markTripEmergency (raiseFactor .emergency s)

theorem raiseNoted_running {t : State} (h : CallSide s t) (run : s.phase = .running) :
    raiseNoted t = (t.setAttn { s.attn with factors := s.attn.factors ||| 0x100#9 }).setTrip
      { s.trip with openTrip := s.trip.openTrip.map (fun r => { r with emergency := true }) } := by
  obtain ⟨e, a, rfl⟩ := h
  exact congrArg markTripEmergency (if_pos run)

theorem raiseNoted_in_reset {t : State} (h : CallSide s t) (reset : s.phase ≠ .running) :
    raiseNoted t = t.setTrip
      { s.trip with openTrip := s.trip.openTrip.map (fun r => { r with emergency := true }) } := by
  obtain ⟨e, a, rfl⟩ := h
  exact congrArg markTripEmergency (if_neg reset)

/-- The call is offered: the OPEN offers closed, a failed radio overridden, an ALARM offered. -/
def callOffered (s : State) : State :=
  offerAlarm .call (overrideRadio (closeOpen .suppressed (raiseNoted s)))

/-- The repeat timer starts and the call is reported. -/
def callReported (cause : EmCause) (s : State) : State :=
  tripTest (setEmReport cause tag (s.setEmerg { s.emerg with
    repeatTimer := some s.settings.accepted.repeatInterval }))

theorem raiseTaken_running (run : s.phase = .running) : raiseTaken src tag s =
    placeRaised s (callReported tag (raiseCause src) (callOffered s)) := if_pos run

theorem raiseTaken_in_reset (reset : s.phase ≠ .running) :
    raiseTaken src tag s = setEmReport (raiseCause src) tag (raiseNoted s) := if_neg reset

end

theorem anyOpen_iff (s : State) :
    anyOpen s = true ↔ ∃ o, some o ∈ s.offers.entries ∧ o.state = .open := by
  rw [anyOpen, List.any_eq_true]
  constructor
  · rintro ⟨e, he, opened⟩
    cases e with
    | none => cases opened
    | some o => exact ⟨o, he, beq_iff_eq.1 opened⟩
  · rintro ⟨o, ho, opened⟩
    exact ⟨some o, ho, beq_iff_eq.2 opened⟩

/-- An OPEN offer that the raise closed keeps the reports waiting (R124; log entry 2). -/
theorem placeRaised_waits {s : State} (h : ∃ o, some o ∈ s.offers.entries ∧ o.state = .open)
    (t : State) : placeRaised s t = t := if_pos ((anyOpen_iff s).2 h)

theorem placeRaised_places {s : State} (h : ∀ o, some o ∈ s.offers.entries → o.state ≠ .open)
    (t : State) : placeRaised s t = placeHeld t :=
  if_neg fun opened => by
    obtain ⟨o, ho, k⟩ := (anyOpen_iff s).1 opened
    exact h o ho k

/-! ### The rows of a raise (R139, R140, R154) -/

theorem exec_alarmRaise {s : State} (run : s.phase = .running) (tag : Half) :
    exec (.alarmRaise tag) s = .next (raise .request tag s) :=
  congrArg Host.Outcome.next (whenRunning_running run)

theorem exec_holdTimerEnd {s : State} (live : s.phase ≠ .fullReset)
    (runs : s.emerg.holdTimer.isSome = true) (low : s.pins.esw = false) :
    exec .holdTimerEnd s =
      .next (raise .switch 0 (s.setEmerg { s.emerg with holdTimer := none, armed := false })) :=
  congrArg Host.Outcome.next ((if_pos ⟨runs, low⟩).trans (if_neg live))

theorem exec_holdTimerEnd_idle {s : State}
    (h : s.emerg.holdTimer = none ∨ s.pins.esw = true ∨ s.phase = .fullReset) :
    exec .holdTimerEnd s = .next s := by
  refine congrArg Host.Outcome.next ?_
  split
  · rename_i due
    rcases h with stopped | high | reset
    · rw [stopped] at due
      cases due.1
    · rw [high] at due
      cases due.2
    · exact if_pos reset
  · rfl

/-- Settles O43: the row gives the raise its source, the call's state decides whether it is taken, the phase and the OPEN offers what follows. -/
theorem raisesStartACallOrAreCounted : Obligations.RaisesStartACallOrAreCounted := by
  refine ⟨fun c src tag cause s z row => ?_, fun s => exec_holdTimerEnd_idle, fun u =>
    ⟨requestBoxWrite_in_reset, fun run again => requestBoxWrite_again run again,
      fun run done unlisted => ⟨_, rfl, requestBoxWrite_begins run done unlisted,
        fun nonempty begun => beginTask_busy ?_⟩⟩⟩
  · obtain ⟨e, rfl, state, round, box, raised, rfl⟩ : ∃ e, z = s.setEmerg e ∧
        e.state = s.emerg.state ∧ e.round = s.emerg.round ∧ e.box = s.emerg.box ∧
        exec c s = .next (raise src tag z) ∧ cause = raiseCause src := by
      rcases row with ⟨rfl, run, rfl, rfl, rfl⟩ | ⟨rfl, live, runs, low, rfl, rfl, rfl, rfl⟩
      · exact ⟨_, rfl, rfl, rfl, rfl, exec_alarmRaise run tag, rfl⟩
      · exact ⟨_, rfl, rfl, rfl, rfl, exec_holdTimerEnd live runs low, rfl⟩
    refine ⟨fun busy => ?_, fun idle => ?_⟩
    · rw [raised, raise_ignored src tag (state ▸ busy)]
    · have side : CallSide s (callEntered src (s.setEmerg e)) :=
        callEntered_callSide src ⟨e, s.agent, rfl⟩
      obtain ⟨y, hy⟩ : ∃ y, y = callEntered src (s.setEmerg e) := ⟨_, rfl⟩
      rw [raised, raise_taken src tag (state ▸ idle), ← hy]
      rw [← hy] at side
      have phase : y.phase = s.phase := by
        obtain ⟨-, -, rfl⟩ := side
        rfl
      have offers : y.offers = s.offers := by
        obtain ⟨-, -, rfl⟩ := side
        rfl
      refine ⟨captureBox src (s.setEmerg e), y, raiseNoted y,
        timerOf s.settings.accepted.grace, rfl,
        fun captured => captureBox_captured (box ▸ captured) src,
        fun empty => captureBox_empty (box.trans empty) src, fun quiet => ?_, fun exhausted => ?_,
        fun run => ⟨raiseNoted_running side run, callOffered y, rfl, _, rfl,
          fun opened => ?_, fun shut => ?_⟩,
        fun reset => ⟨raiseNoted_in_reset side reset, ?_⟩⟩
      · exact hy.trans (if_pos (state.trans quiet))
      · rw [hy, callEntered, if_neg (by rw [State.setEmerg_emerg, state, exhausted]; decide),
          roundStarted, State.setEmerg_emerg, round]
        rfl
      · rw [raiseTaken_running src tag (phase.trans run),
          placeRaised_waits (by rw [offers]; exact opened)]
        rfl
      · rw [raiseTaken_running src tag (phase.trans run),
          placeRaised_places (by rw [offers]; exact shut)]
        rfl
      · rw [raiseTaken_in_reset src tag (phase ▸ reset)]
  · exact (congrArg (Option.map _) (List.head?_append_of_ne_nil _ nonempty)).trans begun

end Sys2Proof.Machine

namespace Sys2Proof.Machine

/-! ### SEND_TEXT (R127, R128, R171) -/

/-- An entry that may displace nothing leaves the state as it is where it is not admitted (R79, R82). -/
theorem offerEntry_not_admitted {cls : UpClass} {body : List Byte} {tr ca : Bool} {ref : OwnerRef}
    {s u : State} {r : Admission} (h : offerEntry cls body tr ca ref s = (u, r))
    (notAlarm : cls ≠ .alarm) (notBid : cls ≠ .bid) (refused : r.ok = false) : u = s := by
  rcases offerEntry_cases cls body tr ca ref s with ⟨v, -, -, -, -, same, inserted⟩ | ⟨same, -⟩
  · obtain ⟨-, -, -, -, -, unmoved⟩ := insertNew_books cls body tr ca ref s
    rw [same notAlarm notBid] at inserted
    rw [← inserted, h] at unmoved
    exact unmoved refused
  · rw [h] at same
    exact same

theorem exec_sendText {s : State} (run : s.phase = .running) (tag : Half) (canned : Byte)
    (text : List Byte) :
    exec (.sendText tag canned text) s = .next (reqSendText tag canned text s) :=
  congrArg Host.Outcome.next (whenRunning_running run)

section

variable {canned : Byte} {text : List Byte} (tag : Half) (s : State)

theorem reqSendText_long (long : 120 < text.length) :
    reqSendText tag canned text s = produce tag (.refused 0x04 .malformed) s := if_pos long

theorem reqSendText_nothing : reqSendText tag 0 [] s = produce tag (.refused 0x04 .malformed) s :=
  rfl

variable (short : text.length ≤ 120)

include short

theorem reqSendText_outOfRange (beyond : 63 < canned.toNat) :
    reqSendText tag canned text s = produce tag (.refused 0x04 .outOfRange) s :=
  (if_neg (Nat.not_lt.2 short)).trans (if_pos beyond)

variable (within : canned.toNat ≤ 63) (given : canned ≠ 0 ∨ text ≠ [])

include within given

variable {s}

theorem reqSendText_poolFull (full : firstFree 0 s.pool.slots = none) :
    reqSendText tag canned text s = produce tag (.refused 0x04 .poolFull) s := by
  rw [reqSendText, if_neg (Nat.not_lt.2 short), if_neg (Nat.not_lt.2 within),
    if_neg (not_and_or.2 given), full]
  rfl

theorem reqSendText_offers {i : Nat} (place : firstFree 0 s.pool.slots = some i) :
    reqSendText tag canned text s = offerText i tag canned (text.map char7) s := by
  rw [reqSendText, if_neg (Nat.not_lt.2 short), if_neg (Nat.not_lt.2 within),
    if_neg (not_and_or.2 given), place]

end

section

variable {i : Nat} {canned : Byte} {text : List Byte} {s u : State} (tag : Half)

/-- The slot holds the reference of the entry admitted with number q (R127, case 3). -/
theorem offerText_admitted {q : Nat}
    (h : offerEntry .text (textFrameBody canned text) false false (.slot i) s = (u, .admitted q)) :
    offerText i tag canned text s = u.setPool { u.pool with
      slots := u.pool.slots.set i
        (some { tag := tag, ref := some q, held := none, attempts := none }) } := by
  rw [offerText, h]
  rfl

theorem offerText_linkDown
    (h : offerEntry .text (textFrameBody canned text) false false (.slot i) s = (u, .linkDown)) :
    offerText i tag canned text s = produce tag (.refused 0x04 .linkDown) u := by
  rw [offerText, h]
  rfl

theorem offerText_full
    (h : offerEntry .text (textFrameBody canned text) false false (.slot i) s = (u, .full)) :
    offerText i tag canned text s = produce tag (.refused 0x04 .queueFull) u := by
  rw [offerText, h]
  rfl

end

/-- Without a first free place every place is taken (R109, R127). -/
theorem firstFree_none {α : Type} {l : List (Option α)} {k : Nat} (h : firstFree k l = none) :
    ∀ x ∈ l, x ≠ none := by
  induction l generalizing k with
  | nil => exact fun x hx => absurd hx List.not_mem_nil
  | cons e l ih =>
    cases e with
    | none => cases h
    | some a => exact List.forall_mem_cons.2 ⟨nofun, ih h⟩

/-- Settles O40: the refusals of R171 and R127 in order, then the offer for the first free slot by the answer of the queue. -/
theorem sendTextTakesASlotOrIsRefused : Obligations.SendTextTakesASlotOrIsRefused := by
  intro tag canned text s run
  rw [exec_sendText run]
  refine ⟨fun long => by rw [reqSendText_long tag s long],
    fun short beyond => by rw [reqSendText_outOfRange tag s short beyond], ?_,
    fun short within given => ⟨fun full => ?_, fun i place => ?_⟩,
    fun i place => (firstFree_first place).2, firstFree_none⟩
  · rintro rfl rfl
    rw [reqSendText_nothing]
  · rw [reqSendText_poolFull tag short within given full]
  · rw [reqSendText_offers tag short within given place]
    have body : textFrameBody canned (text.map char7) =
        [canned] ++ bytesLE 1 text.length ++ text.map (fun b => b &&& 0x7F) := by
      rw [textFrameBody, List.length_map]
      rfl
    refine ⟨_, body, fun u q taken => ?_, fun u down => ?_, fun u full => ?_⟩
    · rw [offerText_admitted tag taken]
    · obtain rfl := offerEntry_not_admitted down (by decide) (by decide) rfl
      exact ⟨by rw [offerText_linkDown tag down], rfl⟩
    · obtain rfl := offerEntry_not_admitted full (by decide) (by decide) rfl
      exact ⟨by rw [offerText_full tag full], rfl⟩

end Sys2Proof.Machine

namespace Sys2Proof.Machine

/-! ### The switch and its edges (R139, R154) -/

theorem exec_eswFall_low {s : State} (low : s.pins.esw = false) : exec .eswFall s = .next s :=
  congrArg Host.Outcome.next (if_neg (Bool.eq_false_iff.1 low))

theorem exec_eswRise_high {s : State} (high : s.pins.esw = true) : exec .eswRise s = .next s :=
  congrArg Host.Outcome.next (if_pos high)

/-- Outside a full reset a fall of ESW is timed (R139). -/
theorem exec_eswFall_high {s : State} (high : s.pins.esw = true) (live : s.phase ≠ .fullReset) :
    exec .eswFall s = .next (eswFall (setEsw false s)) :=
  congrArg Host.Outcome.next ((if_pos high).trans (if_neg live))

/-- A full reset sees the level alone (log entry 3). -/
theorem exec_eswFall_fullReset {s : State} (high : s.pins.esw = true)
    (reset : s.phase = .fullReset) : exec .eswFall s = .next (setEsw false s) :=
  congrArg Host.Outcome.next ((if_pos high).trans (if_pos reset))

theorem exec_eswRise_low {s : State} (low : s.pins.esw = false) (live : s.phase ≠ .fullReset) :
    exec .eswRise s = .next (eswRise (setEsw true s)) :=
  congrArg Host.Outcome.next ((if_neg (Bool.eq_false_iff.1 low)).trans (if_neg live))

theorem exec_eswRise_fullReset {s : State} (low : s.pins.esw = false)
    (reset : s.phase = .fullReset) : exec .eswRise s = .next (setEsw true s) :=
  congrArg Host.Outcome.next ((if_neg (Bool.eq_false_iff.1 low)).trans (if_pos reset))

theorem eswFall_armed {s : State} (h : s.emerg.armed = true) : eswFall s =
    s.setEmerg { s.emerg with holdTimer := some s.settings.accepted.holdTime } := if_pos h

theorem eswFall_disarmed {s : State} (h : s.emerg.armed = false) : eswFall s = s :=
  if_neg (Bool.eq_false_iff.1 h)

/-! ### The end of an ALERT pulse (R134) -/

theorem exec_alertPulseEnd_low {s : State} (h : s.attn.alertEnd = none) :
    exec .alertPulseEnd s = .next s := by
  refine congrArg Host.Outcome.next ?_
  rw [h]

theorem exec_alertPulseEnd_high {s : State} {e : Nat} (h : s.attn.alertEnd = some e) :
    exec .alertPulseEnd s = .next (if e < 32768 * (s.secs + 1)
      then s.setAttn { s.attn with alertEnd := none } else s) := by
  refine congrArg Host.Outcome.next ?_
  rw [h]
  rfl

/-- Settles O42: an edge by the level and the phase, the grace timer's end by the tick at hand, the pulse's end by the second at hand. -/
theorem theSwitchIsTimedAndArmed : Obligations.TheSwitchIsTimedAndArmed := by
  refine fun s => ⟨fun high live => ⟨fun armed => ?_, fun disarmed => ?_⟩, fun low live => ?_,
    fun reset high => ?_, fun reset low => ?_, exec_eswFall_low, exec_eswRise_high, ?_,
    fun e pulse => ⟨fun reached => ?_, fun later => ?_⟩, exec_alertPulseEnd_low⟩
  · rw [exec_eswFall_high high live, eswFall_armed (s := setEsw false s) armed]
    rfl
  · rw [exec_eswFall_high high live, eswFall_disarmed (s := setEsw false s) disarmed]
    rfl
  · rw [exec_eswRise_low low live]
    rfl
  · rw [exec_eswFall_fullReset high reset]
    rfl
  · rw [exec_eswRise_fullReset low reset]
    rfl
  · rintro u rfl
    refine ⟨fun due => ?_, fun early idle => ?_, fun early raised => ?_⟩
    · rw [exec_graceTimerEnd, atTickOr_due due, graceEnd]
    · rw [exec_graceTimerEnd, atTickOr_early early idle]
    · rw [exec_graceTimerEnd, atTickOr_taken early raised]
  · rw [exec_alertPulseEnd_high pulse, if_pos reached]
  · rw [exec_alertPulseEnd_high pulse, if_neg (Nat.not_lt.2 later)]

end Sys2Proof.Machine

namespace Sys2Proof.Machine

/-! ### ALARM_CANCEL (R148) -/

theorem exec_alarmCancel {s : State} (run : s.phase = .running) (tag : Half) :
    exec (.alarmCancel tag) s = .next (reqCancel tag s) :=
  congrArg Host.Outcome.next (whenRunning_running run)

theorem reqCancel_wrongState {s : State} (h : s.emerg.state = .quiet) (tag : Half) :
    reqCancel tag s = produce tag (.refused 0x0D .wrongState) s := by
  rw [reqCancel, h]
  rfl

/-- A call that waits for dispatch is cancelled by its grace alone. -/
theorem reqCancel_waiting {s : State} (h : s.emerg.state = .calling ∨ s.emerg.state = .cooldown)
    (tag : Half) : reqCancel tag s = if s.emerg.graceTimer.isSome then placeHeld (cancelCall tag s)
      else produce tag (.refused 0x0D .graceOver) s := by
  rcases h with h | h <;> rw [reqCancel, h] <;> rfl

/-- A call that dispatch has, or that has ended its rounds, is past its cancelling, whatever the grace timer. -/
theorem reqCancel_settled {s : State}
    (h : s.emerg.state = .tracking ∨ s.emerg.state = .exhausted) (tag : Half) :
    reqCancel tag s = produce tag (.refused 0x0D .graceOver) s := by
  rcases h with h | h <;> rw [reqCancel, h] <;> rfl

theorem reqCancel_taken {s : State} (h : s.emerg.state = .calling ∨ s.emerg.state = .cooldown)
    (grace : s.emerg.graceTimer ≠ none) (tag : Half) :
    reqCancel tag s = placeHeld (cancelCall tag s) :=
  (reqCancel_waiting h tag).trans (if_pos (Option.isSome_iff_ne_none.2 grace))

theorem reqCancel_ungraced {s : State} (call : s.emerg.state ≠ .quiet)
    (ended : s.emerg.graceTimer = none) (tag : Half) :
    reqCancel tag s = produce tag (.refused 0x0D .graceOver) s := by
  have waiting (h : s.emerg.state = .calling ∨ s.emerg.state = .cooldown) :
      reqCancel tag s = produce tag (.refused 0x0D .graceOver) s := by
    rw [reqCancel_waiting h, ended]
    rfl
  cases st : s.emerg.state with
  | quiet => exact absurd st call
  | calling => exact waiting (Or.inl st)
  | cooldown => exact waiting (Or.inr st)
  | tracking => exact reqCancel_settled (Or.inl st) tag
  | exhausted => exact reqCancel_settled (Or.inr st) tag

/-! ### BLACKBOX_CLEAR (R153) -/

theorem exec_blackboxClear {s : State} (run : s.phase = .running) (tag : Half) :
    exec (.blackboxClear tag) s = .next (reqBoxClear tag s) :=
  congrArg Host.Outcome.next (whenRunning_running run)

theorem reqBoxClear_wrongState {s : State} (h : s.emerg.state ≠ .quiet) (tag : Half) :
    reqBoxClear tag s = produce tag (.refused 0x0E .wrongState) s := if_neg h

theorem reqBoxClear_taken {s : State} (h : s.emerg.state = .quiet) (tag : Half) :
    reqBoxClear tag s = placeHeld (clearBox tag s) := if_pos h

/-- The first change of the copy lists its write and marks it pending (R152). -/
theorem requestBoxWrite_pending {s : State} (run : s.phase = .running)
    (done : s.agent.initial = .done) (unlisted : taskListed .blackBox s = false) :
    taskListed .blackBox (requestBoxWrite s) = true ∧
      (requestBoxWrite s).emerg = { s.emerg with boxMark := .pending } := by
  rw [requestBoxWrite_first run done unlisted]
  obtain ⟨a, begun⟩ := requestTask_sets .blackBox
    (s.setEmerg { s.emerg with boxMark := .pending })
  exact ⟨taskListed_requestTask rfl _, congrArg State.emerg begun⟩

/-- Settles O45: a cancel by the call's state and its grace, a clear by QUIET, the write of the box by the tasks already listed. -/
theorem cancelAndBlackboxClearOrRefusal : Obligations.CancelAndBlackboxClearOrRefusal := by
  refine fun tag s run => ⟨fun quiet => ?_, fun late => ?_, fun waiting grace => ⟨_, rfl, ?_⟩,
    fun call => ?_, fun quiet => ?_, requestBoxWrite_pending run, requestBoxWrite_again run⟩
  · rw [exec_alarmCancel run, reqCancel_wrongState quiet]
  · rw [exec_alarmCancel run]
    rcases late with tracking | exhausted | ⟨call, ended⟩
    · rw [reqCancel_settled (Or.inl tracking)]
    · rw [reqCancel_settled (Or.inr exhausted)]
    · rw [reqCancel_ungraced call ended]
  · rw [exec_alarmCancel run, reqCancel_taken waiting grace, cancelCall]
  · rw [exec_blackboxClear run, reqBoxClear_wrongState call]
  · rw [exec_blackboxClear run, reqBoxClear_taken quiet, clearBox]

end Sys2Proof.Machine

namespace Sys2Proof.Machine

/-! ### What a timer of the call does at its end (R143, R144, R146) -/

theorem repeatEnd_attempt {s : State} (h : s.emerg.attempt < 8) : repeatEnd s = nextAttempt s :=
  if_pos h

theorem repeatEnd_round {s : State} (h : 8 ≤ s.emerg.attempt) : repeatEnd s = roundEnd s :=
  if_neg (Nat.not_lt.2 h)

theorem roundEnd_exhausted {s : State} (limited : s.settings.accepted.roundsLimit ≠ 0)
    (reached : s.settings.accepted.roundsLimit ≤ s.emerg.round) :
    roundEnd s = setEmReport .roundEnd 0 (s.setEmerg
      { s.emerg with state := .exhausted, repeatTimer := none }) := if_pos ⟨limited, reached⟩

section

variable {s : State} (more : s.settings.accepted.roundsLimit = 0 ∨
  s.emerg.round < s.settings.accepted.roundsLimit)

include more

theorem roundEnd_goes_on : roundEnd s = if 0 < s.settings.accepted.cooldown
    then setEmReport .roundEnd 0 (s.setEmerg { s.emerg with
      state := .cooldown, repeatTimer := none, cooldownTimer := some s.settings.accepted.cooldown })
    else nextRound s := by
  refine if_neg ?_
  rintro ⟨limited, reached⟩
  exact more.elim limited (Nat.not_lt.2 reached)

theorem roundEnd_cooldown (pause : 0 < s.settings.accepted.cooldown) :
    roundEnd s = setEmReport .roundEnd 0 (s.setEmerg { s.emerg with
      state := .cooldown, repeatTimer := none,
      cooldownTimer := some s.settings.accepted.cooldown }) :=
  (roundEnd_goes_on more).trans (if_pos pause)

theorem roundEnd_nextRound (pauseless : s.settings.accepted.cooldown = 0) :
    roundEnd s = nextRound s :=
  (roundEnd_goes_on more).trans (if_neg (Nat.not_lt.2 pauseless.le))

end

/-! ### The rows of the call's timers with no end at the tick at hand (log entries 3, 4) -/

section

variable {s : State} (run : s.phase = .running)

include run

theorem exec_repeatTimerEnd_early
    (h : s.emerg.state ≠ .calling ∨ (openTick s).emerg.repeatTimer ≠ some 0)
    (idle : justAnswered s = false) : exec .repeatTimerEnd s = .next s := by
  obtain ⟨-, -, state, -⟩ := openTick_states s
  rw [exec_repeatTimerEnd run, atTickOr_early ?_ idle]
  rw [Ne, repeatLeft_iff, state]
  exact not_and_or.2 h

theorem exec_cooldownEnd_early
    (h : s.emerg.state ≠ .cooldown ∨ (openTick s).emerg.cooldownTimer ≠ some 0)
    (idle : justAnswered s = false) : exec .cooldownEnd s = .next s := by
  obtain ⟨-, -, state, -⟩ := openTick_states s
  rw [exec_cooldownEnd run, atTickOr_early ?_ idle]
  rw [Ne, cooldownLeft_iff, state]
  exact not_and_or.2 h

theorem exec_trackingTimerEnd_early
    (h : s.emerg.state ≠ .tracking ∨ (openTick s).emerg.trackTimer ≠ some 0) :
    exec .trackingTimerEnd s = .next s := by
  obtain ⟨-, -, state, -⟩ := openTick_states s
  rw [exec_trackingTimerEnd run, atTick_early]
  rw [Ne, trackLeft_iff, state]
  exact not_and_or.2 h

end

/-- Settles O46: the end of each timer by what the tick at hand leaves of it, the end of a round by its limit and the cooldown. -/
theorem emergencyTimersPaceTheCall : Obligations.EmergencyTimersPaceTheCall := by
  intro s u hu run
  obtain ⟨-, -, -, -, -, -, -, repeats, cools, tracks, -⟩ := endRows_due hu run
  obtain ⟨-, -, -, -, -, answered, -⟩ := endRows_taken hu
  refine ⟨fun calling due => ⟨fun more => ⟨_, rfl, ?_⟩, fun last =>
      ⟨fun limited reached => ?_, fun again => ⟨fun pause => ?_, fun pauseless => ?_⟩⟩⟩,
    fun cooldown due => cools due cooldown, ⟨_, rfl, rfl⟩,
    fun tracking due => ⟨_, rfl, tracks due tracking⟩, ?_, ?_, fun k => answered k run, ?_⟩
  · rw [repeats due calling, repeatEnd_attempt more, nextAttempt]
  · rw [repeats due calling, repeatEnd_round last, roundEnd_exhausted limited reached]
  · rw [repeats due calling, repeatEnd_round last, roundEnd_cooldown again pause]
  · rw [repeats due calling, repeatEnd_round last, roundEnd_nextRound again pauseless]
  · exact hu ▸ exec_repeatTimerEnd_early run
  · exact hu ▸ exec_cooldownEnd_early run
  · exact hu ▸ exec_trackingTimerEnd_early run

end Sys2Proof.Machine

namespace Sys2Proof.Machine

/-- Settles O2: every command answers a state that has kept the queue. -/
theorem everyCommandCompletesAndKeepsTheQueue :
    Obligations.EveryCommandCompletesAndKeepsTheQueue :=
  fun c s => (exec_keeps c s).imp fun _ kept => kept.pending

/-! ### The zone map and the area (R158, R159, Table 36)

Of the branches of the map, each lemma's range leaves those of its own treatment. -/

theorem offsetIn_inside {b : Nat} {a : Access} (low : b ≤ a.addr.toNat)
    (high : a.addr.toNat < b + 65536) : offsetIn b a = some (a.addr.toNat / 4 * 4 - b) :=
  if_pos ⟨low, high⟩

theorem offsetIn_outside {b : Nat} {a : Access}
    (h : a.addr.toNat < b ∨ b + 65536 ≤ a.addr.toNat) : offsetIn b a = none :=
  if_neg (by omega)

section

variable {off : Nat}

theorem treatment_snooped (h : off ≤ 0x0040 ∨ off = 0x004C ∨ 0x0060 ≤ off ∧ off ≤ 0x006C ∨
    off = 0x0074) : treatment off = .snoop := by
  unfold treatment
  split_ifs <;> first | rfl | omega

theorem treatment_guarded (h : off = 0x0044 ∨ off = 0x0048 ∨ 0x0050 ≤ off ∧ off ≤ 0x005C ∨
    0x1000 ≤ off ∧ off < 0x4100) : treatment off = .guard := by
  rcases h with rfl | rfl | counters | images
  · rfl
  · rfl
  · unfold treatment
    rw [if_neg (by omega), if_neg (by omega), if_neg (by omega), if_pos counters.2]
  · unfold treatment
    split_ifs <;> first | rfl | omega

theorem treatment_zone (h : 0x0100 ≤ off ∧ off < 0x0200) : treatment off = .liveZone := by
  unfold treatment
  split_ifs <;> first | rfl | omega

theorem treatment_free (h : 0x0078 ≤ off ∧ off < 0x0100 ∨ 0x0200 ≤ off ∧ off < 0x1000 ∨
    0x4100 ≤ off) : treatment off = .free := by
  unfold treatment
  split_ifs <;> first | rfl | omega

end

/-! ### The port arbiter (R166) -/

theorem processorWaits_none {s : State} (i : s.path.inHand = none) : processorWaits s = false := by
  rw [processorWaits, i]

theorem processorWaits_some {s : State} {h : InHand} (i : s.path.inHand = some h) :
    processorWaits s = (h.stage == .waiting) := by
  rw [processorWaits, i]

/-- An access that is held or on the port does not claim it. -/
theorem processorWaits_not_waiting {s : State} {h : InHand} (i : s.path.inHand = some h)
    (k : h.stage ≠ .waiting) : processorWaits s = false :=
  (processorWaits_some i).trans (beq_eq_false_iff_ne.2 k)

theorem processorWaits_waiting {s : State} {h : InHand} (i : s.path.inHand = some h)
    (k : h.stage = .waiting) : processorWaits s = true :=
  (processorWaits_some i).trans (beq_iff_eq.2 k)

theorem grantProcessor_eq {s : State} {h : InHand} (i : s.path.inHand = some h) (n : Nat) :
    grantProcessor n s = s.setPath { s.path with
      inHand := some { h with stage := .onPort }, port := .processor, passCount := n } := by
  rw [grantProcessor, setStage, i]
  rfl

section

variable {s : State} (free : s.path.port = .free)

include free

theorem arbitrate_agent (w : processorWaits s = false) (r : agentReady s = true) :
    arbitrate s = s.setPath { s.path with port := .agent, passCount := 0 } := by
  rw [arbitrate, if_pos free, w, r]
  rfl

/-- A processor access that claims the free port alone is not counted. -/
theorem arbitrate_processor {h : InHand} (i : s.path.inHand = some h) (k : h.stage = .waiting)
    (r : agentReady s = false) : arbitrate s = s.setPath { s.path with
      inHand := some { h with stage := .onPort }, port := .processor } := by
  rw [arbitrate, if_pos free, processorWaits_waiting i k, r]
  exact grantProcessor_eq i _

theorem arbitrate_pass {h : InHand} (i : s.path.inHand = some h) (k : h.stage = .waiting)
    (r : agentReady s = true) (below : s.path.passCount < 8) :
    arbitrate s = s.setPath { s.path with
      inHand := some { h with stage := .onPort }, port := .processor,
      passCount := s.path.passCount + 1 } := by
  rw [arbitrate, if_pos free, processorWaits_waiting i k, r]
  exact (if_pos below).trans (grantProcessor_eq i _)

theorem arbitrate_passed {h : InHand} (i : s.path.inHand = some h) (k : h.stage = .waiting)
    (r : agentReady s = true) (full : 8 ≤ s.path.passCount) :
    arbitrate s = s.setPath { s.path with port := .agent, passCount := 0 } := by
  rw [arbitrate, if_pos free, processorWaits_waiting i k, r]
  exact if_neg (Nat.not_lt.2 full)

end

/-- Who is granted the port, by who claims it and by the pass count. -/
theorem arbitrate_grants (s : State) :
    (s.path.port ≠ .free → arbitrate s = s) ∧
    (s.path.port = .free → agentReady s = false → s.path.inHand = none → arbitrate s = s) ∧
    (s.path.port = .free → agentReady s = true → s.path.inHand = none →
      arbitrate s = s.setPath { s.path with port := .agent, passCount := 0 }) ∧
    (∀ h, s.path.port = .free → s.path.inHand = some h → h.stage ≠ .waiting →
      (agentReady s = true →
        arbitrate s = s.setPath { s.path with port := .agent, passCount := 0 }) ∧
      (agentReady s = false → arbitrate s = s)) ∧
    (∀ h, s.path.port = .free → s.path.inHand = some h → h.stage = .waiting →
      (agentReady s = false → arbitrate s = s.setPath { s.path with
        inHand := some { h with stage := .onPort }, port := .processor }) ∧
      (agentReady s = true → s.path.passCount < 8 → arbitrate s = s.setPath { s.path with
        inHand := some { h with stage := .onPort }, port := .processor,
        passCount := s.path.passCount + 1 }) ∧
      (agentReady s = true → 8 ≤ s.path.passCount →
        arbitrate s = s.setPath { s.path with port := .agent, passCount := 0 })) := by
  refine ⟨arbitrate_busy, fun _ r i => arbitrate_quiet (processorWaits_none i) r,
    fun free r i => arbitrate_agent free (processorWaits_none i) r, fun h free i k => ?_,
    fun h free i k => ?_⟩
  · have idle := processorWaits_not_waiting i k
    exact ⟨arbitrate_agent free idle, arbitrate_quiet idle⟩
  · exact ⟨arbitrate_processor free i k, arbitrate_pass free i k, arbitrate_passed free i k⟩

/-! ### PROCESSOR_ACCESS (R158 to R164, R167, R168) -/

theorem exec_processorAccess_second {s : State} (i : s.path.inHand ≠ none) (a : Access) :
    exec (.processorAccess a) s = .next s :=
  congrArg Host.Outcome.next (if_pos (Option.isSome_iff_ne_none.2 i))

section

variable {s t : State} {a : Access} (i : s.path.inHand = none) (c : classify a s = t)

include i c

theorem exec_processorAccess : exec (.processorAccess a) s =
    .next (if processorWaits t then arbitrate t else t) := by
  subst c
  refine congrArg Host.Outcome.next (if_neg ?_)
  rw [i]
  exact Bool.false_ne_true

theorem exec_processorAccess_settled (w : processorWaits t = false) :
    exec (.processorAccess a) s = .next t := by
  rw [exec_processorAccess i c, w]
  rfl

end

section

variable {s : State} {a : Access} (i : s.path.inHand = none)

include i

theorem exec_processorAccess_held (c : classify a s = holdAccess a .held s) :
    exec (.processorAccess a) s =
      .next (s.setPath { s.path with inHand := some { access := a, stage := .held } }) :=
  exec_processorAccess_settled i c rfl

/-- An access that uses the port claims it at once. -/
theorem exec_processorAccess_waiting (c : classify a s = holdAccess a .waiting s) :
    exec (.processorAccess a) s = .next (arbitrate
      (s.setPath { s.path with inHand := some { access := a, stage := .waiting } })) :=
  exec_processorAccess i c

theorem dropAccess_idle : dropAccess s = s := by
  rw [dropAccess, ← i]
  rfl

/-- An access that the path switch completes leaves none in hand, and the port as it was. -/
theorem exec_processorAccess_inside {t : State} (c : classify a s = t)
    (done : t.path.inHand = none) : exec (.processorAccess a) s = .next t :=
  exec_processorAccess_settled i c (processorWaits_none done)

end

/-- An access in the served area that does not use the port, by the zone map (Table 37). -/
theorem processorAccess_inside {s : State} {a : Access} {b off : Nat} (i : s.path.inHand = none)
    (run : s.phase = .running) (base : s.path.base = some b) (area : offsetIn b a = some off)
    (done : s.agent.initial = .done) :
    (treatment off = .attention → a.write = none → exec (.processorAccess a) s =
      .next (s.setPath { s.path with answer := some (s.attn.factors.setWidth 32) })) ∧
    (∀ v, treatment off = .attention → a.write = some v →
      (a.lanes = 0xF → exec (.processorAccess a) s = .next (s.setAttn { s.attn with
        factors := s.attn.factors &&& ~~~(v.setWidth 9 &&& ~~~(conditions s)) })) ∧
      (a.lanes ≠ 0xF → exec (.processorAccess a) s =
        .next (s.setAttn { s.attn with factors := s.attn.factors ||| 0x004 }))) ∧
    (treatment off = .liveZone → a.write = none →
      (off = 0x0100 → exec (.processorAccess a) s = .next (s.setPath { s.path with
        snapshot := snapshotWords s, answer := some ((snapshotWords s).getD 0 0) })) ∧
      (off ≠ 0x0100 → exec (.processorAccess a) s = .next (s.setPath { s.path with
        answer := some (s.path.snapshot.getD ((off - 0x0100) / 4) 0) }))) ∧
    (treatment off = .guard ∨ treatment off = .liveZone → a.write ≠ none →
      exec (.processorAccess a) s = .next ((s.setPath { s.path with
        guardCount := min (s.path.guardCount + 1) 65535 }).setAttn
          { s.attn with factors := s.attn.factors ||| 0x008 })) := by
  obtain ⟨attRead, attWrite, zoneRead, guarded⟩ :=
    treatAccess_inside (a := a) (off := off) run (dropAccess_idle i).symm
  have ends {t : State} (h : treatAccess off a s = t) (k : t.path.inHand = none) :
      exec (.processorAccess a) s = .next t :=
    exec_processorAccess_inside i ((classify_served run base area done).trans h) k
  exact ⟨fun h w => ends (attRead h w) i,
    fun v h w => ⟨fun full => ends ((attWrite v h w).1 full) i,
      fun part => ends ((attWrite v h w).2 part) i⟩,
    fun h w => ⟨fun first => ends ((zoneRead h w).1 first) i,
      fun later => ends ((zoneRead h w).2 later) i⟩,
    fun h w => ends (guarded h w) i⟩

/-! ### PROCESSOR_ACCESS_COMPLETE (R160, R161) -/

/-- The row as its definition has it, on the state with the free port granted. -/
theorem exec_processorAccessComplete_row (s : State) :
    exec .processorAccessComplete s = execProcessorAccessComplete s := rfl

theorem exec_processorAccessComplete_idle {s : State}
    (h : (arbitrate s).path.inHand = none ∨ (arbitrate s).path.port ≠ .processor) :
    exec .processorAccessComplete s = .next s := by
  rcases h with idle | other
  · simp only [exec_processorAccessComplete_row, execProcessorAccessComplete, idle]
  · simp only [exec_processorAccessComplete_row, execProcessorAccessComplete, other, false_and,
      if_false]
    cases (arbitrate s).path.inHand <;> rfl

theorem exec_processorAccessComplete {s : State} {a : Access}
    (i : (arbitrate s).path.inHand = some { access := a, stage := .onPort })
    (port : (arbitrate s).path.port = .processor) :
    exec .processorAccessComplete s = .next (finishAccess a (arbitrate s)) := by
  simp only [exec_processorAccessComplete_row, execProcessorAccessComplete, i, port, and_self,
    if_true]

theorem finishAccess_read {a : Access} (w : a.write = none) (t : State) : finishAccess a t =
    t.setPath { t.path with
      inHand := none, port := .free,
      answer := some (Memory.readWord t.mem (a.addr.toNat / 4 * 4)) } := by
  simp only [finishAccess, accessMemory, snoopAccess, w]
  rfl

/-- The state after a write on the port has reached memory, before an owner takes its value. -/
def writtenAccess (a : Access) (v : Word) (t : State) : State :=
  (t.setMem (Memory.writeLanes t.mem (a.addr.toNat / 4 * 4) a.lanes v)).setPath
    { t.path with inHand := none, port := .free }

theorem finishAccess_write {a : Access} {v : Word} (w : a.write = some v) (t : State) :
    finishAccess a t = snoopAccess a (writtenAccess a v t) := by
  rw [finishAccess, accessMemory, w]
  rfl

/-- The area in force tells whether a write is snooped; memory and the port do not. -/
theorem snoopOffset_writtenAccess (a : Access) (v : Word) (t : State) :
    snoopOffset a (writtenAccess a v t) = snoopOffset a t := rfl

theorem snoopAccess_none {a : Access} {s : State} (h : snoopOffset a s = none) :
    snoopAccess a s = s := by
  unfold snoopAccess
  rw [h]
  cases a.write <;> rfl

theorem snoopAccess_some {a : Access} {s : State} {v : Word} {off : Nat} (w : a.write = some v)
    (h : snoopOffset a s = some off) : snoopAccess a s =
      if a.lanes = 0xF then snoopTake off v s else raiseFactor .format s := by
  rw [snoopAccess, w, h]
  rfl

/-- A write that ends on the port: memory has it, and a snooped full word goes to its owner. -/
theorem finishAccess_written {a : Access} {v : Word} (w : a.write = some v) (t : State) :
    (snoopOffset a t = none → finishAccess a t = writtenAccess a v t) ∧
    (∀ off, snoopOffset a t = some off →
      (a.lanes = 0xF → finishAccess a t = snoopTake off v (writtenAccess a v t)) ∧
      (a.lanes ≠ 0xF → t.phase = .running → finishAccess a t =
        (writtenAccess a v t).setAttn { t.attn with factors := t.attn.factors ||| 0x004 })) := by
  rw [finishAccess_write w, ← snoopOffset_writtenAccess a v t]
  refine ⟨snoopAccess_none, fun off h => ?_⟩
  rw [snoopAccess_some w h]
  exact ⟨fun full => if_pos full,
    fun part run => (if_neg part).trans (raiseFactor_format (s := writtenAccess a v t) run)⟩

/-- A row that writes a full word at a snooped offset does what the end of such an access does. -/
theorem exec_snoopedWordWrite_full {s : State} {b off : Nat} {o : Half} {v : Word}
    (run : s.phase = .running) (base : s.path.base = some b) (done : s.agent.initial = .done)
    (snooped : treatment off = .snoop) (ho : o.toNat = off) (word : 4 ∣ off) :
    exec (.snoopedWordWrite o 0xF v) s =
      .next (snoopTake off v (s.setMem (Memory.writeLanes s.mem (b + off) 0xF v))) := by
  have whole : wordOffset o = off := by
    rw [wordOffset, ho, Nat.div_mul_cancel word]
  rw [exec_snoopedWordWrite run base done _ v (by rw [whole]; exact snooped), whole,
    snoopedWrite_full, baseOf_eq base]

/-- Settles O54: an access by its classification, the port by its claims, the end of an access by what it is, and the zone map by offset. -/
theorem processorAccessesTakeThePortOrEndInside :
    Obligations.ProcessorAccessesTakeThePortOrEndInside := by
  refine ⟨fun a s i => exec_processorAccess_second i a, fun a s i => ⟨fun h => ?_, fun run b base =>
      ⟨fun off area early => ?_, fun port => ?_, fun off area done => ?_⟩⟩,
    fun s => ⟨rfl, arbitrate_grants s⟩, fun s t ht => ?_,
    fun v off o s b run base done snooped ho word =>
      ⟨_, rfl, exec_snoopedWordWrite_full run base done snooped ho word⟩,
    fun b a => ⟨offsetIn_inside, offsetIn_outside⟩,
    fun off _ => ⟨treatment_snooped, treatment_guarded, ?_, treatment_zone, treatment_free⟩⟩
  · exact exec_processorAccess_held i (classify_no_base h a)
  · exact exec_processorAccess_held i (classify_before_done run base area early)
  · refine exec_processorAccess_waiting i ?_
    rcases port with outside | ⟨off, area, done, uses⟩
    · exact classify_outside run base outside
    · exact (classify_served run base area done).trans (treatAccess_port uses s)
  · exact processorAccess_inside i run base area done
  · subst ht
    refine ⟨exec_processorAccessComplete_idle, fun a i port => ?_⟩
    rw [exec_processorAccessComplete i port]
    refine ⟨fun w => congrArg _ (finishAccess_read w _), fun v w => ⟨_, rfl, ?_⟩⟩
    obtain ⟨plain, snooped⟩ := finishAccess_written w (arbitrate s)
    refine ⟨fun h => congrArg _ (plain h), fun off h => ⟨fun full => congrArg _ ?_,
      fun part run => congrArg _ ?_⟩⟩
    · exact (snooped off h).1 full
    · exact (snooped off h).2 part run
  · rintro rfl
    rfl

end Sys2Proof.Machine

namespace Sys2Proof.Machine

/-! ### A report leaves its holder for a place in the queue (R33, R105, R126, R149, R172, R176) -/

section

variable {s : State} {e : Event}

/-- An offer entry's report is placed, and a CLOSING entry becomes FREE (R105). -/
theorem placeFrom_offer {i : Nat} {o : Offer} (he : heldEvent s (.offer i) = some e)
    (ho : s.offers.entries.getD i none = some o) :
    placeFrom (.offer i) s = placeEvent e (setOffer i o.placed s) := by
  rw [heldEvent, ho, Option.bind_some] at he
  obtain ⟨r, held, rfl⟩ := Option.map_eq_some_iff.1 he
  simp only [placeFrom, ho, held]

/-- A slot's report is placed, and a slot without an entry reference becomes FREE (R126). -/
theorem placeFrom_slot {i : Nat} {x : Slot} (he : heldEvent s (.slot i) = some e)
    (hx : s.pool.slots.getD i none = some x) :
    placeFrom (.slot i) s = placeEvent e (setSlot i x.placed s) := by
  rw [heldEvent, hx, Option.bind_some] at he
  obtain ⟨r, held, rfl⟩ := Option.map_eq_some_iff.1 he
  simp only [placeFrom, hx, held]

/-- The trip recorder gives up its first report (R33). -/
theorem placeFrom_trip (he : heldEvent s .trip = some e) : placeFrom .trip s =
    placeEvent e (s.setTrip { s.trip with reports := s.trip.reports.drop 1 }) := by
  obtain ⟨r, first, rfl⟩ := Option.map_eq_some_iff.1 he
  obtain ⟨rs, hrs⟩ := List.head?_eq_some_iff.1 first
  simp only [placeFrom, hrs, List.drop_one, List.tail_cons]

/-- The pending EMERGENCY_STATE is placed, and its state is the one last placed (R149). -/
theorem placeFrom_emergency {r : EmReport} (he : heldEvent s .emergency = some e)
    (hr : s.emerg.report = some r) : placeFrom .emergency s =
      placeEvent e (s.setEmerg { s.emerg with report := none, lastPlaced := r.now }) := by
  rw [heldEvent, hr] at he
  obtain rfl : r.event s.emerg.lastPlaced = e := Option.some.inj he
  simp only [placeFrom, hr]

/-- The report of a commit is placed (R176). -/
theorem placeFrom_settings (he : heldEvent s .settings = some e) : placeFrom .settings s =
    placeEvent e (s.setSettings { s.settings with report := none }) := by
  obtain ⟨r, hr, rfl⟩ := Option.map_eq_some_iff.1 he
  simp only [placeFrom, hr]

end

/-- From s to t the events l join the queue, each counted generated, and what holds reports may be relieved of them; of the event writer, those holders, the radio side and the attention unit nothing else changes. -/
structure Relieved (l : List Event) (s t : State) : Prop where
  evw : t.evw = { s.evw with
    queue := s.evw.queue ++ l, generated := s.evw.generated + BitVec.ofNat 32 l.length }
  attn : t.attn = s.attn
  rx : t.rx = s.rx
  link : t.link = s.link
  uplink : t.uplink = s.uplink
  sup : t.sup = s.sup
  trip : t.trip = { s.trip with reports := t.trip.reports }
  offers : t.offers = { s.offers with entries := t.offers.entries }
  pool : t.pool = { s.pool with slots := t.pool.slots }
  emerg : t.emerg =
    { s.emerg with report := t.emerg.report, lastPlaced := t.emerg.lastPlaced }
  settings : t.settings = { s.settings with report := t.settings.report }

namespace Relieved

theorem refl (s : State) : Relieved [] s s := by
  refine ⟨?_, rfl, rfl, rfl, rfl, rfl, rfl, rfl, rfl, rfl, rfl⟩
  rw [List.append_nil, List.length_nil, BitVec.add_zero]

theorem trans {l m : List Event} {s t u : State} (h : Relieved l s t) (k : Relieved m t u) :
    Relieved (l ++ m) s u where
  evw := by
    rw [k.evw, h.evw, List.length_append, BitVec.ofNat_add, ← List.append_assoc,
      ← BitVec.add_assoc]
  attn := k.attn.trans h.attn
  rx := k.rx.trans h.rx
  link := k.link.trans h.link
  uplink := k.uplink.trans h.uplink
  sup := k.sup.trans h.sup
  trip := k.trip.trans (by rw [h.trip])
  offers := k.offers.trans (by rw [h.offers])
  pool := k.pool.trans (by rw [h.pool])
  emerg := k.emerg.trans (by rw [h.emerg])
  settings := k.settings.trans (by rw [h.settings])

end Relieved

/-- A holder whose report waits gives up that report and nothing else. -/
theorem placeFrom_relieved {src : HeldSource} {s : State} {e : Event}
    (he : heldEvent s src = some e) : Relieved [e] s (placeFrom src s) := by
  cases src with
  | offer i =>
    obtain ⟨r, hr, -⟩ := Option.map_eq_some_iff.1 he
    obtain ⟨o, ho, -⟩ := Option.bind_eq_some_iff.1 hr
    rw [placeFrom_offer he ho]
    exact ⟨rfl, rfl, rfl, rfl, rfl, rfl, rfl, rfl, rfl, rfl, rfl⟩
  | slot i =>
    obtain ⟨r, hr, -⟩ := Option.map_eq_some_iff.1 he
    obtain ⟨x, hx, -⟩ := Option.bind_eq_some_iff.1 hr
    rw [placeFrom_slot he hx]
    exact ⟨rfl, rfl, rfl, rfl, rfl, rfl, rfl, rfl, rfl, rfl, rfl⟩
  | trip =>
    rw [placeFrom_trip he]
    exact ⟨rfl, rfl, rfl, rfl, rfl, rfl, rfl, rfl, rfl, rfl, rfl⟩
  | emergency =>
    obtain ⟨r, hr, -⟩ := Option.map_eq_some_iff.1 he
    rw [placeFrom_emergency he hr]
    exact ⟨rfl, rfl, rfl, rfl, rfl, rfl, rfl, rfl, rfl, rfl, rfl⟩
  | settings =>
    rw [placeFrom_settings he]
    exact ⟨rfl, rfl, rfl, rfl, rfl, rfl, rfl, rfl, rfl, rfl, rfl⟩

/-! ### One place, and every place (R172) -/

theorem earliest_le {l : List (Nat × HeldSource)} {x : Nat × HeldSource}
    (h : earliest l = some x) : ∀ y ∈ l, x.1 ≤ y.1 := by
  induction l generalizing x with
  | nil => cases h
  | cons z zs ih =>
    unfold earliest at h
    split at h
    next alone =>
      obtain rfl : z = x := Option.some.inj h
      have nil : zs = [] := by
        by_contra more
        obtain ⟨w, hw, -⟩ := earliest_mem more
        rw [alone] at hw
        cases hw
      intro y hy
      rw [nil, List.mem_singleton] at hy
      rw [hy]
    next w hw =>
      have least := ih hw
      split at h
      next lt =>
        obtain rfl : w = x := Option.some.inj h
        exact List.forall_mem_cons.2 ⟨Nat.le_of_lt lt, least⟩
      next ge =>
        obtain rfl : z = x := Option.some.inj h
        exact List.forall_mem_cons.2
          ⟨Nat.le_refl _, fun y hy => Nat.le_trans (Nat.le_of_not_lt ge) (least y hy)⟩

/-- With a report that waits and a free place, the report produced earliest takes the place. -/
theorem placeOne_earliest {s : State} (run : s.phase = .running) (room : s.evw.queue.length < 16)
    (h : heldReports s ≠ []) : ∃ x e, x ∈ heldReports s ∧ (∀ y ∈ heldReports s, x.1 ≤ y.1) ∧
      heldEvent s x.2 = some e ∧ placeOne s = placeFrom x.2 s := by
  obtain ⟨x, hx, mem⟩ := earliest_mem h
  obtain ⟨e, he⟩ := Option.isSome_iff_exists.1 (heldEvent_of_mem mem)
  refine ⟨x, e, mem, earliest_le hx, he, ?_⟩
  rw [placeOne, if_pos ⟨run, room⟩, hx]

/-- With no report, no place, or in a reset nothing is placed (log entry 3). -/
theorem placeOne_stays {s : State}
    (h : heldReports s = [] ∨ 16 ≤ s.evw.queue.length ∨ s.phase ≠ .running) : placeOne s = s := by
  rcases h with none | full | reset
  · exact placeOne_idle none
  · exact if_neg fun c => Nat.not_lt.2 full c.2
  · exact if_neg fun c => reset c.1

theorem placeMany_stays (n : Nat) {s : State} (h : placeOne s = s) : placeMany n s = s := by
  induction n with
  | zero => rfl
  | succ n ih => rw [placeMany, h, ih]

/-- One try places nothing, or one event in a free place. -/
theorem placeOne_relieved (s : State) : ∃ l, Relieved l s (placeOne s) ∧
    (l = [] ∨ s.evw.queue.length < 16 ∧ l.length = 1) := by
  by_cases idle : heldReports s = [] ∨ 16 ≤ s.evw.queue.length ∨ s.phase ≠ .running
  · exact ⟨[], (placeOne_stays idle).symm ▸ Relieved.refl s, Or.inl rfl⟩
  · push Not at idle
    obtain ⟨waits, room, run⟩ := idle
    obtain ⟨x, e, -, -, he, ho⟩ := placeOne_earliest run room waits
    exact ⟨[e], ho ▸ placeFrom_relieved he, Or.inr ⟨room, rfl⟩⟩

theorem placeMany_relieved (n : Nat) (s : State) : ∃ l, Relieved l s (placeMany n s) := by
  induction n generalizing s with
  | zero => exact ⟨[], Relieved.refl s⟩
  | succ n ih =>
    obtain ⟨l, one, -⟩ := placeOne_relieved s
    obtain ⟨m, many⟩ := ih (placeOne s)
    exact ⟨l ++ m, one.trans many⟩

theorem placeMany_room (n : Nat) {s : State} (h : s.evw.queue.length ≤ 16) :
    (placeMany n s).evw.queue.length ≤ 16 := by
  induction n generalizing s with
  | zero => exact h
  | succ n ih =>
    refine ih ?_
    obtain ⟨l, one, size⟩ := placeOne_relieved s
    rw [one.evw, List.length_append]
    rcases size with rfl | ⟨room, single⟩
    · exact h
    · omega

theorem placeHeld_relieved (s : State) : ∃ l, Relieved l s (placeHeld s) :=
  placeMany_relieved Config.eventQueueSize s

theorem placeHeld_room {s : State} (h : s.evw.queue.length ≤ 16) :
    (placeHeld s).evw.queue.length ≤ 16 := by
  rw [placeHeld]
  exact placeMany_room _ h

theorem placeHeld_stays {s : State} (h : placeOne s = s) : placeHeld s = s :=
  placeMany_stays Config.eventQueueSize h

/-- The last of the tries may as well come last as first. -/
theorem placeMany_last (n : Nat) (s : State) : placeMany (n + 1) s = placeOne (placeMany n s) := by
  induction n generalizing s with
  | zero => rfl
  | succ n ih => exact ih (placeOne s)

/-- After placing all there is nothing left to place, or no place for it. -/
theorem placeOne_placeHeld (s : State) : placeOne (placeHeld s) = placeHeld s := by
  apply placeOne_stays
  by_cases run : s.phase = .running
  · by_cases room : (placeHeld s).evw.queue.length < 16
    · exact Or.inl (placeHeld_all run room)
    · exact Or.inr (Or.inl (Nat.not_lt.1 room))
  · exact Or.inr (Or.inr fun k => run ((placeHeld_quiet s).phase.symm.trans k))

/-- Placing one and then all is placing all. -/
theorem placeHeld_placeOne (s : State) : placeHeld (placeOne s) = placeHeld s :=
  (placeMany_last Config.eventQueueSize s).trans (placeOne_placeHeld s)

theorem exec_heldReportPlaced (s : State) : exec .heldReportPlaced s = .next (placeOne s) := rfl

/-- Settles O9: one place by the holder of the earliest report, all places by one placing after another. -/
theorem heldReportsTakeTheFreePlacesEarliestFirst :
    Obligations.HeldReportsTakeTheFreePlacesEarliestFirst := by
  refine ⟨fun s => ⟨fun run room waits => ?_, fun idle => ?_⟩, fun s t h => ?_,
    fun s => ⟨fun run size => ?_, ?_⟩⟩
  · obtain ⟨x, e, mem, least, he, placed⟩ := placeOne_earliest run room waits
    refine ⟨placeFrom x.2 s, x, e, placed ▸ exec_heldReportPlaced s, mem, least, he,
      (placeFrom_relieved he).evw, fun i o hx ho => ?_, fun i o hx ho => ?_, fun hx => ?_,
      fun r hx hr => ?_, fun hx => ?_⟩
    all_goals rw [hx] at he ⊢
    · rw [placeFrom_offer he ho]
      rfl
    · rw [placeFrom_slot he ho]
      rfl
    · rw [placeFrom_trip he]
      rfl
    · rw [placeFrom_emergency he hr]
      rfl
    · rw [placeFrom_settings he]
      rfl
  · rw [exec_heldReportPlaced, placeOne_stays idle]
  · obtain rfl : placeOne s = t := Host.Outcome.next.inj h
    exact (placeHeld_placeOne s).symm
  · by_cases room : (placeHeld s).evw.queue.length < 16
    · exact Or.inl (placeHeld_all run room)
    · exact Or.inr (Nat.le_antisymm (placeHeld_room size) (Nat.not_lt.1 room))
  · obtain ⟨l, all⟩ := placeHeld_relieved s
    exact ⟨⟨l, all.evw⟩, fun idle => placeHeld_stays (placeOne_stays idle), all.attn, all.rx,
      all.link, all.uplink, all.sup, all.trip, all.offers, all.pool, all.emerg, all.settings,
      (placeHeld_quiet s).restKept⟩

end Sys2Proof.Machine

namespace Sys2Proof.Machine

/-! ### An event at a place, dropped or discarded (R172, R173; log entry 11) -/

section

variable {s : State}

theorem produce_placed (run : s.phase = .running) (room : s.evw.queue.length < 16) (tag : Half)
    (p : Payload) : produce tag p s = s.setEvw { s.evw with
      queue := s.evw.queue ++ [{ tag := tag, time := s.clock, payload := p }],
      generated := s.evw.generated + 1 } := by
  rw [produce, if_pos run]
  exact if_pos room

theorem produce_dropped (run : s.phase = .running) (full : 16 ≤ s.evw.queue.length) (tag : Half)
    (p : Payload) : produce tag p s =
      (s.setEvw { s.evw with generated := s.evw.generated + 1, lost := s.evw.lost + 1,
                             countersStale := true }).setAttn
        { s.attn with factors := s.attn.factors ||| 0x002#9 } := by
  have dropped : ¬ s.evw.queue.length < Config.eventQueueSize := Nat.not_lt.2 full
  rw [produce, if_pos run, if_neg dropped, dropEvent, raiseFactor_eq,
    State.setEvw_phase, if_pos run]
  rfl

theorem produce_discarded (reset : s.phase ≠ .running) (tag : Half) (p : Payload) :
    produce tag p s = s := if_neg reset

end

/-! ### The packed text (R183) -/

theorem charBits7_length (c : Byte) : (charBits7 c).length = 7 := by
  rw [charBits7, List.length_map, List.length_range]

theorem charBits7_getD (c : Byte) {i : Nat} (h : i < 7) :
    (charBits7 c).getD i false = c.getLsbD i := by
  simp [charBits7, List.getD_eq_getElem?_getD, h]

theorem flatMap_charBits7_length (x : List Byte) : (x.flatMap charBits7).length = 7 * x.length := by
  induction x with
  | nil => rfl
  | cons c x ih => rw [List.flatMap_cons, List.length_append, charBits7_length, ih,
      List.length_cons, Nat.mul_succ, Nat.add_comm]

/-- Bit i of a packed text is bit i % 7 of character i / 7. -/
theorem flatMap_charBits7_getD (x : List Byte) (i : Nat) :
    (x.flatMap charBits7).getD i false =
      (decide (i < 7 * x.length) && (byteAt x (i / 7)).getLsbD (i % 7)) := by
  induction x generalizing i with
  | nil => rfl
  | cons c x ih =>
    rw [List.flatMap_cons]
    by_cases first : i < 7
    · rw [List.getD_append _ _ _ _ (by rwa [charBits7_length]), charBits7_getD c first,
        Nat.div_eq_of_lt first, Nat.mod_eq_of_lt first,
        decide_eq_true (by rw [List.length_cons]; omega)]
      rfl
    · obtain ⟨j, rfl⟩ := Nat.exists_eq_add_of_le' (Nat.not_lt.1 first)
      have later : (j + 7 < 7 * (c :: x).length) = (j < 7 * x.length) := by
        rw [List.length_cons, Nat.mul_succ, Nat.add_lt_add_iff_right]
      rw [List.getD_append_right _ _ _ _ (by rw [charBits7_length]; omega), charBits7_length,
        Nat.add_sub_cancel, ih, Nat.add_div_right _ (by decide), Nat.add_mod_right]
      simp only [later]
      rfl

/-- The number of a bit string has the string's bits. -/
theorem natOfBits_testBit (bs : List Bool) (i : Nat) :
    (natOfBits bs).testBit i = bs.getD i false := by
  induction bs generalizing i with
  | nil => exact Nat.zero_testBit i
  | cons b bs ih =>
    cases i with
    | zero => cases b <;> simp [natOfBits, Nat.testBit_zero]
    | succ i =>
      have half : natOfBits (b :: bs) / 2 = natOfBits bs := by
        rw [natOfBits]
        split <;> omega
      rw [Nat.testBit_succ, half, ih, List.getD_cons_succ]

theorem bytesOfBits_length (n : Nat) (bs : List Bool) : (bytesOfBits n bs).length = n := by
  induction n generalizing bs with
  | zero => rfl
  | succ n ih => rw [bytesOfBits, List.length_cons, ih]

/-- Bit k of byte j is bit 8 j + k of the bit string. -/
theorem bytesOfBits_bit (n : Nat) (bs : List Bool) (j : Nat) {k : Nat} (hk : k < 8) :
    (byteAt (bytesOfBits n bs) j).getLsbD k = (decide (j < n) && bs.getD (8 * j + k) false) := by
  induction n generalizing bs j with
  | zero => simp [bytesOfBits, byteAt]
  | succ n ih =>
    cases j with
    | zero =>
      rw [bytesOfBits, byteAt, List.getD_cons_zero, BitVec.getLsbD_ofNat, natOfBits_testBit]
      simp [List.getD_eq_getElem?_getD, hk]
    | succ j =>
      have next : 8 + (8 * j + k) = 8 * (j + 1) + k := by omega
      rw [bytesOfBits, byteAt, List.getD_cons_succ, ← byteAt, ih]
      simp [List.getD_eq_getElem?_getD, next]

theorem pack7_length (x : List Byte) : (pack7 x).length = (7 * x.length + 7) / 8 :=
  bytesOfBits_length _ _

theorem pack7_bit (x : List Byte) (i : Nat) : (byteAt (pack7 x) (i / 8)).getLsbD (i % 8) =
    (decide (i < 7 * x.length) && (byteAt x (i / 7)).getLsbD (i % 7)) := by
  rw [pack7, bytesOfBits_bit _ _ _ (Nat.mod_lt _ (by decide)), Nat.div_add_mod,
    flatMap_charBits7_getD, ← Bool.and_assoc]
  congr 1
  rw [← Bool.decide_and, decide_eq_decide]
  omega

/-! ### The payloads of Table 45 (R182, R183; log entry 32) -/

/-- A text field closes a payload: its length byte, then its characters. -/
theorem append_textField (bs x : List Byte) (t : Bool) :
    bs ++ textField x t = bs ++ bytesLE 1 (x.length + if t then 128 else 0) ++ x :=
  (List.append_assoc _ _ _).symm

/-- The black box byte of an EMERGENCY_STATE tells whether a box is captured and by what. -/
theorem capturedCode_eq {b : Option RaiseSource} {k : Nat} (absent : b = none → k = 0)
    (switch : b = some .switch → k = 1) (request : b = some .request → k = 3) :
    capturedCode b = k := by
  rcases b with _ | (_ | _)
  · exact (absent rfl).symm
  · exact (switch rfl).symm
  · exact (request rfl).symm

/-- Settles O8: the three ways of an event, then Table 45 payload by payload, the packed text and the codes. -/
theorem eventsPlacedAtOnce : Obligations.EventsPlacedAtOnce := by
  refine ⟨fun tag p s => ⟨fun run room => produce_placed run room tag p,
      fun run full => produce_dropped run full tag p, fun reset => produce_discarded reset tag p⟩,
    fun _ _ => ⟨rfl, rfl⟩, fun _ _ _ _ _ x t => ⟨rfl, append_textField _ x t⟩,
    fun _ _ _ _ x t => ⟨rfl, append_textField _ x t⟩, fun _ _ _ => ⟨rfl, rfl⟩,
    fun _ _ _ => ⟨rfl, rfl⟩, fun _ => ⟨rfl, rfl⟩, fun _ _ _ _ _ _ _ _ _ => ⟨rfl, rfl⟩,
    fun _ _ _ _ _ => ⟨rfl, rfl, rfl, rfl⟩, fun _ _ _ _ _ _ _ _ _ _ => ⟨rfl, rfl⟩,
    fun _ _ _ _ => ⟨rfl, rfl⟩, fun _ _ _ _ _ _ => ⟨rfl, rfl⟩, fun _ _ _ _ _ _ _ => ⟨rfl, rfl⟩,
    fun _ _ => ⟨rfl, rfl⟩, fun _ _ => ⟨rfl, rfl⟩, fun _ _ _ _ => ⟨rfl, rfl⟩,
    fun _ _ _ _ _ => ⟨rfl, rfl⟩, fun x y c r n b m k absent switch request => ⟨rfl, ?_⟩,
    fun _ _ => ⟨rfl, rfl⟩, fun _ _ => ⟨rfl, rfl⟩, fun x => ⟨pack7_length x, pack7_bit x⟩,
    rfl, rfl, rfl, rfl, rfl, rfl, rfl, rfl, rfl, rfl, rfl, rfl, rfl, rfl, rfl, rfl⟩
  rw [← capturedCode_eq absent switch request]
  rfl

end Sys2Proof.Machine

namespace Sys2Proof.Machine

/-! ### The step and the queue of commands (log entry 1) -/

theorem step_of_pending_cons {c : Instr} {rest : List Instr} {s : State}
    (front : s.pending = c :: rest) : step s = exec c (s.setPending rest) := by
  rw [step, front]

theorem step_of_pending_nil {s : State} (idle : s.pending = []) : step s = .next s := by
  rw [step, idle]

/-- Settles O1: `step` splits on the queue alone, and each half is its equation for one constructor. -/
theorem stepRunsTheFrontCommandOrIdles : Obligations.StepRunsTheFrontCommandOrIdles :=
  ⟨fun _ _ _ front => step_of_pending_cons front, fun _ idle => step_of_pending_nil idle⟩

end Sys2Proof.Machine
